-- ==== Sys2Proof/Word.lean ====
section
/-!
DEFINITION. The word types of the ZS1 engine and the table type its state is made of.
-/

namespace Sys2Proof

/-- One byte of memory, a descriptor or a record (R6: little-endian everywhere). -/
abbrev Byte := BitVec 8

/-- A 32-bit word: a register, a ring index, a user tag, an FP32 pattern. -/
abbrev Word := BitVec 32

/-- The four arithmetic flags of R67: bit 0 INX, bit 1 UNF, bit 2 OVF, bit 3 INV. -/
abbrev FlagSet := BitVec 4

/-- A table by number, in one canonical form: keys strictly rising, no entry equal to the value an
unlisted key has. Memories are the case of bytes by address. -/
abbrev Table (α : Type) := List (Nat × α)

end Sys2Proof
end

