-- ==== Sys2Proof/Config.lean ====
section
/-!
DEFINITION. What the manual leaves open and no command can show: free values. None has a body, so a
statement that mentions one holds whatever it is. The fixed sizes of the ZS1 stand here too.
-/

namespace Sys2Proof.Config

/-- The logical core whose stochastic-rounding generator rounds the output at (row, column) of a kernel's
output. R126 leaves the placement to the tile plan and the configuration: the first argument is the kernel's
parameters with its context's clusters. DESIGN CHOICE, log 10. -/
opaque srCore : Nat → Nat → Nat → Nat

/-- The scale byte a load or store finds where the descriptor carries scales and names no scale plane
(R49 asks every such descriptor to name one; GEMM, attention, SFU_MAP and NORM have no field for it).
DESIGN CHOICE, log 11. The arguments are a draw number and the block's index. -/
opaque unplacedScale : Nat → Nat → BitVec 8

/-- The contents of a histogram slot that two descriptors in flight name (R75: unpredictable).
DESIGN CHOICE, log 7. -/
opaque overlappedSlot : Nat → Nat → BitVec 8

/-- What a 64-byte unit of an output region holds after its descriptor was cut: whether the write landed
(R477, R488, R492 allow either). DESIGN CHOICE, log 7. -/
opaque cutWriteLands : Nat → Bool

/-- A scan result whose bytes were written while the scan ran (R446). DESIGN CHOICE, log 7. -/
opaque scannedWhileWritten : Nat → BitVec 64

/-- Cycles of a core's array without a weft row while a kernel runs there (R95, R540): the model has no cycles of a cluster
clock. The argument is a draw number. DESIGN CHOICE, log 6. -/
opaque bubbleCycles : Nat → BitVec 64

/-- Whether a core of a context's clusters runs the part of a kernel whose arithmetic raised a flag: firmware
places the work (R344, R345). The arguments are a draw number and the core. DESIGN CHOICE, log 8. -/
opaque coreShare : Nat → Nat → Bool

/-- The number of cores of a ZS1, present or not (R16, R540). -/
def cores : Nat := 32

/-- Clusters of a ZS1 (R1). -/
def clusters : Nat := 8

/-- Descriptors fetched and not dequeued that a ring may have (R448). -/
def maxFetched : Nat := 64

/-- Records that wait per completion ring (R450). -/
def maxWaiting : Nat := 256

/-- Pending range faults (R401). -/
def maxFaults : Nat := 4096

/-- Range Table entries (R386). -/
def rangeEntries : Nat := 16384

/-- Sequence ids (R238). -/
def sequences : Nat := 65536

/-- Cached sequence-table entries (R240). -/
def seqCacheEntries : Nat := 4096

/-- First address past the 57-bit physical space (R382). -/
def physEnd : Nat := 2 ^ 57

end Sys2Proof.Config
end

