-- ==== Sys2Proof/Syntax.lean ====
section
/-!
DEFINITION. The commands of the ZS1 engine: one constructor of `Instr` per row of spec/opcode_table.json,
with the operands that say which unit a command meets and what it brings from outside the block.
-/

namespace Sys2Proof

/-- A descriptor by its submission ring and its ring index, modulo 2^32 (R464). -/
structure Did where
  ring : Nat
  index : Word
  deriving DecidableEq, Repr

/-- What serial-memory discovery found (R507): readable SFDP, log2 of the density in bits, a 1-4-4 fast
read, and its largest frequency in MHz. -/
structure SfdpFound where
  readable : Bool
  logBits : Nat
  fast144 : Bool
  maxMhz : Nat
  deriving DecidableEq, Repr

/-- The faults the SRAM self-test found and repair did not cover (R506): (cluster, core of the cluster, row)
in OSP, AM or Piste memory; control cores; shared SRAM (an SS bank or the log store). -/
structure SramFaults where
  clusters : List (Nat × Nat × Nat)
  ccores : List Nat
  shared : Bool
  deriving DecidableEq, Repr

/-- What the code checks of a command's reads met (R321, R322): nothing, or at one of the rows read, counted in the
order in which they are named, a correctable error, an error that the one repeat cleared, or one that the repeat met
again. -/
inductive EccOutcome where
  | clean
  | corrected (row : Nat)
  | retried (row : Nat)
  | lasting (row : Nat)
  deriving DecidableEq, Repr

/-- What the parity checks of the SFU's seed and segment tables met (R148): nothing, or an error in one built-in
function's tables that the repeat cleared or met again. -/
inductive ParityOutcome where
  | clean
  | retried (fn : Nat)
  | lasting (fn : Nat)
  deriving DecidableEq, Repr

/-- What the check of the CRC of a command or table of a control core met (R28): it matched, it matched after one
regeneration, or it failed twice; its control core's watchdog then expires, and the check of the instruction memory passes
or fails (R29). -/
inductive CmdCheck where
  | matched | again
  | failed (imemOk : Bool)
  deriving DecidableEq, Repr

/-- A read whose data were refused (R481): an SS row by its code (R322), a read outside the block by POISON, by DECODE or ABORT
(R357), or by no response (R379), by its address, or a bolt page by its header (R230). -/
inductive BadRead where
  | ssRow (row : Nat)
  | poison (addr : Nat)
  | decode (addr : Nat)
  | silent (addr : Nat)
  | page (pool page : Nat)
  deriving DecidableEq, Repr

/-- What the data checks of a command's reads met (R480 to R482): nothing, a correctable error of an SS row, a read refused that
its one repeat delivered, or one that the repeat met again. -/
inductive ReadCheck where
  | clean
  | corrected (row : Nat)
  | retried (r : BadRead)
  | lasting (r : BadRead)
  deriving DecidableEq, Repr

/-- A descriptor performed as one command: which, and what the checks of its reads met. -/
structure RunCmd where
  d : Did
  reads : ReadCheck
  deriving DecidableEq, Repr

/-- A ring whose next descriptor is fetched (R448), and what the checks of that read met (R357). -/
structure FetchCmd where
  ring : Nat
  reads : ReadCheck
  deriving DecidableEq, Repr

/-- A poll that found nothing within 2 ms (R433): the group, and which of its live collectives polled, the oldest first. -/
structure PollLost where
  group : Nat
  which : Nat
  deriving DecidableEq, Repr

/-- A context's turn (R470, R472): on its cluster set, or with `unit` on its control core. -/
structure TurnOf where
  ctx : Nat
  unit : Bool
  deriving DecidableEq, Repr

/-- What strikes a control core (R29, R481): its watchdog expires, or a word of its memory fails, corrected, right when read again, or
lost; `imemOk` is what the check of its instruction memory then finds. -/
inductive CcoreEvent where
  | watchdog (imemOk : Bool)
  | corrected (word : Nat)
  | retried (word : Nat)
  | lost (word : Nat) (imemOk : Bool)
  deriving DecidableEq, Repr

/-- What is lost for good (R381, R488): a memory stack, or shared state without a retained copy. -/
inductive SharedLoss where
  | stack (n : Nat)
  | tagTable
  | credits
  | loomRouting
  deriving DecidableEq, Repr

/-- A step of a loop (R279): the loop, what the checks of the admissions and commits that its control core sends met (R28), and
what those of its reads met. -/
structure LoopTurn where
  loop : Nat
  chk : CmdCheck
  reads : ReadCheck
  deriving DecidableEq, Repr

/-- A command that a control core sends to another unit (R28): the descriptor it serves, what its check met, and what the checks of
its reads met. -/
structure SentCommand where
  d : Did
  chk : CmdCheck
  reads : ReadCheck
  deriving DecidableEq, Repr

/-- What the parity check of a check-value unit's registers met while it ran (R445): nothing, an error that the granule run
again did not meet, or one that it met again. -/
inductive UnitCheck where
  | clean | retried | lasting
  deriving DecidableEq, Repr

/-- A run of a check-value unit (R444, R445): how many granules, and what the parity check of its registers and the checks of its
reads met. -/
structure UnitRun where
  granules : Nat
  parity : UnitCheck
  reads : ReadCheck
  deriving DecidableEq, Repr

/-- The sweep's read of a working entry of the Range Table (R406, R481): its handle, and whether the SS row failed its
code. -/
structure SweepRead where
  handle : Nat
  damaged : Bool
  deriving DecidableEq, Repr

/-- A Piste step as it issues on a core or in the sequencer: its word (R331), the stride entry it names
(R334; 0 for STRIDX 0), its own repeat index, the iteration counts of the enclosing loops, the skein's
query-row and AM-tile bases (R336), first query head (R188) and first key (R211), `rowBase` and `group`, and what the step's reads and
the SFU's tables met. For a PASS
or MVMAT `rowBase` is the kernel's output row of weft row 0 and `group` the first group of its contraction (R115, R124);
for an EPI `rowBase` is the first output row and `group` the first output column (R154); for an SFU softmax step `group` is the
contraction group at which its block begins (R198). -/
structure Step where
  word : BitVec 128
  stride : BitVec 128
  i : Nat
  l0 : Nat
  l1 : Nat
  l2 : Nat
  l3 : Nat
  qrow : Nat
  atile : Nat
  head : Nat
  key : Nat
  rowBase : Nat
  group : Nat
  ecc : EccOutcome
  parity : ParityOutcome
  deriving DecidableEq, Repr

/-- A circular region of a plan (R304): KIND, first row relative to the area, rows per slot, slots. -/
structure RegionPlan where
  kind : Nat
  start : Nat
  slotRows : Nat
  nslot : Nat
  deriving DecidableEq, Repr

/-- What a plan claims on one core: the 32-byte bank map (R298), banks of the area (R300), AM tiles
(R135), the initial empty count of each claimed semaphore pair (R370), the regions, the micro-program slots (R346), and
the logical core index of its passes (R124). -/
structure CorePlan where
  core : Nat
  bankMap : List Byte
  banks : Nat
  amTiles : Nat
  pairs : List Word
  regions : List RegionPlan
  slots : List Nat
  lcore : Nat
  deriving DecidableEq, Repr

/-- A skein of the kernel's skein list (R336): core and slot, query-row base, AM tiles it needs, the kernel's output row
of its first query row (R124), its first query head (R188), the first key of its chunk (R211), and the slots it reads of each region: (region, slots) (R255). -/
structure SkeinPlan where
  core : Nat
  slot : Nat
  qrow : Nat
  tiles : Nat
  orow : Nat
  head : Nat
  key : Nat
  fills : List (Nat × Nat)
  deriving DecidableEq, Repr

/-- An SS range that the plan names (R311): a range reference at a row boundary, rows, reads and writes asked for. -/
structure SsRange where
  ref : Nat
  rows : Nat
  rd : Bool
  wr : Bool
  deriving DecidableEq, Repr

/-- Where a step of a table works in its kernel (R124, R154, R189, R219): the product it computes (`role`: 0 for a GEMM or
CONV; in attention as R189 and R219 list the products), and base, own-repeat stride and loop strides of `rowBase` and of
`group`, and whether a PASS takes its weft rows from the core's feeder queues (R139; log 15). -/
structure StepPlace where
  cluster : Nat
  word : Nat
  role : Nat
  row : List Nat
  group : List Nat
  fed : Bool
  deriving DecidableEq, Repr

/-- What an entry of the SFU program store does (R137, R198, R201, R209 to R211; log 15): a micro-program on every element, the
softmax of a key block's scores, the finish of the rows of an O tile as partial records or as O with or without its LSE, or
the fold and finish of so many partial records per row. -/
inductive SfuOp where
  | map | softmax
  | finish (part lse : Bool)
  | fold (parts : Nat) (lse : Bool)
  deriving DecidableEq, Repr

/-- An entry of the SFU program store (R137, R139, R333; log 15): what it does, the 256-byte image (R162), the conversion word of
its rows at entry (SRC) and exit (DST), whether its input is OSP rows, `first` rows past OROW, or an AM tile, and whether its rows
go to the core's feeder queues instead of the OSP. The factors of a softmax step are stored `first` rows past OROW, where a fold
reads its records; the LSE entries of a finish follow its rows. -/
structure SfuProg where
  op : SfuOp
  image : List Byte
  conv : Nat
  fromOsp : Bool
  first : Nat
  feeds : Bool
  deriving DecidableEq, Repr

/-- A kernel's plan as firmware hands it over at the kernel's start: per-core claims, SS ranges, the
transfer list (64-byte entries, R366), the SFU program store, the skein list,
the Piste table of each cluster (R329), and where its steps work. The arithmetic of its passes is the descriptor's. -/
structure Plan where
  cores : List CorePlan
  ss : List SsRange
  xfers : List (List Byte)
  progs : List SfuProg
  skeins : List SkeinPlan
  tables : List (Nat × List (BitVec 128))
  places : List StepPlace
  deriving DecidableEq, Repr

/-- A bulk transfer that a core's DMA queue takes in (R353, R363): its descriptor, handle, byte offset in the range, 64-byte units and
which of them are enabled (R356), direction, on the OSP side the core, first physical row and, for a fill, the region and the skein
whose pages it reads (R255), and what the code checks of the OSP rows that a write reads met. -/
structure DmaRequest where
  d : Did
  handle : Nat
  offset : Nat
  units : Nat
  isWrite : Bool
  core : Nat
  row : Nat
  region : Option Nat
  skein : Option Nat
  enables : BitVec 64
  ecc : EccOutcome
  deriving DecidableEq, Repr

/-- A remote access as R314 names it: source and target core, window, generation, row offset; `counted` says that a
write is the oldest in flight from source to target, which the bank's write-tag counter saw leave (R324); `ecc` what the
code checks of a read's rows met. -/
structure RemoteAccess where
  src : Nat
  target : Nat
  win : Nat
  gen : BitVec 16
  offset : Nat
  counted : Bool
  ecc : EccOutcome
  deriving DecidableEq, Repr

/-- A core's access to an SS row through an SS window (R310). -/
structure SsAccess where
  core : Nat
  win : Nat
  isWrite : Bool
  offset : Nat
  ecc : EccOutcome
  deriving DecidableEq, Repr

/-- Where a corrected row waits for its write-back (R321). -/
inductive EccPlace where
  | osp (core row : Nat)
  | ss (row : Nat)
  deriving DecidableEq, Repr

/-- What the patrol scrubber's read found (R323). -/
inductive EccFound where
  | clean | correctable | uncorrectableOnce | uncorrectable
  deriving DecidableEq, Repr

/-- The commands, in the order of the opcode table; each docstring gives the rule the table names. -/
inductive Instr where
  /-- POWER_ON (R502). -/
  | powerOn
  /-- BLOCK_RESET (R502). -/
  | blockReset
  /-- WAKE_FROM_P3 (R502). -/
  | wakeFromP3
  /-- STARTUP_PLL_LOCK (R504). -/
  | startupPllLock (locked : Bool)
  /-- SFDP_DISCOVERY_DONE (R507). -/
  | sfdpDiscoveryDone (found : SfdpFound)
  /-- FACTORY_RECORD_READ (R510). -/
  | factoryRecordRead
  /-- USER_RECORDS_READ (R511). -/
  | userRecordsRead
  /-- CALIBRATION_APPLIED (R513). -/
  | calibrationApplied
  /-- SRAM_SELFTEST_DONE (R506). -/
  | sramSelftestDone (faults : SramFaults)
  /-- SFU_SEED_CHECK_DONE (R147). -/
  | sfuSeedCheckDone (seedFails : List (Nat × Nat)) (segFails : List Nat)
  /-- FWSIG_CHECK_DONE (R515). -/
  | fwsigCheckDone (sigOk : Bool)
  /-- FWREAD_DONE (R515). -/
  | fwreadDone (hashOk : Bool)
  /-- FWLOAD_READY (R504). -/
  | fwloadReady
  /-- MBX_STATUS_REQUEST (R505). -/
  | mbxStatusRequest
  /-- MBX_FREQ_LIMIT (R34). -/
  | mbxFreqLimit (cluster code : Nat)
  /-- MBX_RESET (R502). -/
  | mbxReset
  /-- MBX_P3 (R522). -/
  | mbxP3
  /-- MBX_P3_FORCE (R522). -/
  | mbxP3Force
  /-- MBX_WAKE (R502). -/
  | mbxWake
  /-- MEMORY_STACK_LOST (R381). -/
  | memoryStackLost (loss : SharedLoss)
  /-- WATCH_ARMED (R360). -/
  | watchArmed (watch : Nat)
  /-- WATCH_HIT (R360). -/
  | watchHit (watch : Nat)
  /-- WATCH_LOST (R360). -/
  | watchLost (watch : Nat)
  /-- PROD_READ_RETURN (R448). -/
  | prodReadReturn (ring : Nat)
  /-- DESC_FETCH (R456). -/
  | descFetch (c : FetchCmd)
  /-- DESC_DEQUEUE (R458). -/
  | descDequeue (ring : Nat)
  /-- NOP (R459). -/
  | nop (d : Did)
  /-- ATTN_FWD (R180). -/
  | attnFwd (c : RunCmd)
  /-- ATTN_BWD (R217). -/
  | attnBwd (c : RunCmd)
  /-- GEMM (R461). -/
  | gemm (c : RunCmd)
  /-- CONV (R462). -/
  | conv (c : RunCmd)
  /-- NORM (R166). -/
  | norm (c : RunCmd)
  /-- SFU_MAP (R160). -/
  | sfuMap (c : RunCmd)
  /-- MERGE_FOLD (R213). -/
  | mergeFold (c : RunCmd)
  /-- MERGE_MAXSLOT (R213). -/
  | mergeMaxslot (c : RunCmd)
  /-- MERGE_RESCALE (R213). -/
  | mergeRescale (c : RunCmd)
  /-- MERGE_FINISH (R213). -/
  | mergeFinish (c : RunCmd)
  /-- MOVE (R369). -/
  | move (c : RunCmd)
  /-- CONVERT (R369). -/
  | convert (c : RunCmd)
  /-- TURN (R367). -/
  | turn (c : RunCmd)
  /-- BOLT_STEP (R246). -/
  | boltStep (c : SentCommand)
  /-- BOLT_ATOMIC_PHASE (R247). -/
  | boltAtomicPhase (d : Did)
  /-- BOLT_COMMIT (R261). -/
  | boltCommit (c : SentCommand)
  /-- BOLT_MIGRATE_MOVE (R265). -/
  | boltMigrateMove (c : SentCommand)
  /-- BOLT_MIGRATE_EXPORT (R265). -/
  | boltMigrateExport (c : SentCommand)
  /-- BOLT_MIGRATE_IMPORT (R265). -/
  | boltMigrateImport (c : SentCommand)
  /-- BOLT_MIGRATE_CHECK (R265). -/
  | boltMigrateCheck (c : SentCommand)
  /-- BOLT_POOL_CREATE (R226). -/
  | boltPoolCreate (c : SentCommand)
  /-- BOLT_POOL_DESTROY (R227). -/
  | boltPoolDestroy (c : SentCommand)
  /-- BOLT_POOL_RESET (R227). -/
  | boltPoolReset (c : SentCommand)
  /-- BOLT_POOL_QUERY (R232). -/
  | boltPoolQuery (c : SentCommand)
  /-- BOLT_POOL_SEQTAB (R227). -/
  | boltPoolSeqtab (c : SentCommand)
  /-- BOLT_POOL_SYNC (R227). -/
  | boltPoolSync (c : SentCommand)
  /-- LEAVE_REFERENCE_DROP (R248). -/
  | leaveReferenceDrop (seq : Nat)
  /-- PAGE_RETIRE_PUSH (R235). -/
  | pageRetirePush (pool : Nat) (isIndex : Bool) (number : Nat)
  /-- SEQ_CACHE_FILL (R241). -/
  | seqCacheFill (seq : Nat) (firstOk : Bool)
  /-- COLL_REDUCE (R410). -/
  | collReduce (c : SentCommand)
  /-- COLL_CREATE (R414). -/
  | collCreate (c : SentCommand)
  /-- COLL_DESTROY (R417). -/
  | collDestroy (c : SentCommand)
  /-- COLL_ROUND (R427). -/
  | collRound (group : Nat)
  /-- COLL_POLL_RETURN (R428). -/
  | collPollReturn (group peer : Nat)
  /-- COLL_RETRANSMIT (R428). -/
  | collRetransmit (group peer : Nat)
  /-- COLL_LOCAL_COMPLETE (R430). -/
  | collLocalComplete (group : Nat)
  /-- COLL_VOTE (R431). -/
  | collVote (group : Nat)
  /-- COLL_VERDICT (R431). -/
  | collVerdict (group : Nat)
  /-- COLL_TIMEOUT (R433). -/
  | collTimeout (p : PollLost)
  /-- CRC_SCAN (R436). -/
  | crcScan (d : Did) (run : UnitRun)
  /-- CRC_SCAN_RESUME (R444). -/
  | crcScanResume (d : Did) (run : UnitRun)
  /-- RANGE_SYNC_UPDATE (R394). -/
  | rangeSyncUpdate (d : Did)
  /-- RANGE_SYNC_NEW (R395). -/
  | rangeSyncNew (d : Did)
  /-- RANGE_RETIRE (R397). -/
  | rangeRetire (d : Did)
  /-- RETIRE_DRAIN_PHASE (R397). -/
  | retireDrainPhase (d : Did)
  /-- ADVISE_RESIDE (R404). -/
  | adviseReside (d : Did)
  /-- ADVISE_DEMOTE (R404). -/
  | adviseDemote (d : Did)
  /-- ADVISE_PREFETCH (R405). -/
  | advisePrefetch (d : Did)
  /-- PREFETCH_OLD_GEN_DRAINED (R405). -/
  | prefetchOldGenDrained (d : Did)
  /-- ADVISE_REPLY_RESUME (R402). -/
  | adviseReplyResume (d : Did)
  /-- ADVISE_REPLY_FAIL (R402). -/
  | adviseReplyFail (d : Did)
  /-- SEM_OP_POST (R460). -/
  | semOpPost (d : Did)
  /-- SEM_OP_WAIT (R460). -/
  | semOpWait (d : Did)
  /-- LOOP (R271). -/
  | loop (d : Did)
  /-- LOOP_STEP (R279). -/
  | loopStep (t : LoopTurn)
  /-- LOOP_RESUME (R292). -/
  | loopResume (loop : Nat)
  /-- TABLE_LOAD (R175). -/
  | tableLoad (d : Did)
  /-- TABLE_SWAP (R176). -/
  | tableSwap (d : Did)
  /-- TABLE_SWAP_FLIP (R177). -/
  | tableSwapFlip (d : Did)
  /-- SEED_TABLE_RELOAD (R179). -/
  | seedTableReload (core fn : Nat)
  /-- FENCE (R459). -/
  | fence (d : Did)
  /-- ABORT_ONE (R477). -/
  | abortOne (d : Did)
  /-- ABORT_CONTEXT (R477). -/
  | abortContext (d : Did)
  /-- COMPLETION_RECORD_WRITE (R465). -/
  | completionRecordWrite (cring : Nat)
  /-- COALESCE_TIMEOUT (R468). -/
  | coalesceTimeout (cring : Nat)
  /-- KERNEL_START (R375). -/
  | kernelStart (d : Did) (plan : Plan)
  /-- KERNEL_END (R338). -/
  | kernelEnd (ctx : Nat)
  /-- PISTE_HEAD (R330). -/
  | pisteHead (cluster ctx : Nat) (chk : CmdCheck)
  /-- PISTE_NOP (R333). -/
  | pisteNop (core : Nat) (st : Step)
  /-- PISTE_END (R338). -/
  | pisteEnd (core : Nat) (st : Step)
  /-- PISTE_LOOP (R335). -/
  | pisteLoop (cluster ctx : Nat) (st : Step)
  /-- PISTE_SKEIN (R336). -/
  | pisteSkein (cluster ctx : Nat) (st : Step)
  /-- SKEIN_START (R18). -/
  | skeinStart (core slot : Nat)
  /-- SKEIN_DISPATCH (R18). -/
  | skeinDispatch (core : Nat)
  /-- SKEIN_FINISH (R18). -/
  | skeinFinish (core slot : Nat)
  /-- PASS (R85). -/
  | pass (core : Nat) (st : Step)
  /-- SWAP (R90). -/
  | swap (core : Nat) (st : Step)
  /-- SHLOAD (R91). -/
  | shload (core : Nat) (st : Step)
  /-- TCLR (R133). -/
  | tclr (core : Nat) (st : Step)
  /-- MVEC (R105). -/
  | mvec (core : Nat) (st : Step)
  /-- MVMAT (R105). -/
  | mvmat (core : Nat) (st : Step)
  /-- SFU (R137). -/
  | sfu (core : Nat) (st : Step)
  /-- EPI (R154). -/
  | epi (core : Nat) (st : Step)
  /-- DMAIN (R341). -/
  | dmain (core : Nat) (st : Step)
  /-- DMAOUT (R368). -/
  | dmaout (core : Nat) (st : Step)
  /-- SEMW (R339). -/
  | semw (core : Nat) (st : Step)
  /-- SEMP (R340). -/
  | semp (core : Nat) (st : Step)
  /-- SEMAPHORE_POST_ARRIVE (R340). -/
  | semaphorePostArrive (core : Nat)
  /-- RTAKE (R306). -/
  | rtake (core : Nat) (st : Step)
  /-- RREL (R341). -/
  | rrel (core : Nat) (st : Step)
  /-- WOPEN (R315). -/
  | wopen (core : Nat) (st : Step)
  /-- WCLOSE (R316). -/
  | wclose (core : Nat) (st : Step)
  /-- TEARDOWN_DRAINED (R497). -/
  | teardownDrained (ctx : Nat)
  /-- HOLD_TIMEOUT (R339). -/
  | holdTimeout (core : Nat)
  /-- DMA_REQUEST_ISSUE (R363). -/
  | dmaRequestIssue (req : DmaRequest)
  /-- RANGE_FAULT_RECORD (R401). -/
  | rangeFaultRecord (part : Nat)
  /-- REGULATOR_REFILL (R469). -/
  | regulatorRefill (part : Nat)
  /-- FABRIC_READ_BEAT (R355). -/
  | fabricReadBeat (port tag : Nat)
  /-- FABRIC_WRITE_OK (R356). -/
  | fabricWriteOk (port tag : Nat)
  /-- FABRIC_POISON (R357). -/
  | fabricPoison (port tag : Nat)
  /-- FABRIC_DECODE (R357). -/
  | fabricDecode (port tag : Nat)
  /-- FABRIC_ABORT (R357). -/
  | fabricAbort (port tag : Nat)
  /-- FENCE_OK (R359). -/
  | fenceOk (port tag : Nat)
  /-- CREDIT_RETURN (R358). -/
  | creditReturn (port chan n : Nat)
  /-- REQUEST_TIMEOUT (R379). -/
  | requestTimeout (port tag : Nat)
  /-- LOOM_WRITE_ACK (R22). -/
  | loomWriteAck (core : Nat)
  /-- REMOTE_WRITE_ARRIVE (R314). -/
  | remoteWriteArrive (acc : RemoteAccess) (rows : List Byte)
  /-- REMOTE_READ_ARRIVE (R314). -/
  | remoteReadArrive (acc : RemoteAccess) (nrows : Nat)
  /-- SS_REQUEST (R308). -/
  | ssRequest (acc : SsAccess) (row : List Byte)
  /-- ECC_WRITEBACK (R321). -/
  | eccWriteback (place : EccPlace) (idle : Bool)
  /-- SS_SCRUB_TICK (R323). -/
  | ssScrubTick (found : EccFound)
  /-- AREA_CLEAR_DONE (R302). -/
  | areaClearDone (core ctx : Nat)
  /-- BANK_CLASS_CLEAR_DONE (R320). -/
  | bankClassClearDone (core bank : Nat)
  /-- BANK_ISOLATE (R325). -/
  | bankIsolate (core bank : Nat)
  /-- BANK_OFF (R325). -/
  | bankOff (core bank : Nat)
  /-- BANK_WAKE_DONE (R326). -/
  | bankWakeDone (core bank : Nat)
  /-- BANK_CLEAR_DONE (R326). -/
  | bankClearDone (core bank : Nat)
  /-- WATCHDOG_EXPIRY (R29). -/
  | watchdogExpiry (ccore : Nat) (e : CcoreEvent)
  /-- CONTROL_CORE_TAKEBACK (R30). -/
  | controlCoreTakeback (ctx : Nat)
  /-- BUDGET_EXPIRY (R470). -/
  | budgetExpiry (t : TurnOf)
  /-- TURN_END (R471). -/
  | turnEnd (t : TurnOf) (overrun : Nat)
  /-- MIRROR_SWEEP (R406). -/
  | mirrorSweep (r : SweepRead)
  /-- PLL_RELOCK_DONE (R519). -/
  | pllRelockDone (cluster : Nat)
  /-- POWER_GOOD (R519). -/
  | powerGood (cluster : Nat)
  /-- CLUSTER_P2_ENTRY (R521). -/
  | clusterP2Entry (cluster : Nat)
  /-- CLUSTER_RAMP_START (R523). -/
  | clusterRampStart (cluster : Nat)
  /-- CLUSTER_WAKE_DONE (R520). -/
  | clusterWakeDone (cluster : Nat)
  /-- THERMAL_SAMPLE (R524). -/
  | thermalSample (sensor : Nat) (raw : BitVec 16)
  /-- THROTTLE_STEP (R524). -/
  | throttleStep (cluster : Nat)
  /-- DEMAND_REPORT (R526). -/
  | demandReport (halfAmps : Nat)
  /-- ZT_VER_SEL_WRITE (R455). -/
  | ztVerSelWrite (value : Word)
  /-- ZT_RANGE_TBL_BASE_WRITE (R536). -/
  | ztRangeTblBaseWrite (init : Nat) (upper : Word)
  /-- PARTITION_ENABLE (R533). -/
  | partitionEnable (n : Nat) (value : Word)
  /-- PARTITION_DISABLE (R453). -/
  | partitionDisable (n : Nat) (value : Word)
  /-- CONTEXT_ENABLE (R533). -/
  | contextEnable (n : Nat) (value : Word)
  /-- CONTEXT_DISABLE (R453). -/
  | contextDisable (n : Nat) (value : Word)
  /-- SUBMISSION_RING_ENABLE (R533). -/
  | submissionRingEnable (n : Nat) (value : Word)
  /-- SUBMISSION_RING_DISABLE (R453). -/
  | submissionRingDisable (n : Nat) (value : Word)
  /-- COMPLETION_RING_ENABLE (R533). -/
  | completionRingEnable (n : Nat) (value : Word)
  /-- COMPLETION_RING_DISABLE (R453). -/
  | completionRingDisable (n : Nat) (value : Word)
  /-- ZT_CORE_FLAGS_CLEAR (R70). -/
  | ztCoreFlagsClear (core : Nat) (value raised : Word)
  /-- ZT_CLK_REQ_WRITE (R541). -/
  | ztClkReqWrite (cluster : Nat) (value : Word)
  /-- ZT_PWR_FLIM_WRITE (R542). -/
  | ztPwrFlimWrite (cluster : Nat) (value : Word)
  /-- PWR_CMD_BLOCK_RESET (R544). -/
  | pwrCmdBlockReset (key : BitVec 16)
  /-- PWR_CMD_ENTER_P3 (R544). -/
  | pwrCmdEnterP3 (key : BitVec 16)
  /-- CLUSTER_P0_REQUEST (R545). -/
  | clusterP0Request (cluster : Nat)
  /-- CLUSTER_P1_REQUEST (R545). -/
  | clusterP1Request (cluster : Nat)
  /-- CLUSTER_P2_REQUEST (R521). -/
  | clusterP2Request (cluster : Nat)
  /-- ZT_TEL_THROTTLE_WRITE (R547). -/
  | ztTelThrottleWrite (value : Word)
  /-- SPI_READ (R548). -/
  | spiRead (len : Nat)
  /-- SPI_PROGRAM (R549). -/
  | spiProgram (len : Nat)
  /-- SPI_ERASE_4K (R549). -/
  | spiErase4k
  /-- SPI_ERASE_64K (R549). -/
  | spiErase64k
  /-- SPI_READ_SFDP (R548). -/
  | spiReadSfdp (len : Nat)
  /-- SPI_OP_DONE (R549). -/
  | spiOpDone (deviceError : Bool)
  /-- ERR_LOG_ENTRY_LATCH (R550). -/
  | errLogEntryLatch (init entry : Nat)
  /-- REG_PAIR_LOWER_READ (R531). -/
  | regPairLowerRead (init offset : Nat)
  /-- REG_PAIR_LOWER_WRITE (R531). -/
  | regPairLowerWrite (init offset : Nat) (value : Word)
  /-- REG_WRITE (R529). -/
  | regWrite (init offset size : Nat) (value : Word)
  /-- TAP_IDCODE (R527). -/
  | tapIdcode
  /-- TAP_BYPASS (R527). -/
  | tapBypass (bit : Bool)
  /-- TAP_REGISTER_BRIDGE (R527). -/
  | tapRegisterBridge (isWrite : Bool) (offset : Nat) (value : Word)
  /-- TAP_SRAM_SELFTEST (R527). -/
  | tapSramSelftest (run : Bool) (faults : SramFaults)
  /-- TAP_SPI_DIRECT (R527). -/
  | tapSpiDirect (isWrite : Bool) (addr : Nat) (data : List Byte)
  /-- FABRIC_LINK_UP (R358). -/
  | fabricLinkUp (port req wdat rsp : Nat)
  /-- REGISTER_PORT_READY (R505). -/
  | registerPortReady
  /-- MAILBOX_STATUS_READY (R505). -/
  | mailboxStatusReady
  deriving DecidableEq, Repr

end Sys2Proof
end

