-- ==== Sys2Proof/WellFormed.lean ====
section
/-!
DEFINITION. Which commands spell units the ZS1 has: the number of every unit within its count. A command
that breaks this names nothing, and its meaning changes nothing (log 2).
-/

namespace Sys2Proof

/-- A descriptor name: one of the 64 submission rings (R447). -/
def Did.wf (d : Did) : Bool := d.ring < 64

/-- One of the 32 physical cores (R540). -/
def wfCore (c : Nat) : Bool := c < Config.cores

/-- One of the 8 clusters (R1). -/
def wfCluster (c : Nat) : Bool := c < Config.clusters

/-- One of the 16 OSP banks of a core (R294). -/
def wfBank (core bank : Nat) : Bool := wfCore core && bank < 16

/-- A tag on one of the 12 ports (R352, R354: 12 bits). -/
def wfTag (port tag : Nat) : Bool := port < 12 && tag < 4096

/-- The units a command names exist on a ZS1. -/
def Instr.wf : Instr → Bool
  | .mbxFreqLimit cluster code => wfCluster cluster && code ≤ 24
  | .watchArmed w | .watchHit w | .watchLost w => w < 128
  | .prodReadReturn r | .descDequeue r => r < 64
  | .descFetch c => c.ring < 64
  | .attnFwd c | .attnBwd c | .gemm c | .conv c | .norm c | .sfuMap c | .mergeFold c
  | .mergeMaxslot c | .mergeRescale c | .mergeFinish c | .move c | .convert c | .turn c => c.d.wf
  | .nop d | .boltAtomicPhase d | .rangeSyncUpdate d | .rangeSyncNew d | .rangeRetire d
  | .retireDrainPhase d | .adviseReside d | .adviseDemote d | .advisePrefetch d
  | .prefetchOldGenDrained d | .adviseReplyResume d | .adviseReplyFail d | .semOpPost d
  | .semOpWait d | .loop d | .tableLoad d | .tableSwap d | .tableSwapFlip d | .fence d
  | .abortOne d | .abortContext d => d.wf
  | .boltStep c | .boltCommit c | .boltMigrateMove c | .boltMigrateExport c | .boltMigrateImport c
  | .boltMigrateCheck c | .boltPoolCreate c | .boltPoolDestroy c | .boltPoolReset c | .boltPoolQuery c
  | .boltPoolSeqtab c | .boltPoolSync c | .collReduce c | .collCreate c | .collDestroy c => c.d.wf
  | .crcScan d _ | .crcScanResume d _ | .kernelStart d _ => d.wf
  | .leaveReferenceDrop seq => seq < Config.sequences
  | .pageRetirePush pool _ n => pool < 16 && n < 2 ^ 26
  | .seqCacheFill seq _ => seq < Config.sequences
  | .collRound g | .collLocalComplete g | .collVote g | .collVerdict g => g < 256
  | .collTimeout p => p.group < 256 && p.which < 2
  | .collPollReturn g p | .collRetransmit g p => g < 256 && p < 4096
  | .loopStep t => t.loop < 32
  | .loopResume l => l < 32
  | .seedTableReload core fn => wfCore core && 0x10 ≤ fn && fn ≤ 0x19
  | .completionRecordWrite c | .coalesceTimeout c => c < 64
  | .kernelEnd ctx | .teardownDrained ctx | .controlCoreTakeback ctx => ctx < 32
  | .budgetExpiry t | .turnEnd t _ => t.ctx < 32
  | .pisteHead cl ctx _ | .pisteLoop cl ctx _ | .pisteSkein cl ctx _ => wfCluster cl && ctx < 32
  | .pisteNop c _ | .pisteEnd c _ | .pass c _ | .swap c _ | .shload c _ | .tclr c _ | .mvec c _
  | .mvmat c _ | .sfu c _ | .epi c _ | .dmain c _ | .dmaout c _ | .semw c _ | .semp c _
  | .rtake c _ | .rrel c _ | .wopen c _ | .wclose c _ => wfCore c
  | .skeinStart c slot | .skeinFinish c slot => wfCore c && slot < 256
  | .skeinDispatch c | .semaphorePostArrive c | .holdTimeout c | .loomWriteAck c => wfCore c
  | .dmaRequestIssue r => r.d.wf && r.handle < Config.rangeEntries && 1 ≤ r.units && r.units ≤ 64
  | .rangeFaultRecord p | .regulatorRefill p => p < 8
  | .fabricReadBeat p t | .fabricWriteOk p t | .fabricPoison p t | .fabricDecode p t
  | .fabricAbort p t | .fenceOk p t | .requestTimeout p t => wfTag p t
  | .creditReturn p chan _ => p < 12 && chan < 2
  | .remoteWriteArrive a rows => wfCore a.src && wfCore a.target && a.win < 4 && rows.length % 512 == 0
  | .remoteReadArrive a _ => wfCore a.src && wfCore a.target && a.win < 4
  | .ssRequest a row => wfCore a.core && a.win < 128 && (!a.isWrite || row.length == 512)
  | .eccWriteback (.osp c row) _ => wfCore c && row < 8192
  | .eccWriteback (.ss row) _ => row < 262144
  | .areaClearDone c ctx => wfCore c && ctx < 32
  | .bankClassClearDone c b | .bankIsolate c b | .bankOff c b | .bankWakeDone c b
  | .bankClearDone c b => wfBank c b
  | .watchdogExpiry c _ => c < 4
  | .ssScrubTick _ => true
  | .mirrorSweep r => r.handle < Config.rangeEntries
  | .pllRelockDone c | .powerGood c | .clusterP2Entry c | .clusterRampStart c | .clusterWakeDone c
  | .throttleStep c | .ztClkReqWrite c _ | .ztPwrFlimWrite c _ | .clusterP0Request c
  | .clusterP1Request c | .clusterP2Request c => wfCluster c
  | .thermalSample sensor _ => sensor < 40
  | .demandReport a => a < 4096
  | .partitionEnable n v => n < 8 && v.getLsbD 0
  | .partitionDisable n v => n < 8 && !v.getLsbD 0
  | .contextEnable n v => n < 32 && v.getLsbD 0
  | .contextDisable n v => n < 32 && !v.getLsbD 0
  | .submissionRingEnable n v | .completionRingEnable n v => n < 64 && v.getLsbD 0
  | .submissionRingDisable n v | .completionRingDisable n v => n < 64 && !v.getLsbD 0
  | .ztCoreFlagsClear c _ _ => wfCore c
  | .spiRead n | .spiProgram n | .spiReadSfdp n => 1 ≤ n && n ≤ 256
  | .errLogEntryLatch _ e => e < 256
  | .regPairLowerRead _ o | .regPairLowerWrite _ o _ => o % 4 == 0 && o < 65536
  | .regWrite _ o _ _ | .tapRegisterBridge _ o _ => o < 65536
  | .fabricLinkUp p _ _ _ => p < 12
  | .powerOn | .blockReset | .wakeFromP3 | .startupPllLock _ | .sfdpDiscoveryDone _
  | .factoryRecordRead | .userRecordsRead | .calibrationApplied | .sramSelftestDone _
  | .sfuSeedCheckDone _ _ | .fwsigCheckDone _ | .fwreadDone _ | .fwloadReady | .mbxStatusRequest
  | .mbxReset | .mbxP3 | .mbxP3Force | .mbxWake | .memoryStackLost _ | .ztVerSelWrite _
  | .ztRangeTblBaseWrite _ _ | .pwrCmdBlockReset _ | .pwrCmdEnterP3 _ | .ztTelThrottleWrite _
  | .spiErase4k | .spiErase64k | .spiOpDone _ | .tapIdcode | .tapBypass _ | .tapSramSelftest _ _
  | .tapSpiDirect _ _ _ | .registerPortReady | .mailboxStatusReady => true

end Sys2Proof
end

