-- ==== Sys2Proof/Machine/State.lean ====
section
/-!
DEFINITION. The state of the ZS1 engine: everything the manual gives the block, as plain data, the memory
outside it, and the queue of waiting commands. INVENTORY.md lists each field with its rule and reset value.
-/

namespace Sys2Proof.Machine

/-! ### Management plane -/

/-- What manufacture fixes (R1, R24, R382, R535): the fused configuration (0 K3-X, 1 K3-H, 2 K3-M), the
clusters that are present, the local chip id and the silicon version. -/
structure Part where
  config : Nat
  fused : BitVec 8
  chip : BitVec 12
  rev : BitVec 8
  deriving DecidableEq, Repr

/-- The start-up phases (R504). -/
inductive Phase where
  | reset | sfdp | factory | records | calib | selftest | sfucheck | fwsig | fwread | fwload | ready
  | startFail
  deriving DecidableEq, Repr

/-- The block has power, or is in P3 (R520, R522). -/
inductive BlockPower where
  | on | p3
  deriving DecidableEq, Repr

/-- A cluster's power state (R520, R543). -/
inductive PwrState where
  | p0 | p1 | p2 | changing
  deriving DecidableEq, Repr

/-- A frequency change of a cluster (R519): none, the idle PLL relocking at a code, or a raise waiting for
power-good. -/
inductive FreqChange where
  | none
  | relock (code : Nat)
  | awaitPower (code : Nat)
  deriving DecidableEq, Repr

/-- One cluster's clock and power registers (R541, R543). Frequency codes are f = 600 + 25 * code MHz. -/
structure Cluster where
  req : Nat
  cur : Nat
  mbxLim : Nat
  thermMhz : Nat
  ceilMhz : Nat
  appReq : Nat
  appMbx : Nat
  change : FreqChange
  pwrReq : Nat
  pwr : PwrState
  entering : Bool
  wakeAfter : Bool
  ramping : Bool
  deriving DecidableEq, Repr

/-- A calibration item of the factory record: VAL, LO and HI (R512). -/
structure CalItem where
  val : Int
  lo : Int
  hi : Int
  deriving DecidableEq, Repr

/-- One thermal sensor: value in 0.125 °C units and whether it has been sampled (R546). -/
structure Sensor where
  temp : BitVec 16
  valid : Bool
  deriving DecidableEq, Repr

/-- The operations of ZT_SPI_CTL (R548). -/
inductive SpiOp where
  | read | program | erase4k | erase64k | readSfdp
  deriving DecidableEq, Repr

/-- A reply of the management mailbox (R505): the phase and cause of a status request, BUSY, or done. -/
inductive MbxReply where
  | status (phase : Phase) (cause : Nat)
  | busy
  | done
  deriving DecidableEq, Repr

/-- The management plane (chapter 17 and the registers of chapter 18). -/
structure Mgmt where
  part : Part
  power : BlockPower
  phase : Phase
  portReady : Bool
  mbxReady : Bool
  fatal : Bool
  cause : Nat
  cmdref : Bool
  image : Nat
  tried : List Nat
  choice : Option Nat
  minver : Nat
  calFactory : Table CalItem
  calDelta : Table Int
  repairMap : List Byte
  clmask : BitVec 8
  clusters : Table Cluster
  calPoint : Int
  point : Int
  sensors : Table Sensor
  demand : Nat
  early : Bool
  lastRamp : Option Nat
  spiAddr : Word
  spiBusy : Bool
  spiDone : Bool
  spiErr : Nat
  spiOp : Option (SpiOp × Nat)
  spiBuf : Table Byte
  spiLogBits : Nat
  spiMhz : Nat
  flash : Table Byte
  sfdp : Table Byte
  mbxOut : List MbxReply
  mbxReports : List Nat
  deriving DecidableEq, Repr

/-! ### The error log and the register port -/

/-- An entry of the error log (R500). -/
structure LogEntry where
  seq : Word
  event : Nat
  cls : Nat
  unit : Nat
  index : Nat
  place : Nat
  ctx : Nat
  count : Nat
  tag : Word
  time : Nat
  deriving DecidableEq, Repr

/-- The error log (R499): entries by SEQ mod 256, HEAD, LOST, the time of the latest event merged into the
newest entry, and, for WEAK (R484), the times of successful repeats by event, unit, instance and place and
the time of the last WEAK of each. -/
structure ErrLog where
  entries : Table LogEntry
  head : Nat
  lost : Word
  lastMerge : Nat
  repeats : List (Nat × Nat × Nat × Nat × Nat)
  weakAt : List (Nat × Nat × Nat × Nat × Nat)
  deriving DecidableEq, Repr

/-- The register port's own storage: staged lower words and read shadows by 65,536 * initiator + offset
(R531), the latched log entries by initiator (R550), and the data the last read returned. -/
structure Port where
  staged : List (Nat × Word)
  shadow : List (Nat × Word)
  snap : Table (Nat × List Byte)
  regOut : Word
  deriving DecidableEq, Repr

/-! ### Partitions, contexts and rings -/

/-- A partition's block (R537), its token bucket (R469) and its fault ring's PROD (R400). -/
structure PartCfg where
  enable : Bool
  admin : Bool
  clusters : BitVec 8
  fl : Nat
  seqBase : Nat
  seqCntM1 : Nat
  hBase : Nat
  hCntM1 : Nat
  rate : Nat
  burst : Nat
  fbase : Nat
  fmsg : Nat
  fdata : Word
  tokens : Nat
  faultProd : Word
  deriving DecidableEq, Repr

/-- What a teardown has to report (R497). -/
structure Teardown where
  status : Nat
  core : Nat
  tag : Word
  descs : Nat
  tags : Nat
  tagsHeld : Nat
  slots : Nat
  sems : Nat
  amt : Nat
  pages : Nat
  windows : Nat
  coll : Nat
  deriving DecidableEq, Repr

/-- A context's block (R538), the control core that serves it (R25, R30), its turn and budget (R470, R473),
and its teardown. -/
structure CtxCfg where
  enable : Bool
  stopped : Bool
  part : Nat
  clusters : BitVec 8
  slice : Nat
  owner : Nat
  turn : Bool
  expired : Bool
  budget : Int
  uTurn : Bool
  uExpired : Bool
  uBudget : Int
  teardown : Option Teardown
  reported : Bool
  deriving DecidableEq, Repr

/-- A submission ring (R447, R539). -/
structure SubRing where
  enable : Bool
  draining : Bool
  base : Nat
  l : Nat
  ctx : Nat
  cring : Nat
  prod : Word
  cons : Word
  halted : Bool
  deriving DecidableEq, Repr

/-- A completion record that waits for room, whether landing it raises the interrupt at once (R468), and whether
RETIRE is stamped as it is written (the record of a halted ring, R449). -/
structure Rec where
  bytes : List Byte
  irq : Bool
  stamp : Bool
  d : Option Did
  deriving DecidableEq, Repr

/-- A completion ring (R447, R539), the records waiting for it (R450) and its coalescing count (R468). -/
structure CompRing where
  enable : Bool
  base : Nat
  l : Nat
  part : Nat
  msgAddr : Nat
  msgData : Word
  coalCnt : Nat
  coalTime : Nat
  prod : Word
  waiting : List Rec
  held : List Rec
  landed : Nat
  deriving DecidableEq, Repr

/-! ### Ranges -/

/-- States of a Range Table working entry (R389). -/
inductive RangeState where
  | invalid | valid | retiring | quarantined
  deriving DecidableEq, Repr

/-- A Range Table working entry (R386, R389): `held` is a RETIRING entry whose drain has ended under HOLD;
`was` is the state before RETIRING (R397).
The use count is computed from the descriptors, loops and requests that hold the entry. -/
structure RangeEnt where
  st : RangeState
  was : RangeState
  held : Bool
  gen : BitVec 16
  base : Nat
  start : Nat
  lenM1 : Nat
  tier : Nat
  rd : Bool
  wr : Bool
  wt : Bool
  res : Bool
  part : Nat
  deriving DecidableEq, Repr

/-- A cached translation of a reference (R390). `stale` marks it for resolution again at dequeue (R397). -/
structure Trans where
  handle : Nat
  gen : BitVec 16
  base : Nat
  start : Nat
  lenM1 : Nat
  tier : Nat
  rd : Bool
  wr : Bool
  wt : Bool
  stale : Bool
  deriving DecidableEq, Repr

/-- A pending range fault (R400, R401); `id` is none until its record is written, and `core` is the core of the stream that
halted, for a step of a kernel (R376). -/
structure PFault where
  id : Option Nat
  core : Option Nat
  part : Nat
  handle : Nat
  gen : BitVec 16
  reason : Nat
  isWrite : Bool
  offset : Nat
  ctx : Nat
  tag : Word
  d : Option Did
  deriving DecidableEq, Repr

/-! ### Bolt -/

/-- A page reference: pool and page (R233). -/
structure PageRef where
  pool : Nat
  page : Nat
  deriving DecidableEq, Repr

/-- A pool (R221 to R237). The free stacks are the numbers pushed since creation, top first, above the
numbers from `fresh` upward that were never popped (R226). `pins` are the pages whose count would have passed 0xFFFF (R236);
the last four fields are the tier and physical address of META and of INDEX (R226, R233). -/
structure Pool where
  live : Bool
  part : Nat
  fmt : Nat
  psz : Nat
  dh : Nat
  hm1 : Nat
  npages : Nat
  nidx : Nat
  tier : Nat
  data : Nat
  handles : List Nat
  free : List Nat
  fresh : Nat
  ifree : List Nat
  ifresh : Nat
  refs : Table Nat
  prov : List Nat
  pins : List Nat
  retiring : List (Nat × List Did)
  iretiring : List (Nat × List Did)
  quar : Bool
  metaTier : Nat
  metaAt : Nat
  indexTier : Nat
  indexAt : Nat
  deriving DecidableEq, Repr

/-- States of a sequence-table entry (R238). -/
inductive SeqState where
  | free | live | leaving
  deriving DecidableEq, Repr

/-- A sequence (R238), with what its directory, index, provisional-page and tree blocks say: the page
references of each layer, the index blocks it holds (the directory first) with the layer, level and number of each but the
directory (R234; level 0 references pages), each layer's provisional page, the
tree's PARENT bytes, the pages reserved for commit, and the SPECP, SPECT and reserved index blocks. `waits`
are the descriptors that a quarantined LEAVING entry waits for (R241), `admLen` is LEN at the latest admission
(R253). -/
structure Seq where
  st : SeqState
  pin : Bool
  spec : Bool
  quar : Bool
  depth : Nat
  pool : Nat
  nslot : Nat
  len : Nat
  res : Nat
  nlayerM1 : Nat
  lastst : Nat
  epoch : Word
  pages : List (List PageRef)
  iblocks : List Nat
  iplaces : List (Nat × Nat × Nat)
  prov : List Nat
  tree : List Nat
  budget : List (List Nat)
  bblocks : List Nat
  waits : List Did
  admLen : Nat
  deriving DecidableEq, Repr

/-- A descriptor's view of a sequence (R254), with what R253 asks of a row that it writes. -/
structure View where
  seq : Nat
  len : Nat
  nslot : Nat
  res : Nat
  lastst : Nat
  tree : List Nat
  pages : List (List PageRef)
  prov : List Nat
  pool : Nat
  live : Bool
  spec : Bool
  layers : Nat
  admLen : Nat
  deriving DecidableEq, Repr

/-! ### Descriptors -/

/-- Where a fetched descriptor stands: waiting in its ring, dequeued and not yet done, prepared (a BOLT_STEP
before its atomic phase, a retire or move before its drain phase), halted on a range fault, or waiting for
something named in `waits` (a FENCE or ABORT). -/
inductive DState where
  | fetched | running | prepared | halted | waiting
  deriving DecidableEq, Repr

/-- A scan's saved state (R444): the running value, COUNT, the data bytes of this descriptor fed so far, and for R446 the running
value over all its data as memory held it last, and that a write to them has been seen. -/
structure Scan where
  raw : Nat
  count : Nat
  fed : Nat
  whole : Option Nat
  written : Bool
  deriving DecidableEq, Repr

/-- A fetched descriptor until it retires (R448, R474): the copy of its 64 bytes, its state, the status and
flags it will record (R466, R69), DETAIL (R464), its translations, the handles whose use it counts, its
views, its dequeue order and time, and progress of its own: `kept` holds bytes it has read and keeps (the
list of a prepared BOLT_STEP, R246; the blocks of a scan; an attention parameter block, R183), `prep` the order in which
preparation ended, `prog` how far a command in parts has come (the cores that a TABLE_SWAP has flipped, R177; the pages
that a BOLT_MIGRATE has moved, R265), and `clash` that another descriptor was in flight with an overlapping histogram slot (R75). -/
structure Desc where
  ring : Nat
  index : Word
  bytes : List Byte
  ctx : Nat
  st : DState
  status : Nat
  detail : Nat
  flags : FlagSet
  trans : List Trans
  views : List View
  skipped : List Nat
  order : Nat
  tDeq : Nat
  scan : Option Scan
  waits : List Did
  kept : List Byte
  prep : Nat
  prog : Nat
  clash : Bool
  semKernel : Option Did
  deriving DecidableEq, Repr

/-! ### Collectives -/

/-- States of a group entry (R414). -/
inductive GroupState where
  | free | ready | broken
  deriving DecidableEq, Repr

/-- A collective in flight (R420 to R433): its sequence number, descriptor, stage, direction (false reduce,
true gather), round, whether the round is sent, the peers whose chunk of the round was used, those whose
first check failed, and what it will report. -/
structure Coll where
  seq : Word
  d : Did
  stage : Nat
  gather : Bool
  round : Nat
  sent : Bool
  got : List Nat
  asked : List Nat
  lflags : FlagSet
  ldrop : Nat
  failed : Bool
  retried : Bool
  state : Nat
  voted : Bool
  rcrc : Nat
  gflags : FlagSet
  gdrop : Nat
  noRecord : Bool
  deriving DecidableEq, Repr

/-- A group entry (R414, R415, R416): `members` and the areas are resolved physical addresses, `workTier` the
tier of WORK, `first` says that no collective has used the areas since CREATE (R427), and `xseen` holds the
XCOUNT last met in each member's CTRL line. -/
structure Group where
  st : GroupState
  part : Nat
  gtag : Word
  nmem : Nat
  myIdx : Nat
  channel : Nat
  fmt : Nat
  ofmt : Nat
  iovf : Bool
  lchunk : Nat
  fan : List Nat
  cap : Nat
  members : List Nat
  rxarea : Nat
  work : Nat
  workTier : Nat
  first : Bool
  xseen : Table Nat
  seqNo : Word
  taken : List (Did × Word)
  live : List Coll
  deriving DecidableEq, Repr

/-! ### Schuss loops -/

/-- An active sequence of a loop (R277 to R289): the request's tag, the target and companion ids, the prompt's
tokens and how many have run, what the request asks, the last token, tokens emitted, and the token that the
companion lacks (R285). -/
structure LoopSeq where
  tag : Word
  seq : Nat
  draft : Option Nat
  prompt : List Nat
  done : Nat
  maxNew : Nat
  seed : BitVec 64
  temp : Word
  topk : Nat
  topp : Word
  last : Nat
  emitted : Nat
  catchUp : Option Nat
  deriving DecidableEq, Repr

/-- A running loop (R268 to R293): its descriptor; the blocks read at its start, each kernel-list entry with the
attention parameter block it names in 256 bytes; its active sequences in join order; the sequences that the next
admission leaves (R289); step number, ring indices, stalled steps, the eight counts of the summary, whether it
idles, whether an ABORT has reached it, and whether a range fault halted it within a step, with the image of the kernel that met
it (none outside a kernel). -/
structure LoopSt where
  live : Bool
  d : Did
  desc : Desc
  block : List Byte
  mrec : List Byte
  drec : List Byte
  klist : List Byte
  dklist : List Byte
  seqs : List LoopSeq
  leaves : List Nat
  step : Nat
  reqCons : Word
  tokProd : Word
  stallRun : Nat
  counts : List Nat
  idle : Bool
  aborting : Bool
  inStep : Bool
  image : List Byte
  cring : Nat
  deriving DecidableEq, Repr

/-- A resident model slot (R275): the partition that installed it, its record and kernel list. -/
structure Model where
  used : Bool
  part : Nat
  record : List Byte
  klist : List Byte
  deriving DecidableEq, Repr

/-! ### Cores and clusters -/

/-- A stationary register set of the array (R78, R81): the tile's bytes as 128 column lines, and its scale
bytes. A set never loaded in the kernel reads +0. -/
structure Stationary where
  loaded : Bool
  lines : List Byte
  scales : List Byte
  deriving DecidableEq, Repr

/-- A context's area on a core, in rows (R300), and whether it is still being cleared (R302). -/
structure Area where
  used : Bool
  base : Nat
  bound : Nat
  clearing : Bool
  deriving DecidableEq, Repr

/-- The states of a Rink slot (R304). -/
inductive SlotState where
  | empty | filling | full | held
  deriving DecidableEq, Repr

/-- A circular-region controller (R304). `owner` is the skein slot for which each slot was filled (R255), `turn` the one
whose turn came last. -/
structure Region where
  used : Bool
  kind : Nat
  ctx : Nat
  start : Nat
  slotRows : Nat
  nslot : Nat
  head : Nat
  tail : Nat
  slots : List SlotState
  fill : List Nat
  owner : List (Option Nat)
  turn : Option Nat
  deriving DecidableEq, Repr

/-- A remote window (R313). -/
structure RWindow where
  isOpen : Bool
  rd : Bool
  ctx : Nat
  base : Nat
  bound : Nat
  wmask : Word
  gen : BitVec 16
  deriving DecidableEq, Repr

/-- Power states of an OSP bank (R324 to R326); isolation and clearing are stages of DRAIN to OFF and of
WAKE to ON. -/
inductive BankState where
  | on | drain | isolating | off | wake | clearing
  deriving DecidableEq, Repr

/-- An OSP bank (R296, R298, R320, R324): state, in-flight writes, class (true: weight), port owners,
whether a change of class is being cleared, and whether a kernel start has asked for it since isolation began (R325, R523). -/
structure Bank where
  st : BankState
  wtag : Nat
  weight : Bool
  rdown : Nat
  wrown : Nat
  classClear : Bool
  wake : Bool
  deriving DecidableEq, Repr

/-- A semaphore pair (R370), whether the kernel claims it, and the mark of R432. -/
structure SemPair where
  full : Nat
  empty : Nat
  init : Nat
  claimed : Bool
  marked : Bool
  deriving DecidableEq, Repr

/-- A micro-program slot (R161, R174): two banks, the active bank, inactive loaded, and the context the
slot is assigned to. -/
structure UProg where
  bank0 : List Byte
  bank1 : List Byte
  active : Bool
  loaded : Bool
  ctx : Option Nat
  deriving DecidableEq, Repr

/-- A built-in function's tables on a core (R147 to R149, R174): the active bank and inactive loaded, of the seed table
and of the segment table, and recovery. The banks' contents are the fixed tables of R552 to R562. -/
structure SeedTab where
  active : Bool
  loaded : Bool
  segActive : Bool
  segLoaded : Bool
  recovery : Bool
  deriving DecidableEq, Repr

/-- States of a skein slot (R18). -/
inductive SkeinState where
  | none | unstarted | parked | ready | running
  deriving DecidableEq, Repr

/-- A place in a Piste table (R335, R337): the next word, and the LOOPs that hold it, outermost first, by word and
iteration count. -/
structure Cursor where
  pc : Nat
  frames : List (Nat × Nat)
  deriving DecidableEq, Repr

/-- A skein slot (R18, R336): state, when it began to wait, first AM tile, tiles, query-row base, output row, first query
head and first key; the region whose slot it waits on, its place in the SKEIN body and the repeats of that step issued, the slots it has yet to
be given of each region (R255), and its row statistics: the running maximum and sum of the rows that have begun (R18, R198). -/
structure Skein where
  st : SkeinState
  since : Nat
  tile : Nat
  tiles : Nat
  qrow : Nat
  orow : Nat
  head : Nat
  key : Nat
  wait : Option Nat
  cur : Cursor
  rep : Nat
  left : List (Nat × Nat)
  stats : List (Nat × Nat)
  deriving DecidableEq, Repr

/-- A step in a core's issue queue (R337): its word, the counts of its LOOPs, and whether it follows the table's SKEIN body,
whose skeins the core runs first (R336). -/
structure QStep where
  word : Nat
  loops : List Nat
  after : Bool
  deriving DecidableEq, Repr

/-- A semaphore post on its way (R340): posting core, target core, pair, which count (false full, true empty), amount, context, and
its number among the messages sent over the Loom (R22; 0 until it is sent). -/
structure Post where
  src : Nat
  core : Nat
  pair : Nat
  isEmpty : Bool
  amount : Nat
  ctx : Nat
  sent : Nat
  deriving DecidableEq, Repr

/-- A transfer of a core that has halted on a range fault (R376): its step, the skein whose step it is, the first physical row
on the OSP side, and the rows that a DMAIN has read, or those that a DMAOUT is to write, as elements and scale bytes; `moved`
counts the rows that a DMAOUT has written. -/
structure Stream where
  step : Step
  skein : Option Nat
  row : Nat
  rows : List (List Byte × List Byte)
  moved : Nat
  deriving DecidableEq, Repr

/-- Why a core's queue is held (R339). -/
inductive HoldKind where
  | semw | fill | rtake | swap | shload | bank | window | stream | feed
  deriving DecidableEq, Repr

/-- One core (R16): its memories, array, tables, synchronisation, its issue queue and the step that holds it. `queue` holds
the steps written to the core and not issued, `rep` the issues that the first of them has had (R331, R337). `lastTake` is
the region and slot it took last, `aheld` and `sheld` the flags that the running kernel has raised in the two sets (R71), `loomDue` the nodes whose acknowledgements of Loom writes it waits for (32 for the SS),
`inbox` the rows that the remote read path brought last (R23), `feed` the rows of 128 operands that its SFU has put in its
feeder queues (R139), `streams` its transfers that have halted, `streamAt` the rows that a halted EPI has
stored (R376), `leaving` the rows (first, count) of areas whose release is not complete (R303). -/
structure Core where
  osp : Table Byte
  am : Table Byte
  amValid : List Nat
  act : Stationary
  shd : Stationary
  shdFull : Bool
  mvp : List (List Byte)
  aflags : FlagSet
  sflags : FlagSet
  aheld : FlagSet
  sheld : FlagSet
  cecc : Word
  bubbles : BitVec 64
  pairs : Table SemPair
  regions : Table Region
  lastTake : Option (Nat × Nat)
  wins : Table RWindow
  banks : Table Bank
  areas : Table Area
  leaving : List (Nat × Nat)
  amClaim : Nat
  poison : List Nat
  uprogs : Table UProg
  seeds : Table SeedTab
  loomDue : List Nat
  inbox : List Byte
  feed : List (List Byte)
  posts : List Post
  inPosts : List Post
  ctx : Option Nat
  endIssued : Bool
  queue : List QStep
  rep : Nat
  hold : Option (HoldKind × Step)
  streamAt : Nat
  streams : List Stream
  skeins : Table Skein
  stamp : Nat
  deriving DecidableEq, Repr

/-- A Piste table region (R26, R329 to R336): a ring of 4,096 words, the position and length of the current table (none
where 0), whether its CRC was checked, the sequencer's place in it, the SKEIN word whose body runs, and whether its END is
written. The next table begins after the current one. -/
structure Piste where
  ring : Table (BitVec 128)
  base : Nat
  len : Nat
  checked : Bool
  cur : Cursor
  skein : Option Nat
  done : Bool
  deriving DecidableEq, Repr

/-- What a kernel that has yielded keeps of a core (R471): the core as the kernel left it, of which its pairs, its skeins, the
steps after its SKEIN body and its array's contents come back. -/
structure SavedCore where
  core : Nat
  was : Core
  deriving DecidableEq, Repr

/-- The running kernel of a context (R375, R470): its descriptor, plan, the parameter blocks and attention lists read at its start, SS windows,
transfer cursors and the rows of an incomplete 32-row block of a turn by 256 * core + entry (R111, R368), and the running counts of its histogram: 64 bins, NaNs, elements and the
flags of the target's conversions (R73, R74). A kernel that yielded inside its SKEIN body is `paused` until the context's
next turn, with what it keeps of its cores (R471). -/
structure Kernel where
  live : Bool
  d : Did
  plan : Plan
  block : List Byte
  ssWins : List Nat
  cursors : Table (Nat × Nat)
  turns : Table (List (List Byte))
  bins : List Nat
  nans : Nat
  elems : Nat
  hflags : FlagSet
  paused : Bool
  saved : List SavedCore
  deriving DecidableEq, Repr

/-! ### Fabric, store, control cores -/

/-- OP of a request (R353). -/
inductive ReqOp where
  | rd
  | wr
  | watch
  | fence
  deriving DecidableEq, Repr

/-- An outstanding request, or beat of a read, of a fabric port (R353 to R356). `seq` is its place among the port's requests; `error`
says what its repeat is for (0 none, 1 POISON, 2 DECODE or ABORT), `timedOut` that it has been repeated for a timeout (R481), `unsent`
that a repeat waits for its credit; `watch` is the watch that a WATCH or the read of a watched line serves; a write carries `data`,
its 64-byte units enabled by `enables`. -/
structure Out where
  op : ReqOp
  addr : Nat
  units : Nat
  d : Option Did
  handle : Option Nat
  core : Nat
  row : Nat
  region : Option Nat
  error : Nat
  timedOut : Bool
  unsent : Bool
  seq : Nat
  watch : Option Nat
  enables : BitVec 64
  data : List Byte
  deriving DecidableEq, Repr

/-- A request of the Bobbin path, or a WATCH, that has not been sent (R360, R364, R365): its port, its place and what it writes there,
whether a FENCE goes before it, and the descriptor or the watch that it serves. -/
structure SmallReq where
  port : Nat
  op : ReqOp
  addr : Nat
  data : List Byte
  fenced : Bool
  d : Option Did
  watch : Option Nat
  deriving DecidableEq, Repr

/-- A fabric port (R352 to R363): link, credits held and granted per channel (REQ, WDAT, RSP), outstanding requests by tag,
quarantined tags with the context they were used for (R379), the number of requests sent, and the queue that it served last. -/
structure FPort where
  up : Bool
  req : Nat
  wdat : Nat
  rsp : Nat
  reqGrant : Nat
  wdatGrant : Nat
  rspGrant : Nat
  outs : Table (Option Out)
  quarTags : List (Nat × Nat)
  sent : Nat
  lastQueue : Nat
  deriving DecidableEq, Repr

/-- What a watch guards (R360): a submission ring's doorbell, or a loop's request ring. -/
inductive WatchOwner where
  | ring (n : Nat)
  | loop (n : Nat)
  deriving DecidableEq, Repr

/-- A watch (R360): owner, armed under a tag, and whether a read of its line is due. -/
structure Watch where
  owner : Option WatchOwner
  armed : Bool
  readDue : Bool
  tag : Nat
  deriving DecidableEq, Repr

/-- An SS window (R310). -/
structure SsWindow where
  isOpen : Bool
  rd : Bool
  wr : Bool
  ctx : Nat
  base : Nat
  bound : Nat
  cores : Word
  gen : BitVec 16
  deriving DecidableEq, Repr

/-- A remote write on the Loom, sent and not arrived (R22, R314, R324): its writer's core and context, what it names, its
rows, the first of the target's physical rows that its banks count, and its number among the messages sent over the Loom (R22). -/
structure LoomWrite where
  src : Nat
  ctx : Nat
  target : Nat
  win : Nat
  gen : BitVec 16
  offset : Nat
  rows : List Byte
  counted : Option Nat
  sent : Nat
  deriving DecidableEq, Repr

/-- A control core (R29, R30): in service, and restarted since its last expiry (its contexts come back to
it at their next kernel boundary). -/
structure CCore where
  inService : Bool
  restarted : Bool
  deriving DecidableEq, Repr

/-- The whole machine. `pending` is the queue of waiting commands, first in, first out; `free` is the model's
own counter of free values (log 7), `wback` the corrected rows that wait for their write-back (R321), `loom` the remote
writes in flight, oldest first, `loomSent` the messages sent over it (R22), `cvus` the scan that each check-value unit runs (R19, R443). -/
structure State where
  pending : List Instr
  clkCtl : Nat
  mgmt : Mgmt
  log : ErrLog
  port : Port
  collFlags : FlagSet
  ssCecc : Word
  verSel : Nat
  rangeBase : Nat
  parts : Table PartCfg
  ctxs : Table CtxCfg
  subs : Table SubRing
  comps : Table CompRing
  descs : List Desc
  order : Nat
  ranges : Table RangeEnt
  sweep : Table Nat
  faults : List PFault
  nextFault : Nat
  pools : Table Pool
  seqs : Table Seq
  seqTab : Option (Nat × Nat)
  seqTabUsed : Bool
  seqCache : List Nat
  seqDirty : List Nat
  dropping : List Nat
  groups : Table Group
  loops : Table LoopSt
  models : Table Model
  ccores : Table CCore
  kernels : Table Kernel
  piste : Table Piste
  cores : Table Core
  ports : Table FPort
  smalls : List SmallReq
  dmaQ : List DmaRequest
  watches : Table Watch
  rr : Table Nat
  ss : Table Byte
  ssWins : Table SsWindow
  ssPoison : List Nat
  scrubRow : Nat
  wback : List EccPlace
  loom : List LoomWrite
  loomSent : Nat
  cvus : Table (Option Did)
  collLines : Table (List Byte)
  mem : Table Byte
  free : Nat
  deriving DecidableEq, Repr

/-! ### The stops -/

/-- How the machine can stop. -/
inductive Fault where
  /-- Raised by a command that reads or writes a ring whose words run past the 57-bit physical space
  (R382, R447): COMPLETION_RECORD_WRITE, PROD_READ_RETURN, DESC_FETCH, RANGE_FAULT_RECORD,
  TEARDOWN_DRAINED. Safe: no such address exists (log 18). -/
  | addressSpace
  deriving DecidableEq, Repr

/-- Commands without a meaning. -/
inductive Refusal where
  /-- Raised by `exec` for a row not modelled yet, by its mnemonic. Safe. -/
  | notModelled (mnemonic : String)
  deriving DecidableEq, Repr

/-! ### Values after reset -/

/-- The part the reset state describes: a K3-X with every cluster, chip id 0, REV 0 (log 5). -/
def Part.reset : Part := { config := 0, fused := 0xFF, chip := 0, rev := 0 }

/-- A cluster after reset (R541, R543). -/
def Cluster.reset : Cluster :=
  { req := 20, cur := 20, mbxLim := 24, thermMhz := 1200, ceilMhz := 1200, appReq := 20, appMbx := 24,
    change := .none, pwrReq := 0, pwr := .p0, entering := false, wakeAfter := false, ramping := false }

/-- A sensor after reset (R546). -/
def Sensor.reset : Sensor := { temp := 0, valid := false }

/-- A calibration item the factory record lacks. -/
def CalItem.reset : CalItem := { val := 0, lo := 0, hi := 0 }

/-- The management plane right after reset release (R502, R504): phase RESET, nothing answering. -/
def Mgmt.reset : Mgmt :=
  { part := Part.reset, power := .on, phase := .reset, portReady := false, mbxReady := false,
    fatal := false, cause := 0, cmdref := false, image := 0, tried := [], choice := none, minver := 0,
    calFactory := [], calDelta := [], repairMap := [], clmask := 0, clusters := [], calPoint := 800,
    point := 800, sensors := [], demand := 0, early := false, lastRamp := none,
    spiAddr := 0, spiBusy := false, spiDone := false, spiErr := 0, spiOp := none, spiBuf := [],
    spiLogBits := 0, spiMhz := 0, flash := [], sfdp := [], mbxOut := [], mbxReports := [] }

/-- An empty log entry. -/
def LogEntry.reset : LogEntry :=
  { seq := 0, event := 0, cls := 0, unit := 0, index := 0, place := 0, ctx := 0, count := 0, tag := 0,
    time := 0 }

/-- The cleared error log (R499). -/
def ErrLog.reset : ErrLog :=
  { entries := [], head := 0, lost := 0, lastMerge := 0, repeats := [], weakAt := [] }

/-- The register port after reset. -/
def Port.reset : Port := { staged := [], shadow := [], snap := [], regOut := 0 }

/-- A partition block after reset (R537). -/
def PartCfg.reset : PartCfg :=
  { enable := false, admin := false, clusters := 0, fl := 0, seqBase := 0, seqCntM1 := 0, hBase := 0,
    hCntM1 := 0, rate := 0, burst := 0, fbase := 0, fmsg := 0, fdata := 0, tokens := 0, faultProd := 0 }

/-- A context block after reset (R538). Its owner is set when it is enabled (R25). -/
def CtxCfg.reset : CtxCfg :=
  { enable := false, stopped := false, part := 0, clusters := 0, slice := 0, owner := 0, turn := false,
    expired := false, budget := 0, uTurn := false, uExpired := false, uBudget := 0, teardown := none, reported := false }

/-- A submission ring block after reset (R539). -/
def SubRing.reset : SubRing :=
  { enable := false, draining := false, base := 0, l := 0, ctx := 0, cring := 0, prod := 0, cons := 0,
    halted := false }

/-- A completion ring block after reset (R539). -/
def CompRing.reset : CompRing :=
  { enable := false, base := 0, l := 0, part := 0, msgAddr := 0, msgData := 0, coalCnt := 0, coalTime := 0,
    prod := 0, waiting := [], held := [], landed := 0 }

/-- A Range Table entry after block reset: INVALID, GEN 0 (R389). -/
def RangeEnt.reset : RangeEnt :=
  { st := .invalid, was := .invalid, held := false, gen := 0, base := 0, start := 0, lenM1 := 0, tier := 0,
    rd := false, wr := false, wt := false, res := false, part := 0 }

/-- A pool number that no pool uses (R227). -/
def Pool.reset : Pool :=
  { live := false, part := 0, fmt := 0, psz := 0, dh := 0, hm1 := 0, npages := 0, nidx := 0, tier := 0, data := 0,
    handles := [], free := [], fresh := 0, ifree := [], ifresh := 0, refs := [], prov := [], pins := [], retiring := [],
    iretiring := [], quar := false, metaTier := 0, metaAt := 0, indexTier := 0, indexAt := 0 }

/-- A FREE sequence (R238). -/
def Seq.reset : Seq :=
  { st := .free, pin := false, spec := false, quar := false, depth := 0, pool := 0, nslot := 0, len := 0,
    res := 0, nlayerM1 := 0, lastst := 0, epoch := 0, pages := [], iblocks := [], iplaces := [], prov := [],
    tree := [], budget := [], bblocks := [], waits := [],
    admLen := 0 }

/-- A FREE group entry (R414). -/
def Group.reset : Group :=
  { st := .free, part := 0, gtag := 0, nmem := 0, myIdx := 0, channel := 0, fmt := 0, ofmt := 0,
    iovf := false, lchunk := 0, fan := [], cap := 0, members := [], rxarea := 0, work := 0, workTier := 0,
    first := false, xseen := [], seqNo := 0, taken := [], live := [] }

/-- An empty descriptor, the value a missing one reads as. -/
def Desc.reset : Desc :=
  { ring := 0, index := 0, bytes := [], ctx := 0, st := .fetched, status := 0, detail := 0, flags := 0,
    trans := [], views := [], skipped := [], order := 0, tDeq := 0, scan := none, waits := [],
    kept := [], prep := 0, prog := 0, clash := false, semKernel := none }

/-- No loop. -/
def LoopSt.reset : LoopSt :=
  { live := false, d := { ring := 0, index := 0 }, desc := Desc.reset, block := [], mrec := [], drec := [],
    klist := [], dklist := [], seqs := [], leaves := [], step := 0, reqCons := 0, tokProd := 0, stallRun := 0,
    counts := [0, 0, 0, 0, 0, 0, 0, 0], idle := false, aborting := false, inStep := false, image := [], cring := 0 }

/-- An empty model slot (R275). -/
def Model.reset : Model := { used := false, part := 0, record := [], klist := [] }

/-- A stationary set that holds +0 (R81). -/
def Stationary.reset : Stationary := { loaded := false, lines := [], scales := [] }

/-- No area (R300). -/
def Area.reset : Area := { used := false, base := 0, bound := 0, clearing := false }

/-- An unconfigured region controller (R304). -/
def Region.reset : Region :=
  { used := false, kind := 0, ctx := 0, start := 0, slotRows := 0, nslot := 0, head := 0, tail := 0,
    slots := [], fill := [], owner := [], turn := none }

/-- A closed remote window (R313). -/
def RWindow.reset : RWindow :=
  { isOpen := false, rd := false, ctx := 0, base := 0, bound := 0, wmask := 0, gen := 0 }

/-- A bank after reset: ON, activation class, no owners (log 14). -/
def Bank.reset : Bank :=
  { st := .on, wtag := 0, weight := false, rdown := 0, wrown := 0, classClear := false, wake := false }

/-- A semaphore pair no kernel claims. -/
def SemPair.reset : SemPair := { full := 0, empty := 0, init := 0, claimed := false, marked := false }

/-- An empty micro-program slot (R174). -/
def UProg.reset : UProg :=
  { bank0 := [], bank1 := [], active := false, loaded := false, ctx := none }

/-- A built-in function in normal service (R147). -/
def SeedTab.reset : SeedTab :=
  { active := false, loaded := false, segActive := false, segLoaded := false, recovery := false }

/-- An unused skein slot. -/
def Skein.reset : Skein :=
  { st := .none, since := 0, tile := 0, tiles := 0, qrow := 0, orow := 0, head := 0, key := 0, wait := none,
    cur := { pc := 0, frames := [] }, rep := 0, left := [], stats := [] }

/-- A core after reset. -/
def Core.reset : Core :=
  { osp := [], am := [], amValid := [], act := Stationary.reset, shd := Stationary.reset,
    shdFull := false, mvp := [], aflags := 0, sflags := 0, aheld := 0, sheld := 0, cecc := 0, bubbles := 0, pairs := [],
    regions := [], lastTake := none, wins := [], banks := [], areas := [], leaving := [], amClaim := 0, poison := [],
    uprogs := [], seeds := [], loomDue := [], inbox := [], feed := [], posts := [], inPosts := [], ctx := none, endIssued := false,
    queue := [], rep := 0, hold := none, streamAt := 0, streams := [], skeins := [], stamp := 0 }

/-- An empty Piste region. -/
def Piste.reset : Piste :=
  { ring := [], base := 0, len := 0, checked := false, cur := { pc := 0, frames := [] }, skein := none, done := false }

/-- An empty plan. -/
def planReset : Plan :=
  { cores := [], ss := [], xfers := [], progs := [], skeins := [], tables := [], places := [] }

/-- No kernel runs. -/
def Kernel.reset : Kernel :=
  { live := false, d := { ring := 0, index := 0 }, plan := planReset, block := [], ssWins := [], cursors := [], turns := [],
    bins := List.replicate 64 0, nans := 0, elems := 0, hflags := 0, paused := false, saved := [] }

/-- A fabric port before link-up (R358). -/
def FPort.reset : FPort :=
  { up := false, req := 0, wdat := 0, rsp := 0, reqGrant := 0, wdatGrant := 0, rspGrant := 0, outs := [],
    quarTags := [], sent := 0, lastQueue := 0 }

/-- An unused watch. -/
def Watch.reset : Watch := { owner := none, armed := false, readDue := false, tag := 0 }

/-- A closed SS window (R310). -/
def SsWindow.reset : SsWindow :=
  { isOpen := false, rd := false, wr := false, ctx := 0, base := 0, bound := 0, cores := 0, gen := 0 }

/-- A control core in service. -/
def CCore.reset : CCore := { inService := true, restarted := false }

/-- The byte that memory outside the block, the SS, an OSP or an AM holds where nothing is listed
(DESIGN CHOICE, logs 3 and 4). -/
def blankByte : Byte := 0

/-- The byte that the serial memory and its SFDP space hold where nothing is listed (DESIGN CHOICE, log 4). -/
def blankFlash : Byte := 0xFF

/-- The engine right after reset release (R502): every field at the value the manual gives, or at the value
INVENTORY.md and the log name; no command waiting. -/
def State.reset : State :=
  { pending := [], clkCtl := 0, mgmt := Mgmt.reset, log := ErrLog.reset, port := Port.reset, collFlags := 0,
    ssCecc := 0, verSel := 0, rangeBase := 0, parts := [], ctxs := [], subs := [], comps := [], descs := [],
    order := 0, ranges := [], sweep := [], faults := [], nextFault := 0, pools := [], seqs := [],
    seqTab := none, seqTabUsed := false, seqCache := [], seqDirty := [], dropping := [], groups := [],
    loops := [], models := [], ccores := [], kernels := [], piste := [], cores := [], ports := [], smalls := [], dmaQ := [],
    watches := [], rr := [], ss := [], ssWins := [], ssPoison := [], scrubRow := 0, wback := [],
    loom := [], loomSent := 0, cvus := [], collLines := [], mem := [], free := 0 }

end Sys2Proof.Machine
end

