-- ==== Sys2Proof/Machine/Bits.lean ====
section
/-!
DEFINITION. Tables and memories, bit fields, byte order and the check values of chapter 14: the helpers
every meaning is built from.
-/

namespace Sys2Proof.Machine

/-! ### Tables -/

/-- The entry of `t` at `k`, or `d` where none is listed. -/
def getAt {α : Type} (d : α) : Table α → Nat → α
  | [], _ => d
  | (k', v) :: t, k => if k = k' then v else getAt d t k

/-- `t` with the entry at `k` made `v`, in the canonical form: writing `d` removes the entry. -/
def putAt {α : Type} [DecidableEq α] (d : α) : Table α → Nat → α → Table α
  | [], k, v => if v = d then [] else [(k, v)]
  | (k', v') :: t, k, v =>
    if k < k' then (if v = d then (k', v') :: t else (k, v) :: (k', v') :: t)
    else if k = k' then (if v = d then t else (k, v) :: t)
    else (k', v') :: putAt d t k v

/-- Every key of `t` is at least `lo`, the keys rise strictly, and no entry is `d`. -/
def tableFrom {α : Type} [DecidableEq α] (d : α) : Nat → Table α → Bool
  | _, [] => true
  | lo, (k, v) :: t => decide (lo ≤ k) && decide (v ≠ d) && tableFrom d (k + 1) t

/-- The canonical form of a table. -/
def tableWf {α : Type} [DecidableEq α] (d : α) (t : Table α) : Bool := tableFrom d 0 t

/-- The keys listed. -/
def keysOf {α : Type} (t : Table α) : List Nat := t.map Prod.fst

/-- `n` consecutive entries from `a`. -/
def readRun {α : Type} (d : α) (t : Table α) (a : Nat) : Nat → List α
  | 0 => []
  | n + 1 => getAt d t a :: readRun d t (a + 1) n

/-- `t` with the values `vs` stored from `a` up. -/
def writeRun {α : Type} [DecidableEq α] (d : α) : Table α → Nat → List α → Table α
  | t, _, [] => t
  | t, a, v :: vs => writeRun d (putAt d t a v) (a + 1) vs

/-- The canonical form of a memory whose unlisted bytes read `d`. -/
def Memory.wf (d : Byte) (t : Table Byte) : Bool := tableWf d t

/-- One byte of a memory that reads `blankByte` where nothing is listed. -/
def memByte (t : Table Byte) (a : Nat) : Byte := getAt blankByte t a

/-- `n` bytes of such a memory. -/
def memRead (t : Table Byte) (a n : Nat) : List Byte := readRun blankByte t a n

/-- Such a memory with bytes stored from `a`. -/
def memWrite (t : Table Byte) (a : Nat) (bs : List Byte) : Table Byte := writeRun blankByte t a bs

/-! ### Fields and byte order -/

/-- Bits [lo + w - 1 : lo] of `v` (R6). -/
def bitsOf (v lo w : Nat) : Nat := (v >>> lo) % 2 ^ w

/-- Bit `i` of `v`. -/
def bitOf (v i : Nat) : Bool := v.testBit i

/-- A little-endian value (R6). -/
def leNat : List Byte → Nat
  | [] => 0
  | b :: bs => b.toNat + 256 * leNat bs

/-- `v` in `n` little-endian bytes. -/
def natLe : Nat → Nat → List Byte
  | 0, _ => []
  | n + 1, v => BitVec.ofNat 8 v :: natLe n (v / 256)

/-- The bytes [off, off + n) of a block, zero beyond its end. -/
def blockBytes (bs : List Byte) (off n : Nat) : List Byte :=
  let t := (bs.drop off).take n
  t ++ List.replicate (n - t.length) 0

/-- The little-endian field of `n` bytes at `off` of a block. -/
def fieldOf (bs : List Byte) (off n : Nat) : Nat := leNat (blockBytes bs off n)

/-- Byte `off` of a block as a number. -/
def byteOf (bs : List Byte) (off : Nat) : Nat := fieldOf bs off 1

/-- Every byte of [off, off + n) is zero: a reserved field (R11). -/
def zeroField (bs : List Byte) (off n : Nat) : Bool := fieldOf bs off n == 0

/-- `bs` padded with zero bytes to a multiple of 64 (R564). -/
def padUnit (bs : List Byte) : List Byte := bs ++ List.replicate ((64 - bs.length % 64) % 64) 0

/-- `a / b` rounded up. -/
def ceilDiv (a b : Nat) : Nat := (a + b - 1) / b

/-- The two's-complement value of the low `w` bits of `v`. -/
def signedOf (v w : Nat) : Int :=
  let u := v % 2 ^ w
  if u < 2 ^ (w - 1) then (u : Int) else (u : Int) - 2 ^ w

/-- The low `w` bits of an integer. -/
def wrapOf (v : Int) (w : Nat) : Nat := (v % (2 ^ w : Int)).toNat

/-- Natural numbers below `n` in increasing order. -/
def upTo (n : Nat) : List Nat := List.range n

/-- The ones of a mask below `n`, increasing. -/
def maskOnes (m n : Nat) : List Nat := (upTo n).filter (fun i => m.testBit i)

/-- How many bits of a mask below `n` are one. -/
def popcount (m n : Nat) : Nat := (maskOnes m n).length

/-- `l` with its element at `i` made `v`. -/
def setNth {α : Type} (l : List α) (i : Nat) (v : α) : List α := l.set i v

/-- Split into pieces of `n` elements, the last possibly shorter; `fuel` is at least the length. -/
def piecesOf {α : Type} (n : Nat) : Nat → List α → List (List α)
  | 0, _ => []
  | _ + 1, [] => []
  | fuel + 1, l => l.take n :: piecesOf n fuel (l.drop n)

/-- Pieces of `n` elements (`n` at least 1). -/
def pieces {α : Type} (n : Nat) (l : List α) : List (List α) := piecesOf n l.length l

/-! ### Check values (R435) -/

/-- The parameters of a check (R435, R437). -/
structure CrcParams where
  width : Nat
  poly : Nat
  init : Nat
  refin : Bool
  refout : Bool
  xorout : Nat
  deriving DecidableEq, Repr

/-- The low `w` bits of `v` in reverse order. -/
def reflectBits (w v : Nat) : Nat :=
  (upTo w).foldl (fun acc i => if v.testBit i then acc ||| (1 <<< (w - 1 - i)) else acc) 0

/-- One step of the register (R435). -/
def crcShift (p : CrcParams) (crc : Nat) : Nat :=
  if crc.testBit (p.width - 1) then ((crc <<< 1) ^^^ p.poly) % 2 ^ p.width
  else (crc <<< 1) % 2 ^ p.width

/-- One input byte (R435). -/
def crcFeed (p : CrcParams) (crc : Nat) (b : Byte) : Nat :=
  let b := if p.refin then reflectBits 8 b.toNat else b.toNat
  let c := crc ^^^ (b <<< (p.width - 8))
  crcShift p (crcShift p (crcShift p (crcShift p (crcShift p (crcShift p (crcShift p (crcShift p c)))))))

/-- The result of a register (R435). -/
def crcFinal (p : CrcParams) (crc : Nat) : Nat :=
  (if p.refout then reflectBits p.width crc else crc) ^^^ p.xorout

/-- CRC-32C (R229, R437 row 1). -/
def crc32cParams : CrcParams :=
  { width := 32, poly := 0x1EDC6F41, init := 0xFFFFFFFF, refin := true, refout := true,
    xorout := 0xFFFFFFFF }

/-- The named parameter sets 1 to 5 (R437). -/
def crcNamed : Nat → Option CrcParams
  | 1 => some crc32cParams
  | 2 => some { width := 32, poly := 0x04C11DB7, init := 0xFFFFFFFF, refin := true, refout := true,
                xorout := 0xFFFFFFFF }
  | 3 => some { width := 16, poly := 0x1021, init := 0xFFFF, refin := false, refout := false, xorout := 0 }
  | 4 => some { width := 64, poly := 0x42F0E1EBA9EA3693, init := 0xFFFFFFFFFFFFFFFF, refin := true,
                refout := true, xorout := 0xFFFFFFFFFFFFFFFF }
  | 5 => some { width := 8, poly := 0x07, init := 0, refin := false, refout := false, xorout := 0 }
  | _ => none

/-- The check of a run of bytes. -/
def crcOf (p : CrcParams) (bs : List Byte) : Nat := crcFinal p (bs.foldl (crcFeed p) p.init)

/-- CRC-32C of a run of bytes. -/
def crc32c (bs : List Byte) : Nat := crcOf crc32cParams bs

end Sys2Proof.Machine
end

