-- ==== Sys2Proof/Machine/Float.lean ====
section
/-!
DEFINITION. Number formats, exact values, rounding and FP32 arithmetic (chapter 2, and the IEEE rules that
chapters 4 and 5 refer to). A finite value is a magnitude m * 2^e held exactly; every operation rounds once.
-/

namespace Sys2Proof.Machine

/-- An exact value: NaN (signalling or not), an infinity, or sign, magnitude and exponent (zero keeps its
sign). -/
inductive Value where
  | nan (signalling : Bool)
  | inf (neg : Bool)
  | fin (neg : Bool) (m : Nat) (e : Int)
  deriving DecidableEq, Repr

/-- Rounding directions: the five of R43 and stochastic rounding with a draw (R65). -/
inductive Rounding where
  | rne | rna | rtz | rup | rdn
  | sr (draw : Nat)
  deriving DecidableEq, Repr

/-- The rounding of FRND codes 0 to 4 (R141). -/
def frndOf : Nat → Rounding
  | 1 => .rna
  | 2 => .rtz
  | 3 => .rup
  | 4 => .rdn
  | _ => .rne

/-! ### Flags (R67) -/

/-- INX. -/
def flagInx : FlagSet := 1
/-- UNF. -/
def flagUnf : FlagSet := 2
/-- OVF. -/
def flagOvf : FlagSet := 4
/-- INV. -/
def flagInv : FlagSet := 8

/-! ### Rounding a magnitude -/

/-- Bits in `n`: 0 for 0, floor(log2 n) + 1 otherwise. -/
def bitLen (n : Nat) : Nat := if n = 0 then 0 else n.log2 + 1

/-- Whether a magnitude with kept part `q` and discarded part `r` of `2^s` units rounds away from zero. -/
def roundsAway (mode : Rounding) (neg : Bool) (q r s : Nat) : Bool :=
  if r = 0 then false else
  match mode with
  | .rne => 2 * r > 2 ^ s || (2 * r == 2 ^ s && q % 2 == 1)
  | .rna => 2 * r ≥ 2 ^ s
  | .rtz => false
  | .rup => !neg
  | .rdn => neg
  | .sr draw => (r * 2 ^ 32) / 2 ^ s + draw ≥ 2 ^ 32

/-- Round `m * 2^e` to a multiple of `2^g`: the multiple, and whether it is inexact. -/
def roundAt (mode : Rounding) (neg : Bool) (m : Nat) (e g : Int) : Nat × Bool :=
  if g ≤ e then (m <<< (e - g).toNat, false)
  else
    let s := (g - e).toNat
    let q := m >>> s
    let r := m - (q <<< s)
    (if roundsAway mode neg q r s then q + 1 else q, r != 0)

/-- Round to `p` significant bits, the unit no smaller than `2^lo`: magnitude, its unit, inexact. -/
def roundTo (mode : Rounding) (neg : Bool) (p : Nat) (lo : Int) (m : Nat) (e : Int) : Nat × Int × Bool :=
  let g := max ((bitLen m : Int) + e - p) lo
  let (q, x) := roundAt mode neg m e g
  (q, g, x)

/-- Round to `p` significant bits with the exponent range unbounded. -/
def roundFree (mode : Rounding) (neg : Bool) (p : Nat) (m : Nat) (e : Int) : Nat × Int × Bool :=
  let g := (bitLen m : Int) + e - p
  let (q, x) := roundAt mode neg m e g
  (q, g, x)

/-- `m₁ * 2^e₁ < m₂ * 2^e₂`. -/
def magLt (m₁ : Nat) (e₁ : Int) (m₂ : Nat) (e₂ : Int) : Bool :=
  let b := min e₁ e₂
  (m₁ <<< (e₁ - b).toNat) < (m₂ <<< (e₂ - b).toNat)

/-! ### Floating-point formats (R36, R40, R44, R45) -/

/-- A floating-point format: significant bits, unit of the subnormals, largest finite magnitude
`maxM * 2^maxE`, code width, and whether it is one of the IEEE formats. -/
structure FFmt where
  prec : Nat
  lo : Int
  maxM : Nat
  maxE : Int
  width : Nat
  ieee : Bool
  deriving DecidableEq, Repr

/-- The floating-point format of a code (R36). -/
def ffmtOf : Nat → Option FFmt
  | 0x0 => some { prec := 24, lo := -149, maxM := 0xFFFFFF, maxE := 104, width := 32, ieee := true }
  | 0x1 => some { prec := 11, lo := -24, maxM := 0x7FF, maxE := 5, width := 16, ieee := true }
  | 0x2 => some { prec := 8, lo := -133, maxM := 0xFF, maxE := 120, width := 16, ieee := true }
  | 0x3 => some { prec := 4, lo := -10, maxM := 15, maxE := 4, width := 8, ieee := false }
  | 0x4 => some { prec := 3, lo := -17, maxM := 7, maxE := 13, width := 8, ieee := false }
  | 0x5 => some { prec := 3, lo := -4, maxM := 7, maxE := 2, width := 6, ieee := false }
  | 0x6 => some { prec := 2, lo := -1, maxM := 3, maxE := 1, width := 4, ieee := false }
  | _ => none

/-- FP32. -/
def fp32 : FFmt :=
  { prec := 24, lo := -149, maxM := 0xFFFFFF, maxE := 104, width := 32, ieee := true }

/-- The width in bits of an integer format code (R36). -/
def intWidth : Nat → Option Nat
  | 0x8 => some 4
  | 0x9 => some 8
  | 0xA => some 16
  | 0xB => some 32
  | _ => none

/-- A format code that is not reserved (R36). -/
def fmtOk (f : Nat) : Bool := (ffmtOf f).isSome || (intWidth f).isSome

/-- A Thimous short format: Z8a, Z8b, Z6 or Z4. -/
def isZ (f : Nat) : Bool := 3 ≤ f && f ≤ 6

/-- A floating-point array operand format: FP16, BF16 or a Z format (R37, R77). -/
def isFloatOperand (f : Nat) : Bool := 1 ≤ f && f ≤ 6

/-- An integer array operand format: I4, I8 or I16 (R37). -/
def isIntOperand (f : Nat) : Bool := 8 ≤ f && f ≤ 10

/-- Bits of memory per element: the container of R36, half a byte for Z4 and I4. -/
def containerBits (f : Nat) : Nat :=
  match f with
  | 0x0 | 0xB => 32
  | 0x1 | 0x2 | 0xA => 16
  | 0x3 | 0x4 | 0x5 | 0x9 => 8
  | _ => 4

/-- Bytes of `n` contiguous elements (R38). -/
def elemBytes (f n : Nat) : Nat := ceilDiv (n * containerBits f) 8

/-- Width class of a format for the array (R79): 16, 8 or 4. -/
def widthClass (f : Nat) : Nat :=
  match f with
  | 0x1 | 0x2 | 0xA => 16
  | 0x3 | 0x4 | 0x9 => 8
  | 0x5 | 0x6 | 0x8 => 4
  | _ => 16

/-- Decode a code of an IEEE format (R40). -/
def decodeIeee (f : FFmt) (c : Nat) : Value :=
  let mb := f.prec - 1
  let eb := f.width - f.prec
  let neg := c.testBit (f.width - 1)
  let ex := bitsOf c mb eb
  let fr := bitsOf c 0 mb
  if ex = 2 ^ eb - 1 then
    if fr = 0 then .inf neg else .nan (!fr.testBit (mb - 1))
  else if ex = 0 then .fin neg fr f.lo
  else .fin neg (2 ^ mb + fr) (f.lo + (ex : Int) - 1)

/-- Decode a Z code (R44, R46, R47). Z6 ignores bits [7:6] and reads 0x20 as +0 (R39, R44). -/
def decodeZ (fmt : Nat) (f : FFmt) (c : Nat) : Value :=
  let mb := f.prec - 1
  let c := c % 2 ^ f.width
  let neg := c.testBit (f.width - 1)
  let mag := bitsOf c 0 (f.width - 1)
  if neg && mag = 0 then (if fmt = 5 then .fin false 0 f.lo else .nan false)
  else
    let ex := mag >>> mb
    let fr := mag % 2 ^ mb
    if ex = 0 then .fin neg fr f.lo else .fin neg (2 ^ mb + fr) (f.lo + (ex : Int) - 1)

/-- An integer as an exact value. -/
def valueOfInt (n : Int) : Value := .fin (n < 0) n.natAbs 0

/-- Decode an element code of format `fmt` without scale. -/
def decodeCode (fmt c : Nat) : Value :=
  match ffmtOf fmt, intWidth fmt with
  | some f, _ => if f.ieee then decodeIeee f c else decodeZ fmt f c
  | none, some w => valueOfInt (signedOf c w)
  | none, none => .nan false

/-- Apply a ZB block scale byte (R48): exact; 0x80 makes the element NaN. -/
def applyScale (sb : Nat) : Value → Value
  | v =>
    if sb % 256 = 0x80 then .nan false
    else match v with
      | .fin n m e => .fin n m (if m = 0 then e else e + signedOf sb 8)
      | w => w

/-- The canonical NaN of a format (R42); 0 for Z6 and the integers, which have none (R59). -/
def nanCode : Nat → Nat
  | 0x0 => 0x7FC00000
  | 0x1 => 0x7E00
  | 0x2 => 0x7FC0
  | 0x3 => 0x80
  | 0x4 => 0x80
  | 0x6 => 0x8
  | _ => 0

/-- The magnitude code of `m * 2^g`, `g` at least `f.lo`: the exponent field and fraction together. -/
def magCode (f : FFmt) (m : Nat) (g : Int) : Nat := ((g - f.lo).toNat <<< (f.prec - 1)) + m

/-- The code of the largest finite magnitude. -/
def maxCode (f : FFmt) : Nat := magCode f f.maxM f.maxE

/-- Put a sign on a magnitude code of width `w`. -/
def signCode (w : Nat) (neg : Bool) (c : Nat) : Nat := if neg then c + 2 ^ (w - 1) else c

/-- Round a finite magnitude into a format: magnitude, unit, inexact, and overflow of R57 (judged on the
magnitude rounded with the exponent range unbounded above). -/
def roundFmt (f : FFmt) (mode : Rounding) (neg : Bool) (m : Nat) (e : Int) : Nat × Int × Bool × Bool :=
  let (q, g, x) := roundTo mode neg f.prec f.lo m e
  (q, g, x, magLt f.maxM f.maxE q g)

/-- Tiny after rounding (R67): the value rounded with the exponent range unbounded lies below the smallest
normal. -/
def tinyIn (f : FFmt) (mode : Rounding) (neg : Bool) (m : Nat) (e : Int) : Bool :=
  let (q, g, _) := roundFree mode neg f.prec m e
  magLt q g 1 (f.lo + f.prec - 1)

/-- Flags of a rounding that did not overflow (R67). -/
def roundFlags (f : FFmt) (mode : Rounding) (neg : Bool) (m : Nat) (e : Int) (inexact : Bool) : FlagSet :=
  if inexact then (if m ≠ 0 && tinyIn f mode neg m e then flagInx ||| flagUnf else flagInx) else 0

/-- An infinity or the largest finite magnitude on overflow of an FP32 operation by direction (R552). -/
def overflowToInf (mode : Rounding) (neg : Bool) : Bool :=
  match mode with
  | .rtz => false
  | .rup => !neg
  | .rdn => neg
  | _ => true

/-- A finite magnitude rounded into FP32 under any direction: pattern and flags (R67, R119, R552). -/
def finToF32 (mode : Rounding) (neg : Bool) (m : Nat) (e : Int) : Nat × FlagSet :=
  if m = 0 then (signCode 32 neg 0, 0)
  else
    let (q, g, x, o) := roundFmt fp32 mode neg m e
    if o then
      (signCode 32 neg (if overflowToInf mode neg then 0x7F800000 else 0x7F7FFFFF), flagOvf ||| flagInx)
    else (signCode 32 neg (magCode fp32 q g), roundFlags fp32 mode neg m e x)

/-- An exact value as an FP32 pattern with its flags; a NaN is canonical (R42), and a signalling one raises INV
(R53, R59). -/
def valueToF32 (mode : Rounding) : Value → Nat × FlagSet
  | .nan signalling => (0x7FC00000, if signalling then flagInv else 0)
  | .inf n => (signCode 32 n 0x7F800000, 0)
  | .fin n m e => finToF32 mode n m e

/-- Decode an FP32 pattern. -/
def f32Value (c : Nat) : Value := decodeIeee fp32 c

/-- INV when an operand is a signalling NaN (R67). -/
def snanFlag : Value → FlagSet
  | .nan true => flagInv
  | _ => 0

/-- Is a NaN. -/
def Value.isNan : Value → Bool
  | .nan _ => true
  | _ => false

/-- The sign of a value (NaN counts as positive). -/
def Value.neg : Value → Bool
  | .nan _ => false
  | .inf n => n
  | .fin n _ _ => n

/-- Is a zero. -/
def Value.isZero : Value → Bool
  | .fin _ m _ => m == 0
  | _ => false

/-- The signed magnitude of a finite value at unit `2^g` (`g` at most its exponent). -/
def signedAt (neg : Bool) (m : Nat) (e g : Int) : Int :=
  let v : Int := ((m <<< (e - g).toNat : Nat) : Int)
  if neg then -v else v

/-- Sign of an exact zero sum (R121; toward −∞ it is −0, by IEEE 754). -/
def zeroSumNeg (mode : Rounding) (n₁ n₂ : Bool) : Bool :=
  if n₁ = n₂ then n₁ else (match mode with | .rdn => true | _ => false)

/-- Exact sum of two finite values, with the sign rule of an exact zero. -/
def exactAdd (mode : Rounding) (n₁ : Bool) (m₁ : Nat) (e₁ : Int) (n₂ : Bool) (m₂ : Nat) (e₂ : Int) : Value :=
  let g := min e₁ e₂
  let t := signedAt n₁ m₁ e₁ g + signedAt n₂ m₂ e₂ g
  if t = 0 then .fin (zeroSumNeg mode n₁ n₂) 0 g else .fin (t < 0) t.natAbs g

/-- The sum of two values before rounding, and INV where a NaN arises (R121). -/
def addValue (mode : Rounding) (a b : Value) : Value × FlagSet :=
  match a, b with
  | .nan _, _ => (.nan false, snanFlag a ||| snanFlag b)
  | _, .nan _ => (.nan false, snanFlag b)
  | .inf x, .inf y => if x = y then (.inf x, 0) else (.nan false, flagInv)
  | .inf x, _ => (.inf x, 0)
  | _, .inf y => (.inf y, 0)
  | .fin n₁ m₁ e₁, .fin n₂ m₂ e₂ => (exactAdd mode n₁ m₁ e₁ n₂ m₂ e₂, 0)

/-- The product of two values before rounding (R114). -/
def mulValue (a b : Value) : Value × FlagSet :=
  match a, b with
  | .nan _, _ => (.nan false, snanFlag a ||| snanFlag b)
  | _, .nan _ => (.nan false, snanFlag b)
  | .inf x, .inf y => (.inf (x != y), 0)
  | .inf x, .fin n m _ => if m = 0 then (.nan false, flagInv) else (.inf (x != n), 0)
  | .fin n m _, .inf y => if m = 0 then (.nan false, flagInv) else (.inf (n != y), 0)
  | .fin n₁ m₁ e₁, .fin n₂ m₂ e₂ => (.fin (n₁ != n₂) (m₁ * m₂) (e₁ + e₂), 0)

/-- Round a value into FP32 and add the flags it came with. -/
def roundOut (mode : Rounding) (r : Value × FlagSet) : Nat × FlagSet :=
  let (c, fl) := valueToF32 mode r.1
  (c, fl ||| r.2)

/-- FP32 addition. -/
def addF (mode : Rounding) (a b : Nat) : Nat × FlagSet := roundOut mode (addValue mode (f32Value a) (f32Value b))

/-- The negation of a pattern's sign bit (R163: non-NaN). -/
def negF (a : Nat) : Nat := if (f32Value a).isNan then 0x7FC00000 else a ^^^ 0x80000000

/-- FP32 subtraction. -/
def subF (mode : Rounding) (a b : Nat) : Nat × FlagSet :=
  let v : Value := match f32Value b with
    | .nan s => .nan s
    | .inf n => .inf (!n)
    | .fin n m e => .fin (!n) m e
  roundOut mode (addValue mode (f32Value a) v)

/-- FP32 multiplication. -/
def mulF (mode : Rounding) (a b : Nat) : Nat × FlagSet := roundOut mode (mulValue (f32Value a) (f32Value b))

/-- FP32 fused multiply-add, rounded once. Infinity times zero plus a quiet NaN raises INV (DESIGN CHOICE, log 55: IEEE 754
leaves it open and the manual does not name it). -/
def fmaF (mode : Rounding) (a b c : Nat) : Nat × FlagSet :=
  let (p, f₁) := mulValue (f32Value a) (f32Value b)
  let (s, f₂) := addValue mode p (f32Value c)
  -- a quiet NaN addend does not hide the INV of the product; a signalling NaN raises INV once
  roundOut mode (s, f₁ ||| f₂)

/-- Strictly less, for values that are not NaN; −0 is below +0 (R163). -/
def valueLt (a b : Value) : Bool :=
  match a, b with
  | .nan _, _ => false
  | _, .nan _ => false
  | .inf x, .inf y => x && !y
  | .inf x, _ => x
  | _, .inf y => !y
  | .fin n₁ m₁ e₁, .fin n₂ m₂ e₂ =>
    match n₁, n₂ with
    | true, false => true
    | false, true => false
    | false, false => magLt m₁ e₁ m₂ e₂
    | true, true => magLt m₂ e₂ m₁ e₁

/-- MAX with the NaN rule of R163. -/
def maxF (a b : Nat) : Nat × FlagSet :=
  let va := f32Value a
  let vb := f32Value b
  if va.isNan || vb.isNan then (0x7FC00000, snanFlag va ||| snanFlag vb)
  else (if valueLt va vb then b else a, 0)

/-- MIN with the NaN rule of R163. -/
def minF (a b : Nat) : Nat × FlagSet :=
  let va := f32Value a
  let vb := f32Value b
  if va.isNan || vb.isNan then (0x7FC00000, snanFlag va ||| snanFlag vb)
  else (if valueLt vb va then b else a, 0)

/-- a > +0, for a pattern that is not NaN (R156, R163). -/
def gtZero (a : Nat) : Bool :=
  match f32Value a with
  | .inf n => !n
  | .fin n m _ => !n && m != 0
  | .nan _ => false

/-- The largest integer not above a value, in FP32 (R137 floor). -/
def floorF (a : Nat) : Nat × FlagSet :=
  match f32Value a with
  | .fin n m e =>
    if 0 ≤ e then (a, 0)
    else
      let s := (-e).toNat
      let q := m >>> s
      let q := if n && m != (q <<< s) then q + 1 else q
      finToF32 .rne n q 0
  | v => roundOut .rne (v, snanFlag v)

/-- An exact division of magnitudes rounded as FP32: `a / b` with both nonzero. The quotient is taken to
enough bits that the discarded part decides every rounding. -/
def divMag (mode : Rounding) (neg : Bool) (m₁ : Nat) (e₁ : Int) (m₂ : Nat) (e₂ : Int) : Nat × FlagSet :=
  let sh := 80 + bitLen m₂
  let q := (m₁ <<< sh) / m₂
  let r := (m₁ <<< sh) % m₂
  -- a sticky bit below the quotient stands for the remainder
  finToF32 mode neg (2 * q + (if r = 0 then 0 else 1)) (e₁ - e₂ - sh - 1)

/-- IEEE division with the special values of R145: finite ÷ 0 is an infinity without a flag. -/
def divF (mode : Rounding) (a b : Nat) : Nat × FlagSet :=
  match f32Value a, f32Value b with
  | .nan s, w => (0x7FC00000, (if s then flagInv else 0) ||| snanFlag w)
  | _, .nan s => (0x7FC00000, if s then flagInv else 0)
  | .inf _, .inf _ => (0x7FC00000, flagInv)
  | .inf x, .fin n _ _ => (signCode 32 (x != n) 0x7F800000, 0)
  | .fin n _ _, .inf y => (signCode 32 (n != y) 0, 0)
  | .fin n₁ m₁ e₁, .fin n₂ m₂ e₂ =>
    if m₂ = 0 then (if m₁ = 0 then (0x7FC00000, flagInv) else (signCode 32 (n₁ != n₂) 0x7F800000, 0))
    else if m₁ = 0 then (signCode 32 (n₁ != n₂) 0, 0)
    else divMag mode (n₁ != n₂) m₁ e₁ m₂ e₂

end Sys2Proof.Machine
end

