-- ==== Sys2Proof/Machine/Convert.lean ====
section
/-!
DEFINITION. Conversion words, element packing, conversions with block scales and stochastic rounding, and
the exponent histogram (R38 to R75).
-/

namespace Sys2Proof.Machine

/-! ### The conversion word (R54) -/

/-- The fields of a conversion word. -/
structure ConvWord where
  src : Nat
  dst : Nat
  rnd : Nat
  zovf : Bool
  dscale : Nat
  sscale : Bool
  hist : Bool
  top : Bool
  deriving DecidableEq, Repr

/-- A conversion word's fields. -/
def convOf (w : Nat) : ConvWord :=
  { src := bitsOf w 0 4, dst := bitsOf w 4 4, rnd := bitsOf w 8 2, zovf := bitOf w 10,
    dscale := bitsOf w 11 2, sscale := bitOf w 13, hist := bitOf w 14, top := bitOf w 15 }

/-- What R51 and R54 ask of a conversion word at byte `off`, in the order of its bits; `histOk` says that the
word's target has a histogram slot field in its descriptor (R54). -/
def convChecks (off w : Nat) (histOk : Bool) : List (Nat × Bool) :=
  let c := convOf w
  [(off, fmtOk c.src), (off, fmtOk c.dst), (off + 1, c.rnd != 3), (off + 1, !c.zovf || isZ c.dst),
   (off + 1, c.dscale != 3 && (c.dscale == 0 || isZ c.dst)), (off + 1, !c.sscale || isZ c.src),
   (off + 1, !c.hist || histOk), (off + 1, !c.top)]

/-- A conversion word that its descriptor may hold. -/
def convOk (w : Nat) (histOk : Bool) : Bool := (convChecks 0 w histOk).all Prod.snd

/-! ### Packing (R38, R39) -/

/-- The codes of `n` elements of a format laid out contiguously. Z4 and I4 pack two per byte. -/
def unpack (fmt n : Nat) (bs : List Byte) : List Nat :=
  if containerBits fmt = 4 then
    ((blockBytes bs 0 (ceilDiv n 2)).flatMap (fun b => [b.toNat % 16, b.toNat / 16])).take n
  else
    let k := containerBits fmt / 8
    (pieces k (blockBytes bs 0 (n * k))).map leNat

/-- Two codes of 4 bits in a byte; an odd last code leaves the upper half zero. -/
def packNibbles : List Nat → List Byte
  | [] => []
  | [a] => [BitVec.ofNat 8 (a % 16)]
  | a :: b :: t => BitVec.ofNat 8 (a % 16 + 16 * (b % 16)) :: packNibbles t

/-- Elements laid out contiguously. -/
def pack (fmt : Nat) (codes : List Nat) : List Byte :=
  if containerBits fmt = 4 then packNibbles codes
  else codes.flatMap (natLe (containerBits fmt / 8))

/-- Decoded elements of a row, with the scale of each block of 32 where it carries scales (R48, R49). -/
def valuesOf (fmt : Nat) (codes : List Nat) (scales : Option (List Byte)) : List Value :=
  match scales with
  | none => codes.map (decodeCode fmt)
  | some sc => (pieces 32 codes).zipIdx.flatMap (fun p =>
      p.1.map (fun c => applyScale ((sc.getD p.2 0).toNat) (decodeCode fmt c)))

/-! ### One element (R55 to R60) -/

/-- An overflowing or infinite element of a Z target (R57, R59): code and flags. -/
def zOverflow (fmt : Nat) (f : FFmt) (zovf : Bool) (dscale : Nat) (neg : Bool) : Nat × FlagSet :=
  let sat := signCode f.width neg (maxCode f)
  if !zovf then (sat, flagOvf ||| flagInx)
  else if fmt = 5 then (if dscale = 1 then (0, flagOvf ||| flagInv) else (sat, flagOvf ||| flagInx))
  else (nanCode fmt, flagOvf ||| flagInv)

/-- A value converted into a Z format; it has been divided by its block's scale. -/
def convZ (fmt : Nat) (f : FFmt) (zovf : Bool) (dscale : Nat) (mode : Rounding) : Value → Nat × FlagSet
  | .nan sn =>
    let inv := if sn then flagInv else 0
    if fmt = 5 then (0, if dscale = 1 then inv else flagInv) else (nanCode fmt, inv)
  | .inf n => zOverflow fmt f zovf dscale n
  | .fin n m e =>
    if m = 0 then (0, 0)
    else
      let (q, g, x, o) := roundFmt f mode n m e
      if o then zOverflow fmt f zovf dscale n
      else (if q = 0 then 0 else signCode f.width n (magCode f q g), roundFlags f mode n m e x)

/-- A value converted into FP32, FP16 or BF16 (R57, R59). -/
def convIeee (fmt : Nat) (f : FFmt) (mode : Rounding) : Value → Nat × FlagSet
  | .nan sn => (nanCode fmt, if sn then flagInv else 0)
  | .inf n => (signCode f.width n (maxCode f + 1), 0)
  | .fin n m e =>
    if m = 0 then (signCode f.width n 0, 0)
    else
      let (q, g, x, o) := roundFmt f mode n m e
      if o then
        (signCode f.width n (if mode = .rtz then maxCode f else maxCode f + 1), flagOvf ||| flagInx)
      else (signCode f.width n (magCode f q g), roundFlags f mode n m e x)

/-- An integer brought into `w` bits under `iovf`: saturated or wrapped, with OVF outside the range (R58). -/
def fitInt (w : Nat) (iovf : Bool) (v : Int) : Nat × FlagSet :=
  let lo : Int := -(2 ^ (w - 1) : Int)
  let hi : Int := 2 ^ (w - 1) - 1
  if lo ≤ v && v ≤ hi then (wrapOf v w, 0)
  else if iovf then (wrapOf (if v < lo then lo else hi) w, flagOvf)
  else (wrapOf v w, flagOvf)

/-- A value converted into an integer format of `w` bits (R58, R59). -/
def convInt (w : Nat) (iovf : Bool) (mode : Rounding) : Value → Nat × FlagSet
  | .nan _ => (0, flagInv)
  | .inf n => (wrapOf (if n then -(2 ^ (w - 1) : Int) else 2 ^ (w - 1) - 1) w, flagInv)
  | .fin n m e =>
    let (q, x) := roundAt mode n m e 0
    let v : Int := if n then -(q : Int) else q
    let (c, fl) := fitInt w iovf v
    (c, if x then fl ||| flagInx else fl)

/-- Division by 2^s, exact (R55). -/
def unscale (s : Int) : Value → Value
  | .fin n m e => .fin n m (if m = 0 then e else e - s)
  | v => v

/-- One element converted, its block's scale exponent already known. -/
def convElem (c : ConvWord) (iovf : Bool) (mode : Rounding) (s : Int) (v : Value) : Nat × FlagSet :=
  match ffmtOf c.dst, intWidth c.dst with
  | some f, _ =>
    if f.ieee then convIeee c.dst f mode v else convZ c.dst f c.zovf c.dscale mode (unscale s v)
  | none, some w => convInt w iovf mode v
  | none, none => (0, 0)

/-! ### Block scales (R60, R62, R63) -/

/-- The larger of two magnitudes. -/
def maxMag (a b : Nat × Int) : Nat × Int := if magLt a.1 a.2 b.1 b.2 then b else a

/-- The largest finite magnitude of a block; 0 where it has none. -/
def amaxOf (vs : List Value) : Nat × Int :=
  vs.foldl (fun acc v => match v with
    | .fin _ m e => maxMag acc (m, e)
    | _ => acc) (0, 0)

/-- Whether an element of magnitude `a` overflows the target under scale `s` with its rounding (R63). -/
def amaxOverflows (f : FFmt) (a : Nat × Int) (s : Int) (mode : Rounding) : Value → Bool
  | .fin n m e =>
    if magLt m e a.1 a.2 then false
    else
      let (_, _, _, o) := roundFmt f mode n m (e - s)
      o
  | _ => false

/-- The computed scale of a block (R62, R63). -/
def blockScale (f : FFmt) (modes : List Rounding) (vs : List Value) : Int :=
  let a := amaxOf vs
  if a.1 = 0 then 0
  else
    let emax : Int := (bitLen f.maxM : Int) - 1 + f.maxE
    let s := (bitLen a.1 : Int) - 1 + a.2 - emax
    let s := if (vs.zip modes).any (fun p => amaxOverflows f a s p.2 p.1) then s + 1 else s
    max (-127) (min s 127)

/-- A converted run of elements: codes, one scale byte per block (empty where none is written), flags, the values as
stored, and of the flags those of the conversion to the target (R74), all of them unless an epilogue came before. -/
structure RowOut where
  codes : List Nat
  scales : List Byte
  flags : FlagSet
  stored : List Value
  own : FlagSet := flags
  deriving DecidableEq, Repr

/-- The OR of a list of flag sets. -/
def orFlags (fs : List FlagSet) : FlagSet := fs.foldl (· ||| ·) 0

/-- One block of at most 32 elements of a Z target under scale mode `c.dscale`; `sb` is the supplied scale
byte (R60, R62). -/
def convBlock (c : ConvWord) (f : FFmt) (modes : List Rounding) (vs : List Value) (sb : Byte) : RowOut :=
  if c.dscale = 2 && sb == 0x80 then
    { codes := vs.map (fun _ => 0), scales := [sb], flags := orFlags (vs.map snanFlag),
      stored := vs.map (fun _ => .nan false) }
  else
    let s : Int := if c.dscale = 1 then blockScale f modes vs else if c.dscale = 2 then signedOf sb.toNat 8 else 0
    let outs := (vs.zip modes).map (fun p => convElem c false p.2 s p.1)
    let codes := outs.map Prod.fst
    let flags := orFlags (outs.map Prod.snd)
    let nanBlock := c.dscale == 1 &&
      (vs.any Value.isNan
        || (c.zovf && vs.any (fun v => match v with | .inf _ => true | _ => false))
        || (c.zovf && c.dst == 5 && outs.any (fun o => o.2 &&& flagOvf != 0)))
    if nanBlock then
      { codes := vs.map (fun _ => 0), scales := [0x80], flags := flags, stored := vs.map (fun _ => .nan false) }
    else
      { codes := codes, scales := [BitVec.ofInt 8 s], flags := flags,
        stored := codes.map (fun k => applyScale (BitVec.ofInt 8 s).toNat (decodeCode c.dst k)) }

/-- A row of values converted, with one rounding per element and the supplied scale bytes where
DST_SCALE = 2. -/
def convValues (c : ConvWord) (iovf : Bool) (modes : List Rounding) (vs : List Value)
    (supplied : List Byte) : RowOut :=
  match ffmtOf c.dst with
  | some f =>
    if f.ieee || c.dscale = 0 then
      let outs := (vs.zip modes).map (fun p => convElem c iovf p.2 0 p.1)
      { codes := outs.map Prod.fst, scales := [], flags := orFlags (outs.map Prod.snd),
        stored := outs.map (fun o => decodeCode c.dst o.1) }
    else
      let blocks := ((pieces 32 vs).zip (pieces 32 modes)).zipIdx.map (fun p =>
        convBlock c f p.1.2 p.1.1 (supplied.getD p.2 0))
      { codes := blocks.flatMap RowOut.codes, scales := blocks.flatMap RowOut.scales,
        flags := orFlags (blocks.map RowOut.flags), stored := blocks.flatMap RowOut.stored }
  | none =>
    let outs := (vs.zip modes).map (fun p => convElem c iovf p.2 0 p.1)
    { codes := outs.map Prod.fst, scales := [], flags := orFlags (outs.map Prod.snd),
      stored := outs.map (fun o => decodeCode c.dst o.1) }

/-! ### Stochastic rounding of conversions (R64, R65) -/

/-- The start value of generator row `n` (R64). -/
def srStart (seed n : Nat) : Nat :=
  let x := (seed ^^^ (n * 0x9E3779B9)) % 2 ^ 32
  if x = 0 then 0x6D2B79F5 else x

/-- One xorshift step (R64). -/
def srStep (x : Nat) : Nat :=
  let x := (x ^^^ (x <<< 13)) % 2 ^ 32
  let x := x ^^^ (x >>> 17)
  (x ^^^ (x <<< 5)) % 2 ^ 32

/-- `n` draws after a state. -/
def srRun : Nat → Nat → List Nat
  | 0, _ => []
  | n + 1, x =>
    let y := srStep x
    y :: srRun n y

/-- Elements of a format in one generator row: those of 512 bytes of element data (R64). -/
def srPiece (fmt : Nat) : Nat := 4096 / containerBits fmt

/-- Pieces of a logical row of `n` elements. -/
def srPieces (fmt n : Nat) : Nat := ceilDiv n (srPiece fmt)

/-- The draws of a logical row of `n` elements whose first generator row is `gen`. -/
def rowDraws (fmt seed gen n : Nat) : List Nat :=
  (upTo (srPieces fmt n)).flatMap (fun k =>
    srRun (min (srPiece fmt) (n - k * srPiece fmt)) (srStart seed (gen + k)))

/-- The rounding of each element of a logical row (R54 RND, R65). -/
def rowModes (c : ConvWord) (seed gen n : Nat) : List Rounding :=
  match c.rnd with
  | 0 => List.replicate n .rne
  | 1 => List.replicate n .rtz
  | _ => (rowDraws c.dst seed gen n).map Rounding.sr

/-- A conversion that copies every bit (R42): equal formats and both scale modes off. -/
def ConvWord.copies (c : ConvWord) : Bool := c.src == c.dst && c.dscale == 0 && !c.sscale

/-- Part of a logical row: the row's number among rows of one length (R64), its length, and the part's first element. -/
structure RowPart where
  y : Nat
  len : Nat
  first : Nat
  deriving DecidableEq, Repr

/-- The rounding of each of `n` elements of a part: draws go in the element order of the whole row (R64, R65). -/
def RowPart.modes (r : RowPart) (c : ConvWord) (seed n : Nat) : List Rounding :=
  ((rowModes c seed (r.y * srPieces c.dst r.len) r.len).drop r.first).take n

/-- A part of a logical row of codes converted. -/
def convRowPart (c : ConvWord) (iovf : Bool) (seed : Nat) (r : RowPart) (codes : List Nat) (scales : Option (List Byte))
    (supplied : List Byte) : RowOut :=
  if c.copies then
    { codes := codes, scales := [], flags := 0, stored := codes.map (decodeCode c.dst) }
  else
    convValues c iovf (r.modes c seed codes.length) (valuesOf c.src codes (if c.sscale then scales else none)) supplied

/-- A part of a logical row of values (an FP32 or I32 result) converted. -/
def convPart (c : ConvWord) (iovf : Bool) (seed : Nat) (r : RowPart) (vs : List Value) (supplied : List Byte) : RowOut :=
  convValues c iovf (r.modes c seed vs.length) vs supplied

/-- A logical row of codes converted: `y` is its number among rows of one length (R64). -/
def convRow (c : ConvWord) (iovf : Bool) (seed y : Nat) (codes : List Nat) (scales : Option (List Byte))
    (supplied : List Byte) : RowOut :=
  convRowPart c iovf seed { y := y, len := codes.length, first := 0 } codes scales supplied

/-- A logical row of values converted. -/
def convOut (c : ConvWord) (iovf : Bool) (seed y : Nat) (vs : List Value) (supplied : List Byte) : RowOut :=
  convPart c iovf seed { y := y, len := vs.length, first := 0 } vs supplied

/-- An FP32 or I32 result row (32-bit patterns) converted; equal formats copy every bit (R42). -/
def storeRow (c : ConvWord) (iovf : Bool) (seed y : Nat) (pats : List Nat) (supplied : List Byte) : RowOut :=
  convRow c iovf seed y pats none supplied

/-! ### Exponent histograms (R72 to R74) -/

/-- Running counts: 64 bins, NaNs, elements. -/
structure Hist where
  bins : List Nat
  nans : Nat
  elems : Nat
  deriving DecidableEq, Repr

/-- Empty counts. -/
def Hist.zero : Hist := { bins := List.replicate 64 0, nans := 0, elems := 0 }

/-- The bin of a value; none for a NaN (R72). -/
def histBin : Value → Option Nat
  | .nan _ => none
  | .inf _ => some 63
  | .fin _ m e =>
    if m = 0 then some 0
    else
      let k : Int := (bitLen m : Int) - 1 + e
      if k ≤ -48 then some 0 else if 15 ≤ k then some 63 else some (k + 48).toNat

/-- One stored element counted, saturating (R73). -/
def Hist.count (h : Hist) (v : Value) : Hist :=
  let h := { h with elems := min 0xFFFFFFFF (h.elems + 1) }
  match histBin v with
  | none => { h with nans := min 0xFFFFFFFF (h.nans + 1) }
  | some b => { h with bins := h.bins.set b (min 0xFFFFFFFF (h.bins.getD b 0 + 1)) }

/-- Stored elements counted. -/
def Hist.countAll (h : Hist) (vs : List Value) : Hist := vs.foldl Hist.count h

/-- The 320-byte record (R74). -/
def Hist.record (h : Hist) (tag : Word) (fmt : Nat) (flags : FlagSet) : List Byte :=
  h.bins.flatMap (natLe 4) ++ natLe 4 h.nans ++ natLe 4 h.elems ++ natLe 4 tag.toNat ++ natLe 1 fmt
    ++ natLe 1 flags.toNat ++ List.replicate 50 0

end Sys2Proof.Machine
end

