-- ==== Sys2Proof/Machine/Dot.lean ====
section
/-!
DEFINITION. Dot products and the running sum (R113 to R128).
-/

namespace Sys2Proof.Machine

/-- The accumulation control of a kernel (R123, R124): SR and its seed, the logical core, whether the MVP
computes (R125), and `iovf`. -/
structure AccCtl where
  sr : Bool
  seed : Nat
  core : Nat
  mvp : Bool
  iovf : Bool
  deriving DecidableEq, Repr

/-- What R123 asks of an accumulation control byte at byte `off`; `ints` says the operands are integers. -/
def accChecks (off b : Nat) (ints : Bool) : List (Nat × Bool) :=
  [(off, (bitsOf b 0 2 == 0 || bitsOf b 0 2 == 2) && (!ints || bitsOf b 0 2 == 0)), (off, bitsOf b 3 5 == 0)]

/-- The draw of output row `m`, column `c`, group `g` and use `j` (R124, R125). -/
def accDraw (a : AccCtl) (m c g j : Nat) : Nat :=
  let x := (a.seed ^^^ (a.core * 0x85EBCA6B % 2 ^ 32) ^^^ (c * 0xC2B2AE35 % 2 ^ 32)
    ^^^ (m * 0x27D4EB2F % 2 ^ 32) ^^^ ((2 * g + j) * 0x165667B1 % 2 ^ 32)) % 2 ^ 32
  let x := if a.mvp then x ^^^ 0x80000000 else x
  let x := if x = 0 then 0x6D2B79F5 else x
  srStep (srStep (srStep x))

/-- The rounding of a group (j = 0) or of a running-sum addition (j = 1) under ARND. -/
def accRound (a : AccCtl) (m c g j : Nat) : Rounding := if a.sr then .sr (accDraw a m c g j) else .rne

/-- floor(log2) of a nonzero magnitude. -/
def expOf (m : Nat) (e : Int) : Int := (bitLen m : Int) - 1 + e

/-- The largest product exponent of the nonzero finite products (R117). -/
def groupExp : List Value → Option Int
  | [] => none
  | .fin _ m e :: t =>
    if m = 0 then groupExp t
    else match groupExp t with
      | none => some (expOf m e)
      | some k => some (max k (expOf m e))
  | _ :: t => groupExp t

/-- A product as an integer of units 2^(E − 47), truncated in magnitude, and whether bits were lost (R117). -/
def alignProduct (ex : Int) : Value → Int × Bool
  | .fin n m e =>
    let (q, x) := roundAt .rtz n m e (ex - 47)
    (if n then -(q : Int) else q, x)
  | _ => (0, false)

/-- A group's exact value before rounding, with its flags (R114, R116 to R118). -/
def groupValue (ps : List (Value × Value)) : Value × FlagSet :=
  let prods := ps.map (fun p => mulValue p.1 p.2)
  let flags := orFlags (prods.map Prod.snd)
  let vs := prods.map Prod.fst
  if vs.any Value.isNan then (.nan false, flags)
  else
    let pos := vs.any (fun v => v == .inf false)
    let neg := vs.any (fun v => v == .inf true)
    if pos && neg then (.nan false, flags ||| flagInv)
    else if pos then (.inf false, flags)
    else if neg then (.inf true, flags)
    else match groupExp vs with
      | none => (.fin (vs.all Value.neg) 0 0, flags)
      | some ex =>
        let qs := vs.map (alignProduct ex)
        let g : Int := (qs.map Prod.fst).sum
        (.fin (g < 0) g.natAbs (ex - 47), if qs.any Prod.snd then flags ||| flagInx else flags)

/-- A group of 32: positions beyond K hold +0 products (R115). -/
def padGroup (ps : List (Value × Value)) : List (Value × Value) :=
  ps ++ List.replicate (32 - ps.length) (.fin false 0 0, .fin false 0 0)

/-- One group added to an element's running sum (R119, R121): `acc` is none where the row is not valid. -/
def addGroup (a : AccCtl) (m c g : Nat) (acc : Option Nat) (ps : List (Value × Value)) : Nat × FlagSet :=
  let (v, f₀) := groupValue (padGroup ps)
  let (r, f₁) := valueToF32 (accRound a m c g 0) v
  match acc with
  | none => (r, f₀ ||| f₁)
  | some old =>
    let (s, f₂) := addF (accRound a m c g 1) old r
    (s, f₀ ||| f₁ ||| f₂)

/-- Groups added in increasing contraction index from group `g` (R120). -/
def addGroups (a : AccCtl) (m c : Nat) : Nat → Option Nat → List (List (Value × Value)) → Option Nat × FlagSet
  | _, acc, [] => (acc, 0)
  | g, acc, ps :: t =>
    let (s, f) := addGroup a m c g acc ps
    let (r, f') := addGroups a m c (g + 1) (some s) t
    (r, f ||| f')

/-- A floating-point dot product of two rows, from group `g` on (R115, R120, R121). -/
def dotFloat (a : AccCtl) (m c g : Nat) (acc : Option Nat) (x y : List Value) : Option Nat × FlagSet :=
  addGroups a m c g acc (pieces 32 (x.zip y))

/-- The row-factor multiply of a valid element (R122). -/
def rowFactor (factor : Nat) (acc : Option Nat) : Option Nat × FlagSet :=
  match acc with
  | none => (none, 0)
  | some v =>
    let (r, f) := mulF .rne v factor
    (some r, f)

/-- One group of integer products added to an I32 element (R128). -/
def addGroupInt (iovf : Bool) (acc : Option Nat) (ps : List (Int × Int)) : Nat × FlagSet :=
  let g : Int := (ps.map (fun p => p.1 * p.2)).sum
  fitInt 32 iovf (match acc with
    | none => g
    | some v => signedOf v 32 + g)

/-- Integer groups in order. -/
def addGroupsInt (iovf : Bool) : Option Nat → List (List (Int × Int)) → Option Nat × FlagSet
  | acc, [] => (acc, 0)
  | acc, ps :: t =>
    let (s, f) := addGroupInt iovf acc ps
    let (r, f') := addGroupsInt iovf (some s) t
    (r, f ||| f')

/-- An integer dot product. -/
def dotInt (iovf : Bool) (acc : Option Nat) (x y : List Int) : Option Nat × FlagSet :=
  addGroupsInt iovf acc (pieces 32 (x.zip y))

/-- An integer value's number. -/
def intOf : Value → Int
  | .fin n m e =>
    let v : Int := if 0 ≤ e then (m : Int) * 2 ^ e.toNat else 0
    if n then -v else v
  | _ => 0

/-- A dot product of decoded rows in either arithmetic. -/
def dotRow (ints : Bool) (a : AccCtl) (m c g : Nat) (acc : Option Nat) (x y : List Value) :
    Option Nat × FlagSet :=
  if ints then dotInt a.iovf acc (x.map intOf) (y.map intOf) else dotFloat a m c g acc x y

end Sys2Proof.Machine
end

