-- ==== Sys2Proof/Machine/Ops.lean ====
section
/-!
DEFINITION. The named operations on the state: units by number, the error log, the fatal state, memory
behind translations, descriptors and their retire point.
-/

namespace Sys2Proof.Machine

/-! ### Units by number -/

/-- Partition `n` (R537). -/
def State.part (s : State) (n : Nat) : PartCfg := getAt PartCfg.reset s.parts n
/-- Partition `n` made `v`. -/
def State.setPart (s : State) (n : Nat) (v : PartCfg) : State :=
  { s with parts := putAt PartCfg.reset s.parts n v }
/-- Context `n` (R538). -/
def State.ctx (s : State) (n : Nat) : CtxCfg := getAt CtxCfg.reset s.ctxs n
/-- Context `n` made `v`. -/
def State.setCtx (s : State) (n : Nat) (v : CtxCfg) : State :=
  { s with ctxs := putAt CtxCfg.reset s.ctxs n v }
/-- Submission ring `n` (R539). -/
def State.sub (s : State) (n : Nat) : SubRing := getAt SubRing.reset s.subs n
/-- Submission ring `n` made `v`. -/
def State.setSub (s : State) (n : Nat) (v : SubRing) : State :=
  { s with subs := putAt SubRing.reset s.subs n v }
/-- Completion ring `n` (R539). -/
def State.comp (s : State) (n : Nat) : CompRing := getAt CompRing.reset s.comps n
/-- Completion ring `n` made `v`. -/
def State.setComp (s : State) (n : Nat) (v : CompRing) : State :=
  { s with comps := putAt CompRing.reset s.comps n v }
/-- Range Table working entry `h` (R389). -/
def State.range (s : State) (h : Nat) : RangeEnt := getAt RangeEnt.reset s.ranges h
/-- Working entry `h` made `v`. -/
def State.setRange (s : State) (h : Nat) (v : RangeEnt) : State :=
  { s with ranges := putAt RangeEnt.reset s.ranges h v }
/-- Pool `n` (R221). -/
def State.pool (s : State) (n : Nat) : Pool := getAt Pool.reset s.pools n
/-- Pool `n` made `v`. -/
def State.setPool (s : State) (n : Nat) (v : Pool) : State :=
  { s with pools := putAt Pool.reset s.pools n v }
/-- Sequence `n` (R238). -/
def State.seqn (s : State) (n : Nat) : Seq := getAt Seq.reset s.seqs n
/-- Sequence `n` made `v`. -/
def State.setSeq (s : State) (n : Nat) (v : Seq) : State :=
  { s with seqs := putAt Seq.reset s.seqs n v }
/-- Group `n` (R414). -/
def State.group (s : State) (n : Nat) : Group := getAt Group.reset s.groups n
/-- Group `n` made `v`. -/
def State.setGroup (s : State) (n : Nat) (v : Group) : State :=
  { s with groups := putAt Group.reset s.groups n v }
/-- Loop `n` (R268). -/
def State.loopAt (s : State) (n : Nat) : LoopSt := getAt LoopSt.reset s.loops n
/-- Loop `n` made `v`. -/
def State.setLoop (s : State) (n : Nat) (v : LoopSt) : State :=
  { s with loops := putAt LoopSt.reset s.loops n v }
/-- Model slot `n` (R275). -/
def State.model (s : State) (n : Nat) : Model := getAt Model.reset s.models n
/-- Model slot `n` made `v`. -/
def State.setModel (s : State) (n : Nat) (v : Model) : State :=
  { s with models := putAt Model.reset s.models n v }
/-- Control core `n` (R25). -/
def State.ccore (s : State) (n : Nat) : CCore := getAt CCore.reset s.ccores n
/-- Control core `n` made `v`. -/
def State.setCcore (s : State) (n : Nat) (v : CCore) : State :=
  { s with ccores := putAt CCore.reset s.ccores n v }
/-- The kernel of context `n` (R375). -/
def State.kernel (s : State) (n : Nat) : Kernel := getAt Kernel.reset s.kernels n
/-- The kernel of context `n` made `v`. -/
def State.setKernel (s : State) (n : Nat) (v : Kernel) : State :=
  { s with kernels := putAt Kernel.reset s.kernels n v }
/-- Core `n` (R16). -/
def State.core (s : State) (n : Nat) : Core := getAt Core.reset s.cores n
/-- Core `n` made `v`. -/
def State.setCore (s : State) (n : Nat) (v : Core) : State :=
  { s with cores := putAt Core.reset s.cores n v }
/-- Fabric port `n` (R352). -/
def State.fport (s : State) (n : Nat) : FPort := getAt FPort.reset s.ports n
/-- Fabric port `n` made `v`. -/
def State.setFport (s : State) (n : Nat) (v : FPort) : State :=
  { s with ports := putAt FPort.reset s.ports n v }
/-- Watch `n` (R360). -/
def State.watch (s : State) (n : Nat) : Watch := getAt Watch.reset s.watches n
/-- Watch `n` made `v`. -/
def State.setWatch (s : State) (n : Nat) (v : Watch) : State :=
  { s with watches := putAt Watch.reset s.watches n v }
/-- SS window `n` (R310). -/
def State.ssWin (s : State) (n : Nat) : SsWindow := getAt SsWindow.reset s.ssWins n
/-- SS window `n` made `v`. -/
def State.setSsWin (s : State) (n : Nat) (v : SsWindow) : State :=
  { s with ssWins := putAt SsWindow.reset s.ssWins n v }
/-- The Piste region of a context on a cluster (R329): regions are kept by 32 * cluster + context. -/
def State.pisteAt (s : State) (cluster ctx : Nat) : Piste := getAt Piste.reset s.piste (32 * cluster + ctx)
/-- That region made `v`. -/
def State.setPiste (s : State) (cluster ctx : Nat) (v : Piste) : State :=
  { s with piste := putAt Piste.reset s.piste (32 * cluster + ctx) v }
/-- Cluster `n`'s clock and power registers (R541). -/
def State.cluster (s : State) (n : Nat) : Cluster := getAt Cluster.reset s.mgmt.clusters n
/-- Cluster `n` made `v`. -/
def State.setCluster (s : State) (n : Nat) (v : Cluster) : State :=
  { s with mgmt := { s.mgmt with clusters := putAt Cluster.reset s.mgmt.clusters n v } }

/-- The idle tick of the block: CLK_CTL counts (DESIGN CHOICE, log 1). -/
def State.tick (s : State) : State := { s with clkCtl := s.clkCtl + 1 }

/-- The next draw of the model's free values (log 7): the number to apply one to, and the state that has
spent it. -/
def State.draw (s : State) : Nat × State := (s.free, { s with free := s.free + 1 })

/-- The block runs work: powered, start-up finished, not in the declared fatal state (R488, R504, R522). -/
def State.serving (s : State) : Bool :=
  s.mgmt.power == .on && s.mgmt.phase == .ready && !s.mgmt.fatal

/-! ### The register port (R505, R528) -/

/-- The register port answers: from 10 µs after reset release, with power (R505, R520). -/
def State.portOk (s : State) : Bool := s.mgmt.power == .on && s.mgmt.portReady

/-- Cluster `n` is enabled (R24). -/
def State.clusterOn (s : State) (n : Nat) : Bool := s.mgmt.clmask.toNat.testBit n

/-! ### The error log (R499) -/

/-- The 32 bytes of a log entry (R500). -/
def logBytes (e : LogEntry) : List Byte :=
  natLe 4 e.seq.toNat ++ natLe 1 e.event ++ natLe 1 e.cls ++ natLe 1 e.unit ++ natLe 1 e.index
    ++ natLe 8 e.place ++ natLe 2 e.ctx ++ natLe 2 e.count ++ natLe 4 e.tag.toNat ++ natLe 8 e.time

/-- The latest entry, if the log has one. -/
def ErrLog.latest (l : ErrLog) : Option LogEntry :=
  if l.head = 0 then none else some (getAt LogEntry.reset l.entries ((l.head - 1) % 256))

/-- Whether an event at `now` merges into entry `e`: the same EVENT, UNIT, INDEX and WHERE within 2^20
cycles of the latest event of the entry (R499). -/
def logMerges (l : ErrLog) (e : LogEntry) (now event unit index place : Nat) : Bool :=
  e.event == event && e.unit == unit && e.index == index && e.place == place
    && l.lastMerge ≤ now && now - l.lastMerge ≤ 2 ^ 20

/-- An event added to the log: merged into the latest entry, or a new entry over the oldest (R499). -/
def ErrLog.add (l : ErrLog) (now event cls unit index place ctx : Nat) (tag : Word) : ErrLog :=
  let fresh : ErrLog :=
    let e : LogEntry :=
      { seq := BitVec.ofNat 32 l.head, event := event, cls := cls, unit := unit, index := index,
        place := place, ctx := ctx, count := 1, tag := tag, time := now }
    { l with entries := putAt LogEntry.reset l.entries (l.head % 256) e, head := l.head + 1,
             lost := if 256 ≤ l.head then l.lost + 1 else l.lost, lastMerge := now }
  match l.latest with
  | none => fresh
  | some e =>
    if logMerges l e now event unit index place then
      { l with entries := putAt LogEntry.reset l.entries ((l.head - 1) % 256)
                 { e with count := min 0xFFFF (e.count + 1) },
               lastMerge := now }
    else fresh

/-- An event logged (R499); one of class Fatal is also reported through the mailbox (as 256 * EVENT plus the
low byte of WHERE, log 19). -/
def State.logEvent (s : State) (event cls unit index place : Nat) (ctx : Nat := 0xFFFF)
    (tag : Word := 0) : State :=
  let s := { s with log := s.log.add s.clkCtl event cls unit index place ctx tag }
  if cls = 3 then { s with mgmt := { s.mgmt with mbxReports := s.mgmt.mbxReports ++ [256 * event + place % 256] } }
  else s

/-- A refused or ignored register access logged as CFG_IGNORED with its offset (R451, R501). -/
def State.cfgIgnored (s : State) (offset : Nat) : State := s.logEvent 0x0E 0 9 0 (offset % 2 ^ 16)

/-- A repeat that succeeded at a location (R484): counted, and logged as WEAK when more than 8 fall within
2^30 cycles, once per such period. -/
def State.noteRepeat (s : State) (event unit index place : Nat) : State :=
  let now := s.clkCtl
  let live := s.log.repeats.filter (fun r => now - r.2.2.2.2 ≤ 2 ^ 30)
  let reps := live ++ [(event, unit, index, place, now)]
  let mine := reps.filter (fun r => r.1 == event && r.2.1 == unit && r.2.2.1 == index && r.2.2.2.1 == place)
  let unitWide := reps.filter (fun r => unit != 0xFF && r.2.1 == unit && r.2.2.1 == index)
  let said := fun (e p : Nat) => s.log.weakAt.any (fun r =>
    r.1 == e && r.2.1 == unit && r.2.2.1 == index && r.2.2.2.1 == p && now - r.2.2.2.2 < 2 ^ 30)
  let s := { s with log := { s.log with repeats := reps } }
  let weak := fun (s : State) (e p : Nat) =>
    let s := s.logEvent 0x10 0 unit index (event * 2 ^ 56 + place % 2 ^ 56)
    { s with log := { s.log with weakAt := s.log.weakAt ++ [(e, unit, index, p, now)] } }
  if mine.length > 8 && !said event place then weak s event place
  else if unitWide.length > 8 && !said 0x100 0 then weak s 0x100 0
  else s

/-- The declared fatal state entered with a cause (R488, R563). -/
def State.enterFatal (s : State) (cause : Nat) : State :=
  if s.mgmt.fatal then s
  else
    let s := { s with mgmt := { s.mgmt with fatal := true, cause := cause } }
    s.logEvent 0x14 3 0xFF 0 cause

/-! ### Memory outside the block and the sequence store -/

/-- The two memories that a translated address reaches: memory outside the block, and the SS (R387). -/
structure Store where
  mem : Table Byte
  ss : Table Byte
  poison : List Nat
  wback : List EccPlace
  deriving DecidableEq, Repr

/-- The memories of a state. -/
def State.store (s : State) : Store := { mem := s.mem, ss := s.ss, poison := s.ssPoison, wback := s.wback }

/-- A state with other memories. -/
def State.withStore (s : State) (m : Store) : State := { s with mem := m.mem, ss := m.ss, ssPoison := m.poison, wback := m.wback }

/-- `n` bytes at an address of a tier: tier 2 is the SS, where row r lies at byte 512 r (R387). -/
def Store.read (m : Store) (tier a n : Nat) : List Byte :=
  if tier = 2 then memRead m.ss (a % 2 ^ 45) n else memRead m.mem a n

/-- Bytes stored at an address of a tier: SS rows that are written in full are no longer poisoned (R322). -/
def Store.write (m : Store) (tier a : Nat) (bs : List Byte) : Store :=
  if tier = 2 then
    let o := a % 2 ^ 45
    { m with ss := memWrite m.ss o bs,
             poison := m.poison.filter (fun r => !(decide (o ≤ 512 * r) && decide (512 * r + 512 ≤ o + bs.length))),
             wback := m.wback.filter (fun p => match p with
               | .ss r => !(decide (o < 512 * r + 512) && decide (512 * r < o + bs.length))
               | .osp _ _ => true) }
  else { m with mem := memWrite m.mem a bs }

/-- The first poisoned SS row that `n` bytes at an address of a tier touch (R322). -/
def State.poisonedAt (s : State) (tier a n : Nat) : Option Nat :=
  let o := a % 2 ^ 45
  if tier = 2 then s.ssPoison.find? (fun r => decide (512 * r < o + n) && decide (o < 512 * r + 512)) else none

/-- Bytes of memory outside the block. -/
def State.memAt (s : State) (a n : Nat) : List Byte := memRead s.mem a n

/-- Bytes stored to memory outside the block. -/
def State.memPut (s : State) (a : Nat) (bs : List Byte) : State := { s with mem := memWrite s.mem a bs }

/-- A write to memory that was cut before its OK: each of its 64-byte units may have landed or not (free, log 7). -/
def State.landCut (s : State) (a : Nat) (bs : List Byte) : State :=
  (pieces 64 bs).zipIdx.foldl (fun s p =>
    let (n, s) := s.draw
    if Config.cutWriteLands n then s.memPut (a + 64 * p.2) p.1 else s) s

/-- The port of an address (R361). -/
def portOf (a : Nat) : Nat := a / 4096 % 12

/-! ### Range references (R384, R385) -/

/-- OFFSET of a reference. -/
def refOffset (r : Nat) : Nat := bitsOf r 0 44
/-- HANDLE of a reference. -/
def refHandle (r : Nat) : Nat := bitsOf r 44 14
/-- V of a reference. -/
def refValid (r : Nat) : Bool := bitOf r 63
/-- A reference that R384 allows: none, or V set with its reserved bits clear. -/
def refOk (r : Nat) : Bool := r == 0 || (refValid r && bitsOf r 58 5 == 0)

/-- One run of bytes that a descriptor touches: a reference, bytes past its OFFSET, length, and whether it
writes. -/
structure Run where
  ref : Nat
  off : Nat
  len : Nat
  wr : Bool
  deriving DecidableEq, Repr

/-- The offset in the range's offset space where a run begins. -/
def Run.start (r : Run) : Nat := refOffset r.ref + r.off

/-- A translation's physical address of an offset (R385). -/
def Trans.phys (t : Trans) (o : Nat) : Nat := t.base + o - 4096 * t.start

/-- An extent lies in a translation's bounds (R385). -/
def Trans.covers (t : Trans) (o n : Nat) : Bool :=
  4096 * t.start ≤ o && o + n ≤ 4096 * (t.start + t.lenM1 + 1)

/-- The translation of an entry as it stands (R390). -/
def transOf (h : Nat) (e : RangeEnt) : Trans :=
  { handle := h, gen := e.gen, base := e.base, start := e.start, lenM1 := e.lenM1, tier := e.tier,
    rd := e.rd, wr := e.wr, wt := e.wt, stale := false }

/-- The cached translation of a handle. -/
def Desc.transAt (x : Desc) (h : Nat) : Option Trans := x.trans.find? (fun t => t.handle == h)

/-- What a run meets (R392): an address, a poisoned SS row (R322), a fault of the descriptor, a retired range, or a halt. -/
inductive Acc where
  | ok (tier addr : Nat)
  | lost (row : Nat)
  | bad
  | stale
  | halt
  deriving DecidableEq, Repr

/-- The address of a run, as the request is issued (R385, R392, R397): the cached bounds and permission are
tested, then RES of the entry. -/
def State.reach (s : State) (x : Desc) (r : Run) : Acc :=
  match x.transAt (refHandle r.ref) with
  | none => .bad
  | some t =>
    if !(refValid r.ref && t.covers r.start r.len && (if r.wr then t.wr else t.rd)) then .bad
    else
      let e := s.range t.handle
      if e.res || t.tier = 2 then .ok t.tier (t.phys r.start)
      else if e.st == .retiring then .stale
      else .halt

/-- A run as an access meets it: a read of a poisoned SS row is lost (R322). -/
def State.access (s : State) (x : Desc) (r : Run) : Acc :=
  match s.reach x r with
  | .ok tier a => match (if r.wr then none else s.poisonedAt tier a r.len) with
    | some row => .lost row
    | none => .ok tier a
  | a => a

/-- The first run of a list that does not resolve, with what it meets. -/
def State.firstBad (s : State) (x : Desc) : List Run → Option (Run × Acc)
  | [] => none
  | r :: rs =>
    if r.len = 0 then s.firstBad x rs
    else match s.access x r with
      | .ok _ _ => s.firstBad x rs
      | a => some (r, a)

/-- Bytes of a run, read from given memories; nothing where it does not resolve (callers test first). -/
def State.fetchRun (s : State) (m : Store) (x : Desc) (r : Run) : List Byte :=
  match s.access x r with
  | .ok tier a => m.read tier a r.len
  | _ => []

/-- Bytes stored through a run. -/
def State.storeRun (s : State) (m : Store) (x : Desc) (r : Run) (bs : List Byte) : Store :=
  match s.access x r with
  | .ok tier a => m.write tier a bs
  | _ => m

/-- A read run. -/
def rdRun (ref off len : Nat) : Run := { ref := ref, off := off, len := len, wr := false }
/-- A write run. -/
def wrRun (ref off len : Nat) : Run := { ref := ref, off := off, len := len, wr := true }

/-! ### Descriptors -/

/-- The name of a descriptor. -/
def Desc.did (x : Desc) : Did := { ring := x.ring, index := x.index }

/-- The fetched descriptor of a name. -/
def State.desc? (s : State) (d : Did) : Option Desc := s.descs.find? (fun x => x.did == d)

/-- A descriptor replaced by a new value of the same name. -/
def State.setDesc (s : State) (x : Desc) : State :=
  { s with descs := s.descs.map (fun y => if y.did == x.did then x else y) }

/-- OPCODE (R454). -/
def Desc.opcode (x : Desc) : Nat := byteOf x.bytes 0
/-- FLAGS IRQ (R454). -/
def Desc.irq (x : Desc) : Bool := bitOf (byteOf x.bytes 1) 0
/-- FLAGS QUIET (R454). -/
def Desc.quiet (x : Desc) : Bool := bitOf (byteOf x.bytes 1) 1
/-- USER_TAG (R454). -/
def Desc.tag (x : Desc) : Word := BitVec.ofNat 32 (fieldOf x.bytes 4 4)
/-- A field of the descriptor. -/
def Desc.field (x : Desc) (off n : Nat) : Nat := fieldOf x.bytes off n
/-- The partition of a descriptor: that of its context (R452). -/
def State.partOf (s : State) (x : Desc) : Nat := (s.ctx x.ctx).part
/-- Class K opcodes (R457). -/
def isKernelOp (op : Nat) : Bool := 1 ≤ op && op ≤ 7
/-- A descriptor that has been dequeued and has not retired. -/
def Desc.dequeued (x : Desc) : Bool := x.st != .fetched

/-- Status codes in the order of precedence (R466). -/
def statusOrder : List Nat :=
  [0x7F, 0x70, 0x30, 0x20, 0x21, 0x22, 0x23, 0x24, 0x25, 0x10, 0x11, 0x03, 0x04, 0x01, 0x40, 0x41, 0x52,
   0x51, 0x50, 0x31, 0x02, 0x00]

/-- Of two statuses, the one recorded (R466). -/
def mergeStatus (a b : Nat) : Nat :=
  if statusOrder.findIdx (· == a) ≤ statusOrder.findIdx (· == b) then a else b

/-- A completion record (R464). -/
def recordBytes (tag : Word) (status : Nat) (flags : FlagSet) (opcode sring : Nat) (index : Word)
    (ctx detail retire elapsed : Nat) : List Byte :=
  natLe 4 tag.toNat ++ natLe 1 status ++ natLe 1 flags.toNat ++ natLe 1 opcode ++ natLe 1 sring
    ++ natLe 4 index.toNat ++ natLe 2 ctx ++ natLe 2 detail ++ natLe 8 retire
    ++ natLe 4 (min elapsed 0xFFFFFFFF) ++ natLe 4 0

/-- A record taken by a completion ring: up to 256 wait in the engine, and what runs on past that keeps its own (R450). -/
def CompRing.take (c : CompRing) (r : Rec) : CompRing :=
  if c.waiting.length < Config.maxWaiting then { c with waiting := c.waiting ++ [r] } else { c with held := c.held ++ [r] }

/-- A record put among those waiting for room in a completion ring (R450), with whether landing it raises
the interrupt: IRQ, or a status that is neither OK nor ECC_RETRIED (R468). -/
def State.pushRecord (s : State) (cring status : Nat) (irq : Bool) (bytes : List Byte) (d : Did) : State :=
  s.setComp cring ((s.comp cring).take
    { bytes := bytes, irq := irq || (status != 0 && status != 0x31), stamp := false, d := some d })

/-- The record of a descriptor that retires now with a status. -/
def State.recordFor (s : State) (x : Desc) (status detail : Nat) : List Byte :=
  recordBytes x.tag status x.flags x.opcode x.ring x.index (x.field 2 2) detail s.clkCtl
    (if x.dequeued then s.clkCtl - x.tDeq else 0)

/-- The record of a retiring descriptor queued, unless QUIET suppresses it (R465). -/
def State.report (s : State) (x : Desc) (status detail : Nat) : State :=
  if x.quiet && status == 0 then s
  else s.pushRecord (s.sub x.ring).cring status x.irq (s.recordFor x status detail) x.did

/-- A draining ring reads disabled once its last fetched descriptor has retired (R453). -/
def State.drainRing (s : State) (n : Nat) : State :=
  let r := s.sub n
  if r.draining && !(s.descs.any (fun y => y.ring == n)) then
    s.setSub n { r with enable := false, draining := false }
  else s

/-- READERS of a sequence: descriptors in flight that hold a view of it (R238, R254). -/
def State.readers (s : State) (n : Nat) : Nat :=
  (s.descs.filter (fun x => x.views.any (fun v => v.seq == n))).length

/-- A sequence that holds no page reference and no index block. -/
def Seq.bare (q : Seq) : Bool :=
  q.pages.all List.isEmpty && q.prov.isEmpty && q.budget.all List.isEmpty && q.iblocks.isEmpty
    && q.bblocks.isEmpty

/-- A LEAVING sequence that may become FREE: its last reference dropped and no reader, or, quarantined, the
descriptors it waits for completed (R241, R247). -/
def State.leaveDone (s : State) (n : Nat) (q : Seq) : Bool :=
  q.st == .leaving
    && (if q.quar then q.waits.all (fun d => !(s.descs.any (fun y => y.did == d)))
        else q.bare && s.readers n == 0)

/-- The FREE entry that a sequence leaves behind. -/
def Seq.freed (q : Seq) : Seq := { Seq.reset with epoch := q.epoch }

/-- Every LEAVING sequence that may become FREE does. -/
def State.settleSeqs (s : State) : State :=
  (keysOf s.seqs).foldl (fun s n =>
    let q := s.seqn n
    if s.leaveDone n q then s.setSeq n q.freed else s) s

/-- Cached entries marked dirty (R227, R240). -/
def State.dirtySeqs (s : State) (ns : List Nat) : State :=
  { s with seqDirty := s.seqDirty ++ ns.filter (fun n => !(s.seqDirty.contains n)) }

/-! ### The sequence table and its cache (R238 to R241) -/

/-- An index-block or page reference as the table holds it (R233). -/
def refWord (pool n : Nat) : Nat := n + pool * 2 ^ 26 + 2 ^ 31

/-- The 64 bytes of a sequence-table entry (R238). -/
def State.seqBytes (s : State) (n : Nat) : List Byte :=
  let q := s.seqn n
  let st := match q.st with
    | .free => 0
    | .live => 1
    | .leaving => 2
  let ref := fun (l : List Nat) (i : Nat) => match l[i]? with
    | some b => refWord q.pool b
    | none => 0
  let body := natLe 1 (st + 4 * q.pin.toNat + 8 * q.spec.toNat + 16 * q.quar.toNat) ++ natLe 1 q.depth
    ++ natLe 1 q.pool ++ natLe 1 q.nslot ++ natLe 4 q.len ++ natLe 4 q.res ++ natLe 1 q.nlayerM1
    ++ natLe 1 q.lastst ++ natLe 2 0 ++ natLe 4 (ref q.iblocks 0) ++ natLe 4 (ref q.bblocks 0)
    ++ natLe 4 (ref q.bblocks 1) ++ natLe 4 (q.budget.headD []).length ++ natLe 4 (s.readers n)
    ++ natLe 4 q.epoch.toNat ++ List.replicate 20 0
  body ++ natLe 4 (crc32c body)

/-- A sequence-table entry written back (R227, R240). -/
def State.writeBack (s : State) (n : Nat) : State :=
  match s.seqTab with
  | none => s
  | some (tier, a) =>
    let s := s.withStore (s.store.write tier (a + 64 * n) (s.seqBytes n))
    { s with seqDirty := s.seqDirty.filter (· != n) }

/-- Sequences that a prepared BOLT_STEP names, the parents of its joins among them (R246). -/
def Desc.stepNames (x : Desc) : List Nat :=
  if x.st == .prepared && x.opcode == 0x20 then
    ((upTo (x.field 32 4)).flatMap (fun i =>
      let k := byteOf x.kept (16 * i + 2)
      (if bitsOf k 0 2 = 2 then [] else [fieldOf x.kept (16 * i) 2])
        ++ (if bitOf k 4 then [fieldOf x.kept (16 * i + 8) 2] else []))).dedup
  else []

/-- New entries that the joins of a prepared BOLT_STEP need. -/
def Desc.stepJoins (x : Desc) : Nat :=
  if x.st == .prepared && x.opcode == 0x20 then
    ((upTo (x.field 32 4)).filter (fun i => bitsOf (byteOf x.kept (16 * i + 2)) 0 2 == 2)).length
  else 0

/-- The sequence of a migration that is between two of its pages (R240, R265). -/
def Desc.migrating (x : Desc) : List Nat :=
  if x.opcode = 0x22 && (x.st == .running || x.st == .halted) && x.prog != 0 then [x.field 10 2] else []

/-- The entries that prepared admissions and unfinished migrations pin (R240, R246). -/
def State.pinnedSeqs (s : State) : List Nat := s.descs.flatMap (fun x => x.stepNames ++ x.migrating)

/-- The cache can hold `n` more entries beside the pinned ones: a descriptor waits where it cannot (R240, R246, R266). -/
def State.cacheRoom (s : State) (n : Nat) : Bool :=
  decide ((s.descs.map (fun x => x.stepNames.length + x.stepJoins + x.migrating.length)).sum + n ≤ Config.seqCacheEntries)

/-- The least recently used entries that are not pinned leave a cache of more than 4,096, dirty ones written back
(R240). -/
def State.trimCache (s : State) : Nat → State
  | 0 => s
  | k + 1 =>
    if s.seqCache.length ≤ Config.seqCacheEntries then s
    else match s.seqCache.find? (fun n => !(s.pinnedSeqs.contains n)) with
      | none => s
      | some n =>
        let s := if s.seqDirty.contains n then s.writeBack n else s
        ({ s with seqCache := s.seqCache.filter (· != n) }).trimCache k

/-- The check of an entry that is filled from memory: its ECRC (R241). -/
def State.entryIntact (s : State) (n : Nat) : Bool :=
  match s.seqTab with
  | none => true
  | some (tier, a) =>
    let bs := s.store.read tier (a + 64 * n) 64
    fieldOf bs 60 4 == crc32c (bs.take 60)

/-- An entry brought into the cache as its most recently used one; a lasting mismatch sets QUAR (R240, R241). -/
def State.cacheSeq (s : State) (n : Nat) : State :=
  let s :=
    if s.seqCache.contains n || s.entryIntact n then s
    else (s.setSeq n { s.seqn n with quar := true }).logEvent 0x08 2 6 0 n
  ({ s with seqCache := s.seqCache.filter (· != n) ++ [n] }).trimCache 1

/-- Entries brought into the cache. -/
def State.cacheSeqs (s : State) (ns : List Nat) : State := ns.foldl State.cacheSeq s

/-- A descriptor taken out of the fetched ones: its uses, views and pending faults go with it; the entries whose READERS fall
are fetched again where they left the cache (R240). -/
def State.removeDesc (s : State) (d : Did) : State :=
  let vs := (s.descs.filter (fun y => y.did == d)).flatMap (fun y => y.views.map View.seq)
  let s := { s with descs := s.descs.filter (fun y => y.did != d),
                    faults := s.faults.filter (fun f => f.d != some d) }
  (((s.cacheSeqs vs.dedup).dirtySeqs vs.dedup).settleSeqs).drainRing d.ring

/-- The retire point (R474): the recorded status is the first of R466 that applies, the record waits for
room, and the descriptor is gone. -/
def State.retire (s : State) (x : Desc) (status detail : Nat) : State :=
  let st := mergeStatus x.status status
  let det := if st = status then detail else x.detail
  (s.report x st det).removeDesc x.did

/-- A range whose retire is cut before its drain phase returns to the state it was in (R397). -/
def State.unretire (s : State) (x : Desc) : State :=
  if x.st == .prepared && (x.opcode == 0x41 || (x.opcode == 0x42 && bitsOf (byteOf x.bytes 8) 0 2 ≤ 1)) then
    let h := bitsOf (x.field 16 2) 0 14
    let e := s.range h
    if e.st == .retiring then s.setRange h { e with st := e.was } else s
  else s

/-- A descriptor cut by an ABORT or a teardown: it retires ABORTED (R477, R478). -/
def State.cutDesc (s : State) (x : Desc) : State := (s.unretire x).retire x 0x01 0

/-- Point of no abort (R476) of a descriptor in the state it is in: COLL_ALLREDUCE REDUCE, BOLT_COMMIT and
TABLE_SWAP at dequeue; the atomic phase and the drain phases are single commands here. -/
def Desc.pastNoAbort (x : Desc) : Bool :=
  x.dequeued && ((x.opcode == 0x30 && bitsOf (byteOf x.bytes 8) 0 2 == 0) || x.opcode == 0x21
    || x.opcode == 0x59)

/-- Descriptors that hold a handle at a generation after dequeue (R389, R391). -/
def holdsGen (x : Desc) (h : Nat) (gen : BitVec 16) : Bool :=
  x.dequeued && x.trans.any (fun t => t.handle == h && t.gen == gen)

/-- Requests of a handle that are outstanding (R392). -/
def State.handleOuts (s : State) (h : Nat) : Nat :=
  (s.ports.map (fun p => (p.2.outs.filter (fun o => match o.2 with
    | some r => r.handle == some h
    | none => false)).length)).sum

/-- The use count of a handle at a generation (R389): dequeued unfinished descriptors that hold it, LOOPs
that hold it (R391), and outstanding DMA requests on the handle. -/
def State.useCount (s : State) (h : Nat) (gen : BitVec 16) : Nat :=
  (s.descs.filter (fun x => holdsGen x h gen)).length
    + (s.loops.filter (fun p => p.2.live && p.2.desc.trans.any (fun t => t.handle == h && t.gen == gen))).length
    + s.handleOuts h

/-- A pending range fault added (R401). -/
def State.addFault (s : State) (f : PFault) : State := { s with faults := s.faults ++ [f] }

/-- A range fault of a descriptor, or of the stream of a core (R376, R400): it halts, and a record waits to be sent. -/
def State.haltAt (s : State) (x : Desc) (core : Option Nat) (r : Run) : State :=
  let t := (x.transAt (refHandle r.ref)).getD (transOf (refHandle r.ref) (s.range (refHandle r.ref)))
  let f : PFault :=
    { id := none, core := core, part := s.partOf x, handle := t.handle, gen := t.gen, reason := 0, isWrite := r.wr,
      offset := r.start, ctx := x.ctx, tag := x.tag, d := some x.did }
  (s.setDesc { x with st := .halted }).addFault f

/-- A range fault of a descriptor that runs as a whole. -/
def State.haltOn (s : State) (x : Desc) (r : Run) : State := s.haltAt x none r

/-- Cores of a cluster mask, increasing. -/
def coresOf (mask : BitVec 8) : List Nat :=
  (upTo 32).filter (fun c => mask.toNat.testBit (c / 4))

/-- Flags raised by a kernel, in the array sets and SFU sets of the cores that its context runs on; which of
them did the work is firmware's (free, log 8). -/
def State.raiseOn (s : State) (ctx : Nat) (af sf : FlagSet) : State :=
  let (n, s) := s.draw
  if af = 0 && sf = 0 then s
  else
    (coresOf (s.ctx ctx).clusters).foldl (fun s c =>
      if Config.coreShare n c then
        let k := s.core c
        s.setCore c { k with aflags := k.aflags ||| af, sflags := k.sflags ||| sf }
      else s) s

/-- The outcome of a descriptor's whole effect: it ends with a status and DETAIL and no effect, meets a range
fault, a lasting mismatch of a Bolt page or a poisoned SS row, or is done with a status, the flags of its array and SFU sets, and
new memories. -/
inductive Work where
  | bad (status detail : Nat)
  | halt (r : Run)
  | mismatch (r : PageRef)
  | lost (row : Nat)
  | done (status : Nat) (aflags sflags : FlagSet) (m : Store)
  deriving DecidableEq, Repr

/-- DETAIL of a status that a descriptor's own work gives (R464): 0xFFFF for a failing entry of a list, the lowest
core of the context in recovery for ECC_RETRIED. -/
def State.detailOf (s : State) (x : Desc) (status : Nat) : Nat :=
  if status = 0x03 then 0xFFFF
  else if status = 0x31 then
    ((coresOf (s.ctx x.ctx).clusters).find? (fun c => (s.core c).seeds.any (fun t => t.2.recovery))).getD 0xFFFE
  else 0

/-- What a first failing run makes of a descriptor. -/
def workOfAcc (r : Run) : Acc → Work
  | .halt => .halt r
  | .lost row => .lost row
  | .stale => .bad 0x11 0
  | _ => .bad 0x03 0xFFFF

/-- Run `k` where every run resolves; else the outcome of the first that does not. -/
def State.guarded (s : State) (x : Desc) (runs : List Run) (k : Unit → Work) : Work :=
  match s.firstBad x runs with
  | some (r, a) => workOfAcc r a
  | none => k ()

/-- The first failing check of a list of (descriptor byte offset, holds) pairs in that order (R464 DETAIL). -/
def firstFail : List (Nat × Bool) → Option Nat
  | [] => none
  | (o, ok) :: t => if ok then firstFail t else some o

/-- Commands that a control core runs in turns (R457, R472): those of class U but the collectives, and RANGE_RETIRE. -/
def isUnitOp (op : Nat) : Bool :=
  [0x00, 0x10, 0x11, 0x12, 0x20, 0x21, 0x22, 0x23, 0x38, 0x40, 0x41, 0x42, 0x48, 0x58].contains op

/-- A context has a command for its control core. -/
def State.unitReady (s : State) (ctx : Nat) : Bool :=
  s.descs.any (fun x => x.ctx == ctx && isUnitOp x.opcode && x.st == .running)

/-- The enabled contexts that a context's control core serves, increasing (R25, R472). -/
def State.unitSet (s : State) (ctx : Nat) : List Nat :=
  (upTo 32).filter (fun c => (s.ctx c).enable && (s.ctx c).owner == (s.ctx ctx).owner)

/-- A context's commands may go on: its budget has not expired, and no other context with a command has the control core's turn
(R472). -/
def State.unitFree (s : State) (ctx : Nat) : Bool :=
  !(s.ctx ctx).uExpired && (s.unitSet ctx).all (fun c => c == ctx || !((s.ctx c).uTurn && s.unitReady c))

/-- A running descriptor of one of the given opcodes by name: what a command that performs a descriptor
acts on; a command of a control core waits for its context's turn. -/
def State.running? (s : State) (d : Did) (ops : List Nat) : Option Desc :=
  match s.desc? d with
  | some x =>
    if x.st == .running && ops.contains x.opcode && s.serving && (!isUnitOp x.opcode || s.unitFree x.ctx) then some x else none
  | none => none

/-- The scan on check-value unit `n` (R19): a descriptor that may run now. -/
def State.cvuScan (s : State) (n : Nat) : Option Desc :=
  (getAt none s.cvus n).bind (fun d => s.running? d [0x38])

/-- The scan on unit `n` leaves it, its values saved in its descriptor (R443, R444). -/
def State.clearCvu (s : State) (n : Nat) : State := { s with cvus := putAt none s.cvus n none }

/-- A unit taken by a page that is sealed or checked, and free again after it: where none is idle the scan on unit 0 yields
(R443; DESIGN CHOICE, log 57). -/
def State.takeCvu (s : State) : State :=
  if (upTo 4).any (fun n => (s.cvuScan n).isNone) then s else s.clearCvu 0

/-- The scans of a context leave their units at the end of its slice (R444). -/
def State.leaveCvus (s : State) (ctx : Nat) : State :=
  (upTo 4).foldl (fun s n => if (getAt none s.cvus n).any (fun d => (s.sub d.ring).ctx == ctx) then s.clearCvu n else s) s

/-- Kernels of one context start one at a time in dequeue order (R458): no other kernel of the context, and no
TABLE_SWAP (R177), is dequeued earlier and unfinished, and no other kernel runs on its cores. -/
def State.kernelTurn (s : State) (x : Desc) : Bool :=
  !(s.descs.any (fun y => y.ctx == x.ctx && (isKernelOp y.opcode || y.opcode == 0x59) && y.dequeued
      && y.order < x.order))
    && (!((s.kernel x.ctx).live || (s.kernel x.ctx).paused) || (s.kernel x.ctx).d == x.did) && !(s.ctx x.ctx).stopped

/-- Array cycles of a core without a weft row counted (R95, R540): how many is free (log 6). -/
def State.countBubbles (s : State) (c : Nat) : State :=
  let (n, s) := s.draw
  let k := s.core c
  s.setCore c { k with bubbles := k.bubbles + Config.bubbleCycles n }

end Sys2Proof.Machine
end

