-- ==== Sys2Proof/Machine/Sfu.lean ====
section
/-!
DEFINITION. The special function unit: the published tables from exact mathematics, the step sequences of
both modes, activations, micro-programs and the epilogue function (chapters 5 and 19).
-/

namespace Sys2Proof.Machine

/-! ### Exact dyadic numbers and the 24-bit steps (R552) -/

/-- The number n * 2^e. -/
structure Dy where
  n : Int
  e : Int
  deriving DecidableEq, Repr

/-- An integer. -/
def Dy.ofInt (n : Int) : Dy := { n := n, e := 0 }
/-- The numerator of a number at unit 2^g, `g` at most its exponent. -/
def Dy.at (a : Dy) (g : Int) : Int := a.n * 2 ^ (a.e - g).toNat
/-- Exact sum. -/
def Dy.add (a b : Dy) : Dy :=
  let g := min a.e b.e
  { n := a.at g + b.at g, e := g }
/-- Exact product. -/
def Dy.mul (a b : Dy) : Dy := { n := a.n * b.n, e := a.e + b.e }
/-- Negation. -/
def Dy.neg (a : Dy) : Dy := { a with n := -a.n }
/-- Scaled by 2^k. -/
def Dy.scale (a : Dy) (k : Int) : Dy := { a with e := a.e + k }
/-- Equal values. -/
def Dy.eqv (a b : Dy) : Bool := (a.add b.neg).n == 0
/-- a < b. -/
def Dy.lt (a b : Dy) : Bool := (a.add b.neg).n < 0
/-- The largest integer not above. -/
def Dy.floor (a : Dy) : Int := if 0 ≤ a.e then a.n * 2 ^ a.e.toNat else a.n / 2 ^ (-a.e).toNat
/-- Rounded RNE to `p` significant bits, any exponent: sN of R554. -/
def Dy.sig (p : Nat) (a : Dy) : Dy :=
  if a.n = 0 then a
  else
    let (q, g, _) := roundFree .rne (a.n < 0) p a.n.natAbs a.e
    { n := if a.n < 0 then -(q : Int) else q, e := g }
/-- A step result: 24 bits (R552). -/
def Dy.r24 (a : Dy) : Dy := a.sig 24
/-- MUL step. -/
def mul24 (a b : Dy) : Dy := (a.mul b).r24
/-- ADD step. -/
def add24 (a b : Dy) : Dy := (a.add b).r24
/-- FMA step. -/
def fma24 (a b c : Dy) : Dy := ((a.mul b).add c).r24
/-- The finite FP32 pattern's value. -/
def dyOfF32 (c : Nat) : Dy :=
  match f32Value c with
  | .fin n m e => { n := if n then -(m : Int) else m, e := e }
  | _ => { n := 0, e := 0 }
/-- One. -/
def dyOne : Dy := { n := 1, e := 0 }

/-! ### Exact mathematics in fixed point (R554)

Values are integers in units of 2^-320; each series runs until its terms vanish there. -/

/-- Fraction bits. -/
def fxBits : Nat := 320
/-- One. -/
def fxOne : Int := 2 ^ 320
/-- Product. -/
def fxMul (a b : Int) : Int := a * b / fxOne
/-- Quotient. -/
def fxDiv (a b : Int) : Int := a * fxOne / b
/-- A dyadic number of at most 320 fraction bits. -/
def fxOf (a : Dy) : Int := a.at (-320)
/-- A fixed-point value as a dyadic number. -/
def dyOfFx (a : Int) : Dy := { n := a, e := -320 }

/-- Σ of the terms of e^x from term `k` on. -/
def expTerms (x : Int) : Nat → Nat → Int → Int → Int
  | 0, _, _, acc => acc
  | n + 1, k, t, acc =>
    let t := fxMul t x / (k : Int)
    expTerms x n (k + 1) t (acc + t)

/-- e^x for |x| at most 16. -/
def fxExp (x : Int) : Int :=
  let y := expTerms (x / 32) 80 1 fxOne fxOne
  let y := fxMul y y
  let y := fxMul y y
  let y := fxMul y y
  let y := fxMul y y
  fxMul y y

/-- Σ ± t^(2k+1)/(2k+1): atanh for `alt` false, atan for `alt` true. -/
def atanTerms (alt : Bool) (t2 : Int) : Nat → Nat → Int → Int → Int
  | 0, _, _, acc => acc
  | n + 1, k, p, acc =>
    let p := fxMul p t2
    let q := p / (2 * (k : Int) + 1)
    atanTerms alt t2 n (k + 1) p (if alt && k % 2 == 1 then acc - q else acc + q)

/-- atanh t, |t| at most 1/3. -/
def fxAtanh (t : Int) : Int := atanTerms false (fxMul t t) 110 1 t t
/-- atan t, |t| at most 1/5. -/
def fxAtan (t : Int) : Int := atanTerms true (fxMul t t) 80 1 t t
/-- ln x, x in [1, 2]. -/
def fxLn (x : Int) : Int := 2 * fxAtanh (fxDiv (x - fxOne) (x + fxOne))
/-- ln 2. -/
def fxLn2 : Int := 2 * fxAtanh (fxOne / 3)
/-- log₂ x, x in [1, 2]. -/
def fxLog2 (x : Int) : Int := fxDiv (fxLn x) fxLn2
/-- 2^x, x in [0, 1]. -/
def fxExp2 (x : Int) : Int := fxExp (fxMul x fxLn2)
/-- π (Machin). -/
def fxPi : Int := 16 * fxAtan (fxOne / 5) - 4 * fxAtan (fxOne / 239)

/-- Σ of the terms ± x^k/k! by steps of two from term `k`: sin (start x, k = 2) and cos (start 1, k = 1). -/
def trigTerms (x2 : Int) : Nat → Nat → Int → Int → Int
  | 0, _, _, acc => acc
  | n + 1, k, t, acc =>
    let t := -(fxMul t x2 / ((k : Int) * (k + 1)))
    trigTerms x2 n (k + 2) t (acc + t)

/-- sin x in radians, x in [0, 2]. -/
def fxSin (x : Int) : Int := trigTerms (fxMul x x) 50 2 x x
/-- cos x in radians. -/
def fxCos (x : Int) : Int := trigTerms (fxMul x x) 50 1 fxOne fxOne
/-- tanh x, x in [0, 8]. -/
def fxTanh (x : Int) : Int :=
  let y := fxExp (2 * x)
  fxDiv (y - fxOne) (y + fxOne)

/-- Newton steps for a square root. -/
def isqrtSteps (v : Nat) : Nat → Nat → Nat
  | 0, x => x
  | n + 1, x => isqrtSteps v n ((x + v / x) / 2)

/-- The integer square root. -/
def isqrt (v : Nat) : Nat :=
  if v = 0 then 0
  else
    let r := isqrtSteps v 16 (2 ^ (bitLen v / 2 + 1))
    if r * r ≤ v then r else r - 1

/-- √x. -/
def fxSqrt (x : Int) : Int := isqrt (x.toNat * 2 ^ 320)
/-- 1/x. -/
def fxRecip (x : Int) : Int := fxDiv fxOne x
/-- x^(−½). -/
def fxRsq (x : Int) : Int := isqrt (2 ^ 960 / x.toNat)

/-- Σ of (−1)^n x^(2n+1)/(n! (2n+1)) from term `k`. -/
def erfTerms (x2 : Int) : Nat → Nat → Int → Int → Int
  | 0, _, _, acc => acc
  | n + 1, k, t, acc =>
    let t := -(fxMul t x2 / (k : Int))
    erfTerms x2 n (k + 1) t (acc + t / (2 * (k : Int) + 1))

/-- 2/√π. -/
def fxTwoRootPi : Int := fxDiv (2 * fxOne) (fxSqrt fxPi)
/-- erf x, x in [0, 4]. -/
def fxErf (x : Int) : Int := fxMul fxTwoRootPi (erfTerms (fxMul x x) 180 1 x x)

/-- hi of a fixed-point value (R554). -/
def fxHi (v : Int) : Dy := (dyOfFx v).r24
/-- sN of a fixed-point value (R554). -/
def fxSig (p : Nat) (v : Int) : Dy := (dyOfFx v).sig p
/-- lo of a fixed-point value (R554): zero where the value is exact (its distance from hi lies far below any
difference of the defined values). -/
def fxLo (v : Int) : Dy :=
  let r := (dyOfFx v).add (fxHi v).neg
  if r.at (-320) < 2 ^ 120 && -(2 ^ 120) < r.at (-320) then { n := 0, e := 0 } else r.sig 12

/-! ### Constants (R555) -/

/-- The fixed-point value n/d. -/
def fxRat (n d : Int) : Int := n * fxOne / d
/-- K1, K2, K3. -/
def cK1 : Dy := fxHi fxLn2
/-- (ln 2)²/2. -/
def cK2 : Dy := fxHi (fxMul fxLn2 fxLn2 / 2)
/-- (ln 2)³/6. -/
def cK3 : Dy := fxHi (fxMul fxLn2 (fxMul fxLn2 fxLn2) / 6)
/-- 1/ln 2. -/
def cP1 : Dy := fxHi (fxRecip fxLn2)
/-- −1/(2 ln 2). -/
def cP2 : Dy := fxHi (-(fxRecip fxLn2 / 2))
/-- 1/(3 ln 2). -/
def cP3 : Dy := fxHi (fxRecip fxLn2 / 3)
/-- −1/(4 ln 2). -/
def cP4 : Dy := fxHi (-(fxRecip fxLn2 / 4))
/-- 2π. -/
def cS1 : Dy := fxHi (2 * fxPi)
/-- −(2π)³/6. -/
def cS3 : Dy := fxHi (-(fxMul (2 * fxPi) (fxMul (2 * fxPi) (2 * fxPi)) / 6))
/-- −(2π)²/2. -/
def cC2 : Dy := fxHi (-(fxMul (2 * fxPi) (2 * fxPi) / 2))
/-- (2π)⁴/24. -/
def cC4 : Dy :=
  let q := fxMul (2 * fxPi) (2 * fxPi)
  fxHi (fxMul q q / 24)
/-- −1/3. -/
def cT3 : Dy := fxHi (fxRat (-1) 3)
/-- 2/15. -/
def cT5 : Dy := fxHi (fxRat 2 15)

/-! ### Seed tables (R555) -/

/-- The midpoint (2i + 1) * 2^k, offset by `base`. -/
def midpoint (base : Int) (i : Nat) (k : Int) (mulBy : Int) : Dy :=
  (Dy.ofInt base).add { n := mulBy * (2 * (i : Int) + 1), e := k }

/-- RCP: Y. -/
def seedRcp (i : Nat) : Dy := fxSig 12 (fxRecip (fxOf (midpoint 1 i (-8) 1)))
/-- RSQ: Y. -/
def seedRsq (i : Nat) : Dy := fxSig 12 (fxRsq (fxOf (midpoint 1 i (-8) 3)))
/-- EXP2: H and L. -/
def seedExp2 (i : Nat) : Dy × Dy :=
  let v := fxExp2 (fxOf (midpoint 0 i (-8) 1))
  (fxHi v, fxLo v)
/-- LOG2: G, H and L. -/
def seedLog2 (i : Nat) : Dy × Dy × Dy :=
  let g := fxSig 10 (fxRecip (fxOf (midpoint 1 i (-8) 1)))
  -- −log₂ G = log₂ (2 G) shifted by one, and G lies in [1/2, 1)
  let v := fxOne - fxLog2 (fxOf (g.scale 1))
  (g, fxHi v, fxLo v)
/-- SINT and COST: SH, SL, CH and CL. -/
def seedTrig (i : Nat) : Dy × Dy × Dy × Dy :=
  let x := fxMul (2 * fxPi) (fxOf (midpoint 0 i (-10) 1))
  let s := fxSin x
  let c := fxCos x
  (fxHi s, fxLo s, fxHi c, fxLo c)
/-- TANH: H, L and K. -/
def seedTanh (i : Nat) : Dy × Dy × Dy :=
  let t := fxTanh (fxOf (midpoint 0 i (-5) 1))
  (fxHi t, fxLo t, fxSig 12 (fxOne - fxMul t t))
/-- ERF: H, L, D, Q2 and Q3. -/
def seedErf (i : Nat) : Dy × Dy × Dy × Dy × Dy :=
  let m := fxOf (midpoint 0 i (-6) 1)
  let v := fxErf m
  let m2 := fxMul m m
  let d := fxMul fxTwoRootPi (fxDiv fxOne (fxExp m2))
  (fxHi v, fxLo v, fxHi d, fxSig 12 ((2 * m2 - fxOne) / 3), fxSig 12 ((3 * m - 2 * fxMul m m2) / 6))

/-! ### Segment tables (R559) -/

/-- The stored functions of table mode (R560), on fixed-point x. -/
def segFn (code : Nat) (x : Int) : Int :=
  match code with
  | 0x10 | 0x19 => fxRecip x
  | 0x11 | 0x12 => fxRsq x
  | 0x13 => fxExp2 x
  | 0x14 => fxLog2 x
  | 0x15 | 0x16 => fxSin (fxMul (2 * fxPi) x)
  | 0x17 => if x = 0 then fxOne else fxDiv (fxTanh x) x
  | _ => if x = 0 then fxTwoRootPi else fxDiv (fxErf x) x

/-- x₀ and w of a function's segments (R560): w is wn * 2^we. -/
def segGrid : Nat → Int × Int × Int
  | 0x10 | 0x19 => (1, 1, -8)
  | 0x11 | 0x12 => (1, 3, -8)
  | 0x13 => (0, 1, -8)
  | 0x14 => (1, 1, -8)
  | 0x15 | 0x16 => (0, 1, -10)
  | 0x17 => (0, 1, -5)
  | _ => (0, 1, -6)

/-- x_j. -/
def segStart (code j : Nat) : Dy :=
  let (x0, wn, we) := segGrid code
  (Dy.ofInt x0).add { n := wn * (j : Int), e := we }

/-- C0, C0L, C1 and C2 of a segment. -/
def segEntry (code j : Nat) : Dy × Dy × Dy × Dy :=
  let (_, wn, we) := segGrid code
  let x := segStart code j
  let half : Dy := { n := wn, e := we - 1 }
  let f0 := segFn code (fxOf x)
  let fh := segFn code (fxOf (x.add half))
  let f1 := segFn code (fxOf (x.add (half.scale 1)))
  let k : Int := 2 ^ (-we).toNat
  (fxHi f0, fxLo f0, fxHi ((-3 * f0 + 4 * fh - f1) * k / wn),
   fxSig 12 ((2 * f0 - 4 * fh + 2 * f1) * (k * k) / (wn * wn)))

/-- C0 and p of the evaluation at reduced `x` in segment `j`; φ̂ is their ADD. -/
def segEval (code j : Nat) (x : Dy) : Dy × Dy :=
  let (c0, c0l, c1, c2) := segEntry code j
  let v := x.add (segStart code j).neg
  let p := fma24 v c2 c1
  (c0, fma24 v p c0l)

/-! ### The F step (R552, R553, R140) -/

/-- The F step: one rounding under FRND. `exact` tells whether a result is the exact function value; UNF and
OVF are judged on the step's own value. -/
def fStep (mode : Rounding) (v : Dy) (exact : Dy → Bool) : Nat × FlagSet :=
  if v.n = 0 then
    -- an exact zero sum: its sign is IEEE's, and it is tiny (R140)
    (if mode = .rdn then 0x80000000 else 0, if exact v then 0 else flagInx ||| flagUnf)
  else
    let neg := v.n < 0
    let (q, g, _, o) := roundFmt fp32 mode neg v.n.natAbs v.e
    if o then
      (signCode 32 neg (if overflowToInf mode neg then 0x7F800000 else 0x7F7FFFFF), flagOvf ||| flagInx)
    else
      let fl : FlagSet :=
        if exact { n := if neg then -(q : Int) else q, e := g } then 0
        else if tinyIn fp32 mode neg v.n.natAbs v.e then flagInx ||| flagUnf
        else flagInx
      (signCode 32 neg (magCode fp32 q g), fl)

/-- A result whose exact value is irrational. -/
def neverExact (_ : Dy) : Bool := false

/-- `m * 2^e` as x * 2^k with x in [1, 2). -/
def splitMag (m : Nat) (e : Int) : Dy × Int :=
  let k : Int := (bitLen m : Int) - 1 + e
  ({ n := m, e := e - k }, k)

/-- `v` with a sign. -/
def signDy (neg : Bool) (v : Dy) : Dy := if neg then v.neg else v

/-! ### Reciprocal and division (R556, R560) -/

/-- RCP up to its last two steps: y. -/
def rcpY (tm : Bool) (x : Dy) : Dy :=
  if tm then
    let (c0, p) := segEval 0x10 ((x.add (Dy.ofInt (-1))).scale 8).floor.toNat x
    add24 c0 p
  else
    let y := seedRcp ((x.add (Dy.ofInt (-1))).scale 7).floor.toNat
    let y := fma24 y (fma24 x.neg y dyOne) y
    fma24 y (fma24 x.neg y dyOne) y

/-- RCP's F step before rounding. -/
def rcpF (tm : Bool) (x : Dy) : Dy :=
  let y := rcpY tm x
  (y.mul (fma24 x.neg y dyOne)).add y

/-- RCP of a finite nonzero magnitude. -/
def rcpMag (tm : Bool) (mode : Rounding) (neg : Bool) (m : Nat) (e : Int) : Nat × FlagSet :=
  let (x, k) := splitMag m e
  let a : Dy := { n := m, e := e }
  fStep mode (signDy neg ((rcpF tm x).scale (-k))) (fun r => (a.mul (signDy neg r)).eqv dyOne)

/-- DIV of finite nonzero magnitudes. -/
def divMags (tm : Bool) (mode : Rounding) (neg : Bool) (ma : Nat) (ea : Int) (mb : Nat) (eb : Int) :
    Nat × FlagSet :=
  let (xa, ka) := splitMag ma ea
  let (xb, kb) := splitMag mb eb
  let y := (rcpF tm xb).r24
  let q := mul24 xa y
  let r := fma24 xb.neg q xa
  fStep mode (signDy neg (((r.mul y).add q).scale (ka - kb)))
    (fun z => ((signDy neg z).mul { n := mb, e := eb }).eqv { n := ma, e := ea })

/-- DIV (R145, R556). -/
def sfuDiv (tm : Bool) (mode : Rounding) (a b : Nat) : Nat × FlagSet :=
  match f32Value a, f32Value b with
  | .fin n₁ m₁ e₁, .fin n₂ m₂ e₂ =>
    if m₁ = 0 || m₂ = 0 then divF mode a b else divMags tm mode (n₁ != n₂) m₁ e₁ m₂ e₂
  | _, _ => divF mode a b

/-! ### Square roots (R556, R560) -/

/-- |a| = x * 2^(2k), x in [1, 4). -/
def splitSq (m : Nat) (e : Int) : Dy × Int :=
  let k := ((bitLen m : Int) - 1 + e) / 2
  ({ n := m, e := e - 2 * k }, k)

/-- A round of RSQ. -/
def rsqRound (x y : Dy) : Dy × Dy × Dy :=
  let t := mul24 x y
  let e := fma24 t.neg y dyOne
  (mul24 { n := 1, e := -1 } y, e, y)

/-- y before the last round: two rounds on the seed, or φ̂ of the segment. -/
def rsqY (tm : Bool) (code : Nat) (x : Dy) : Dy :=
  let num := x.add (Dy.ofInt (-1))
  if tm then
    let (c0, p) := segEval code ((num.scale 8).floor / 3).toNat x
    add24 c0 p
  else
    let y := seedRsq ((num.scale 7).floor / 3).toNat
    let (h, e, y) := rsqRound x y
    let y := fma24 h e y
    let (h, e, y) := rsqRound x y
    fma24 h e y

/-- RSQ of a positive finite magnitude. -/
def rsqMag (tm : Bool) (mode : Rounding) (m : Nat) (e : Int) : Nat × FlagSet :=
  let (x, k) := splitSq m e
  let (h, ee, y) := rsqRound x (rsqY tm 0x11 x)
  fStep mode (((h.mul ee).add y).scale (-k)) (fun r => ((r.mul r).mul { n := m, e := e }).eqv dyOne)

/-- SQRT of a positive finite magnitude. -/
def sqrtMag (tm : Bool) (mode : Rounding) (m : Nat) (e : Int) : Nat × FlagSet :=
  let (x, k) := splitSq m e
  let y := rsqY tm 0x12 x
  let g := mul24 x y
  let h := mul24 { n := 1, e := -1 } y
  let r := fma24 g.neg g x
  let g := fma24 h r g
  let r := fma24 g.neg g x
  fStep mode (((h.mul r).add g).scale k) (fun z => (z.mul z).eqv { n := m, e := e })

/-! ### EXP2 and LOG2 -/

/-- The EXP2 sequence on a non-integer or integer argument, its F value unrounded, and whether it is an
exact case (R555 to R558, R560). -/
def exp2Core (tm : Bool) (a : Dy) : Dy × Bool :=
  let n := a.floor
  let x := a.add (Dy.ofInt (-n))
  if x.n = 0 then ({ n := 1, e := n }, true)
  else if tm then
    let (c0, p) := segEval 0x13 (x.scale 8).floor.toNat x
    ((c0.add p).scale n, false)
  else
    let i := (x.scale 7).floor.toNat
    let (h, l) := seedExp2 i
    let u := x.add (midpoint 0 i (-8) 1).neg
    let q := mul24 u (fma24 u (fma24 u cK3 cK2) cK1)
    let s := fma24 h q l
    ((h.add s).scale n, false)

/-- EXP2 of a finite argument that the flush does not take (R150, R557). -/
def exp2Fin (tm : Bool) (mode : Rounding) (a : Dy) : Nat × FlagSet :=
  if !(a.lt (Dy.ofInt 128)) then
    (if overflowToInf mode false then 0x7F800000 else 0x7F7FFFFF, flagOvf ||| flagInx)
  else
    let (v, ex) := exp2Core tm a
    fStep mode v (fun r => ex && r.eqv v)

/-- LOG2 of a positive finite magnitude. -/
def log2Mag (tm : Bool) (mode : Rounding) (m : Nat) (e : Int) : Nat × FlagSet :=
  let (x, k) := splitMag m e
  if x.eqv dyOne then finToF32 .rne (k < 0) k.natAbs 0
  else if tm then
    let (c0, p) := segEval 0x14 ((x.add (Dy.ofInt (-1))).scale 8).floor.toNat x
    let h := add24 (Dy.ofInt k) c0
    fStep mode (h.add p) neverExact
  else
    let (g, hh, l) := seedLog2 ((x.add (Dy.ofInt (-1))).scale 7).floor.toNat
    let r := fma24 x g (Dy.ofInt (-1))
    let p := mul24 r (fma24 r (fma24 r (fma24 r cP4 cP3) cP2) cP1)
    let v := add24 l p
    let h := add24 (Dy.ofInt k) hh
    fStep mode (h.add v) neverExact

/-! ### SINT and COST -/

/-- The reduced angle's sine or cosine before the F step (R556, R560). -/
def trigCore (tm useSin : Bool) (t : Dy) : Dy :=
  if tm then
    let y := if useSin then t else add24 { n := 1, e := -2 } t.neg
    let j := min (y.scale 10).floor.toNat 255
    let (c0, p) := segEval 0x15 j y
    c0.add p
  else
    let i := (t.scale 9).floor.toNat
    let (sh, sl, ch, cl) := seedTrig i
    let u := t.add (midpoint 0 i (-10) 1).neg
    let w := mul24 u u
    let sp := mul24 u (fma24 w cS3 cS1)
    let cm := mul24 w (fma24 w cC4 cC2)
    if useSin then
      let v := fma24 sh cm sl
      let v := fma24 ch sp v
      sh.add v
    else
      let v := fma24 ch cm cl
      let v := fma24 sh.neg sp v
      ch.add v

/-- SINT (`isSin`) or COST of a finite value (R144, R555, R557). -/
def trigFin (tm isSin : Bool) (mode : Rounding) (neg : Bool) (m : Nat) (e : Int) : Nat × FlagSet :=
  let a : Dy := { n := m, e := e }
  let g := a.add (Dy.ofInt (-a.floor))
  let q := (g.scale 2).floor.toNat
  let t := ((g.scale 2).add (Dy.ofInt (-(q : Int)))).scale (-2)
  let useSin := if isSin then q % 2 == 0 else q % 2 == 1
  let flip := if isSin then 2 ≤ q else q == 1 || q == 2
  let sneg := if isSin then flip != neg else flip
  if t.n = 0 then
    (if useSin then (if isSin then signCode 32 neg 0 else 0) else signCode 32 sneg 0x3F800000, 0)
  else fStep mode (signDy sneg (trigCore tm useSin t)) neverExact

/-! ### TANH and ERF -/

/-- TANH of a finite nonzero magnitude (R556, R557, R560); the inner EXP2 runs in TANH's own mode (DESIGN CHOICE,
log 63). -/
def tanhMag (tm : Bool) (mode : Rounding) (neg : Bool) (m : Nat) (e : Int) : Nat × FlagSet :=
  let x : Dy := { n := m, e := e }
  if x.lt { n := 1, e := -12 } then ((fStep mode (signDy neg x) neverExact).1, flagInx)
  else if !(x.lt { n := 19, e := -1 }) then (signCode 32 neg 0x3F800000, flagInx)
  else if !(x.lt (Dy.ofInt 8)) then
    let (v, _) := exp2Core tm (mul24 x (dyOfF32 0xC038AA3B))
    fStep mode (signDy neg (((Dy.ofInt (-2)).mul v.r24).add dyOne)) neverExact
  else if tm then
    let (c0, p) := segEval 0x17 (x.scale 5).floor.toNat x
    fStep mode (signDy neg (x.mul (add24 c0 p))) neverExact
  else
    let i := (x.scale 4).floor.toNat
    let (h, l, k0) := seedTanh i
    let u := x.add (midpoint 0 i (-5) 1).neg
    let s := mul24 u u
    let tau := mul24 u (fma24 s (fma24 s cT5 cT3) dyOne)
    let z := mul24 h tau
    let w := fma24 z.neg dyOne dyOne
    let w := fma24 z.neg w dyOne
    let w := fma24 z.neg w dyOne
    let w := fma24 z.neg w dyOne
    let k := mul24 tau k0
    let v := fma24 k w l
    fStep mode (signDy neg (h.add v)) neverExact

/-- ERF of a finite nonzero magnitude (R556, R557, R560). -/
def erfMag (tm : Bool) (mode : Rounding) (neg : Bool) (m : Nat) (e : Int) : Nat × FlagSet :=
  let x : Dy := { n := m, e := e }
  if x.lt { n := 1, e := -12 } then fStep mode (signDy neg (x.mul (fxHi fxTwoRootPi))) neverExact
  else if !(x.lt (Dy.ofInt 4)) then (signCode 32 neg 0x3F800000, flagInx)
  else if tm then
    let (c0, p) := segEval 0x18 (x.scale 6).floor.toNat x
    fStep mode (signDy neg (x.mul (add24 c0 p))) neverExact
  else
    let i := (x.scale 5).floor.toNat
    let (h, l, d, q2, q3) := seedErf i
    let mi := midpoint 0 i (-6) 1
    let u := x.add mi.neg
    let p := mul24 u (fma24 u (fma24 u (fma24 u q3 q2) mi.neg) dyOne)
    let v := fma24 d p l
    fStep mode (signDy neg (h.add v)) neverExact

/-! ### Built-in functions (R142, R145, R150) -/

/-- The special inputs of R145 for the functions of one operand: `z` and `i` say zero or infinity. -/
def specialOf (code : Nat) (isInf neg : Bool) : Nat × FlagSet :=
  let inf := signCode 32 neg 0x7F800000
  let nil := signCode 32 neg 0
  match code with
  | 0x10 => (if isInf then nil else inf, 0)
  | 0x11 => if isInf then (if neg then (0x7FC00000, flagInv) else (0, 0)) else (inf, 0)
  | 0x12 => if isInf && neg then (0x7FC00000, flagInv) else (if isInf then inf else nil, 0)
  | 0x13 => (if isInf then (if neg then 0 else inf) else 0x3F800000, 0)
  | 0x14 => if isInf then (if neg then (0x7FC00000, flagInv) else (inf, 0)) else (0xFF800000, 0)
  | 0x15 => if isInf then (0x7FC00000, flagInv) else (nil, 0)
  | 0x16 => if isInf then (0x7FC00000, flagInv) else (0x3F800000, 0)
  | _ => (if isInf then signCode 32 neg 0x3F800000 else nil, 0)

/-- A built-in function of one operand in normal service or table mode, with the flush magnitude T (R150). -/
def builtin1 (tm : Bool) (mode : Rounding) (flush code a : Nat) : Nat × FlagSet :=
  match f32Value a with
  | .nan s => (0x7FC00000, if s then flagInv else 0)
  | .inf neg => specialOf code true neg
  | .fin neg m e =>
    if m = 0 then specialOf code false neg
    else match code with
      | 0x10 => rcpMag tm mode neg m e
      | 0x11 => if neg then (0x7FC00000, flagInv) else rsqMag tm mode m e
      | 0x12 => if neg then (0x7FC00000, flagInv) else sqrtMag tm mode m e
      | 0x13 =>
        if neg && (Dy.ofInt flush).lt { n := m, e := e } then (0, 0)
        else exp2Fin tm mode (signDy neg { n := m, e := e })
      | 0x14 => if neg then (0x7FC00000, flagInv) else log2Mag tm mode m e
      | 0x15 => trigFin tm true mode neg m e
      | 0x16 => trigFin tm false mode neg m e
      | 0x17 => tanhMag tm mode neg m e
      | _ => erfMag tm mode neg m e

/-- How a core evaluates: FRND, the function codes it evaluates in table mode (R147), and T (R150). -/
structure SfuEnv where
  frnd : Nat
  table : List Nat
  flush : Nat
  deriving DecidableEq, Repr

/-- The rounding of an environment. -/
def SfuEnv.mode (v : SfuEnv) : Rounding := frndOf v.frnd

/-- A built-in function by code. -/
def builtin (v : SfuEnv) (code a b : Nat) : Nat × FlagSet :=
  let tm := v.table.contains code
  if code = 0x19 then sfuDiv tm v.mode a b else builtin1 tm v.mode v.flush code a

/-- The codes of the built-in functions (R142). -/
def builtinCodes : List Nat := [0x10, 0x11, 0x12, 0x13, 0x14, 0x15, 0x16, 0x17, 0x18, 0x19]

/-! ### The SFU control word (R141) -/

/-- ACT of a control word. -/
def ctlAct (w : Nat) : Nat := bitsOf w 8 7
/-- T of a control word (R150). -/
def ctlFlush (w : Nat) : Nat := if bitsOf w 16 8 = 0 then 64 else bitsOf w 16 8
/-- The environment of a control word where a core's `recovering` functions use table mode (R147). -/
def envOf (w : Nat) (recovering : List Nat) : SfuEnv :=
  { frnd := bitsOf w 0 3, table := if bitOf w 3 then builtinCodes else recovering, flush := ctlFlush w }
/-- What R141 asks of a control word at byte `off`; `plain` asks BIASV, SCALE_EN and SCALEV to be 0 and
`slotOk` says which micro-program slots are assigned (R161). -/
def sfuCtlChecks (off w : Nat) (plain : Bool) (slotOk : Nat → Bool) : List (Nat × Bool) :=
  let act := ctlAct w
  let fl := bitsOf w 16 8
  [(off, bitsOf w 0 3 ≤ 4), (off, !plain || bitsOf w 5 3 == 0), (off, bitOf w 6 || !bitOf w 7),
   (off + 1, act ≤ 8 || (0x40 ≤ act && slotOk (act - 0x40))), (off + 1, !bitOf w 15),
   (off + 2, fl == 0 || (16 ≤ fl && fl ≤ 149)), (off + 3, bitsOf w 24 8 == 0)]

/-! ### Activations (R156) and micro-programs (R163, R164) -/

/-- A value with the flags raised on the way to it. -/
abbrev Flagged := Nat × FlagSet

/-- Chain of operations: the flags accumulate. -/
def andThen (x : Flagged) (f : Nat → Flagged) : Flagged :=
  let y := f x.1
  (y.1, x.2 ||| y.2)

/-- ReLU (R156). -/
def relu (u : Nat) : Flagged :=
  let v := f32Value u
  if v.isNan then (0x7FC00000, snanFlag v) else (if gtZero u then u else 0, 0)

/-- The sigmoid's steps: RCP(EXP2(u × −log₂e) + 1). -/
def sigmoid (v : SfuEnv) (u : Nat) : Flagged :=
  andThen (andThen (andThen (mulF v.mode u 0xBFB8AA3B) (fun a => builtin v 0x13 a 0))
    (fun e => addF v.mode e 0x3F800000)) (fun d => builtin v 0x10 d 0)

/-- (x + 1) × u × 0.5: the end of both GELU forms. -/
def geluTail (v : SfuEnv) (u : Nat) (x : Flagged) : Flagged :=
  andThen (andThen (andThen x (fun e => addF v.mode e 0x3F800000)) (fun b => mulF v.mode u b))
    (fun c => mulF v.mode c 0x3F000000)

/-- The built-in activations 0x00 to 0x08 (R156). -/
def activation (v : SfuEnv) (act u : Nat) : Flagged :=
  match act with
  | 0x00 => (u, 0)
  | 0x01 => relu u
  | 0x02 => geluTail v u (andThen (mulF v.mode u 0x3F3504F3) (fun a => builtin v 0x18 a 0))
  | 0x03 =>
    let s := mulF v.mode u u
    let p := andThen s (fun s => mulF v.mode s 0x3D372713)
    let q := andThen p (fun p => addF v.mode p 0x3F800000)
    let w := andThen q (fun q => mulF v.mode u q)
    let a := andThen w (fun w => mulF v.mode w 0x3F4C422A)
    geluTail v u (andThen a (fun a => builtin v 0x17 a 0))
  | 0x04 => andThen (sigmoid v u) (fun r => mulF v.mode u r)
  | 0x05 => sigmoid v u
  | 0x06 => builtin v 0x17 u 0
  | 0x07 => builtin v 0x13 u 0
  | _ => andThen (mulF v.mode u 0x3FB8AA3B) (fun a => builtin v 0x13 a 0)

/-- The result of one micro-program step on its operands (R163). ABS and NEG raise nothing, as the IEEE 754 operations do
(R140); the comparison of SEL is the quiet one (DESIGN CHOICE, log 55). -/
def microOp (v : SfuEnv) (op a b c : Nat) : Flagged :=
  match op with
  | 0x01 => addF v.mode a b
  | 0x02 => subF v.mode a b
  | 0x03 => mulF v.mode a b
  | 0x04 => fmaF v.mode a b c
  | 0x05 => minF a b
  | 0x06 => maxF a b
  | 0x07 => (if (f32Value a).isNan then 0x7FC00000 else a % 2 ^ 31, 0)
  | 0x08 => (negF a, 0)
  | 0x09 => (if gtZero a then b else c, snanFlag (f32Value a))
  | 0x0A => floorF a
  | _ => builtin v op a b

/-- Operand field 0–7 a temporary, 8–15 a constant (R163). -/
def microArg (ts ks : List Nat) (i : Nat) : Nat := if i < 8 then ts.getD i 0 else ks.getD (i - 8) 0

/-- One step on the temporaries. -/
def microStep (v : SfuEnv) (ks : List Nat) (acc : List Nat × FlagSet) (w : Nat) : List Nat × FlagSet :=
  let (ts, fl) := acc
  let r := microOp v (bitsOf w 0 6) (microArg ts ks (bitsOf w 9 4)) (microArg ts ks (bitsOf w 13 4))
    (microArg ts ks (bitsOf w 17 4))
  (ts.set (bitsOf w 6 3) r.1, fl ||| r.2)

/-- The steps of an image. -/
def microWords (img : List Byte) : List Nat :=
  (upTo (byteOf img 160 % 64)).map (fun i => fieldOf img (4 * i) 4)

/-- A micro-program image applied to an element (R164). -/
def microRun (v : SfuEnv) (img : List Byte) (u : Nat) : Flagged :=
  let ks := (upTo 8).map (fun i => fieldOf img (128 + 4 * i) 4)
  let (ts, fl) := (microWords img).foldl (microStep v ks) ([u, 0, 0, 0, 0, 0, 0, 0], 0)
  (ts.getD 0 0, fl)

/-- Operands an op uses (R163). -/
def microArity (op : Nat) : Nat :=
  match op with
  | 0x01 | 0x02 | 0x03 | 0x05 | 0x06 | 0x19 => 2
  | 0x04 | 0x09 => 3
  | _ => 1

/-- A step that R163 allows: a listed code, unused fields and reserved bits 0. -/
def microStepOk (w : Nat) : Bool :=
  let op := bitsOf w 0 6
  ((1 ≤ op && op ≤ 0x0A) || (0x10 ≤ op && op ≤ 0x19)) && bitsOf w 21 11 == 0
    && (2 ≤ microArity op || bitsOf w 13 4 == 0) && (3 ≤ microArity op || bitsOf w 17 4 == 0)

/-- An image that TABLE_LOAD accepts (R162, R164); step words past NSTEPS are not tested (DESIGN CHOICE, log 62). -/
def microImageOk (img : List Byte) : Bool :=
  let n := byteOf img 160
  1 ≤ n && n ≤ 32 && zeroField img 161 95 && (microWords img).all microStepOk

/-! ### The epilogue function (R154, R155) -/

/-- What an epilogue applies: its control word's environment and activation, bias and scale at the column,
and the image of a user activation. -/
structure Epilogue where
  env : SfuEnv
  act : Nat
  bias : Option (List Nat)
  scale : Option (List Nat)
  image : List Byte
  deriving DecidableEq, Repr

/-- ACT of an epilogue on `u`. -/
def Epilogue.actOn (p : Epilogue) (u : Nat) : Flagged :=
  if 0x40 ≤ p.act then microRun p.env p.image u else activation p.env p.act u

/-- v = act(scale · (acc + bias)) at column `col` of an FP32 value (R154). -/
def Epilogue.apply (p : Epilogue) (col acc : Nat) : Flagged :=
  let t : Flagged := match p.bias with
    | none => (acc, 0)
    | some b => addF p.env.mode acc (b.getD (col % max b.length 1) 0)
  let u := match p.scale with
    | none => t
    | some sc => andThen t (fun t => mulF p.env.mode t (sc.getD (col % max sc.length 1) 0))
  andThen u p.actOn

/-- An epilogue with no step (R155). -/
def Epilogue.empty (p : Epilogue) : Bool := p.bias.isNone && p.scale.isNone && p.act == 0

/-- An I32 pattern as FP32 under FRND (R155). -/
def i32ToF32 (mode : Rounding) (c : Nat) : Flagged :=
  valueToF32 mode (decodeCode 0xB c)

end Sys2Proof.Machine
end

