-- ==== Sys2Proof/Machine/Operands.lean ====
section
/-!
DEFINITION. The operand forms that descriptors share: range references, strided rows, scale planes, array
control bytes, epilogue blocks and histogram slots.
-/

namespace Sys2Proof.Machine

/-! ### References of a descriptor (R390) -/

/-- A range reference that a descriptor or one of its blocks holds: the descriptor byte that holds it
(0xFFFF in an indirect block), its value, bytes of the fixed extent from its OFFSET, and the permissions the
access needs. -/
structure RefUse where
  pos : Nat
  ref : Nat
  len : Nat
  rd : Bool
  wr : Bool
  deriving DecidableEq, Repr

/-- A read reference. -/
def useRd (pos ref len : Nat) : RefUse := { pos := pos, ref := ref, len := len, rd := true, wr := false }
/-- A written reference. -/
def useWr (pos ref len : Nat) : RefUse := { pos := pos, ref := ref, len := len, rd := false, wr := true }

/-- An aligned reference: its resolved address lies on a multiple of `n`; BASE and the range's start are
4 KiB aligned, so the OFFSET decides. -/
def refAligned (ref n : Nat) : Bool := refOffset ref % n == 0

/-- The bytes a reference names, through the state's tables as they stand (what fetch reads of a parameter
block, R390). -/
def State.peekRef (s : State) (ref off n : Nat) : List Byte :=
  let e := s.range (refHandle ref)
  let t := transOf (refHandle ref) e
  s.store.read t.tier (t.phys (refOffset ref + off)) n

/-! ### Strided rows -/

/-- Bytes of a row of `n` elements as it stands in memory, its last unit filled (R564). -/
def rowUnits (fmt n : Nat) : Nat := ceilDiv (elemBytes fmt n) 64

/-- The run of row `i` of a tensor with a stride in 64-byte units. -/
def rowRun (ref stride i bytes : Nat) (wr : Bool) : Run :=
  { ref := ref, off := 64 * stride * i, len := bytes, wr := wr }

/-- The runs of rows 0 to `n` − 1. -/
def rowRuns (ref stride n bytes : Nat) (wr : Bool) : List Run :=
  (upTo n).map (fun i => rowRun ref stride i bytes wr)

/-- The extent from a reference's OFFSET that `n` rows touch. -/
def rowsExtent (stride n bytes : Nat) : Nat := if n = 0 then 0 else 64 * stride * (n - 1) + bytes

/-- Rows of more than one that would overlap (R564). -/
def rowsOverlap (stride n fmt elems : Nat) : Bool := 1 < n && stride < rowUnits fmt elems

/-- Scale bytes of a row: one per 32 elements (R49, R50). -/
def scaleBytes (n : Nat) : Nat := ceilDiv n 32

/-- The draw of plane `k` of a descriptor's unplaced scales. -/
def State.scaleDraw (s : State) (k : Nat) : Nat := 16 * s.free + k

/-- The key of a kernel's placement (R126): its parameters and its context's clusters. -/
def State.placeKey (s : State) (ctx : Nat) (params : List Byte) : Nat :=
  256 * leNat params + (s.ctx ctx).clusters.toNat

/-- The scale bytes that no named plane gives (R49; free, log 11), for row `i` of `n` elements. -/
def unplacedScales (draw i n : Nat) : List Byte :=
  (upTo (scaleBytes n)).map (fun j => Config.unplacedScale draw (i * scaleBytes n + j))

/-- Row `i` of the result of a turn: column `i` of the rows (R367). -/
def turned {α : Type} (n : Nat) (rows : List (List α)) : List (List α) :=
  (upTo n).map (fun i => rows.filterMap (fun r => r[i]?))

/-! ### Array control (R88, R89) -/

/-- What R88 asks of an array control byte at byte `off` for operand formats `f` and `g`; an attention
descriptor needs PAIR 0 (R89). -/
def actlChecks (off b f g : Nat) (attention : Bool) : List (Nat × Bool) :=
  let pair := bitsOf b 0 2
  [(off, pair ≤ 2 && (pair == 0 || (widthClass f != 16 && widthClass g != 16)) && (!attention || pair == 0)),
   (off, bitsOf b 4 4 == 0)]

/-! ### Epilogue blocks (R158) -/

/-- The fields of an epilogue block. -/
structure EpiBlock where
  ctl : Nat
  scale : Nat
  vec : Nat
  deriving DecidableEq, Repr

/-- The epilogue block at byte `off` of a block. -/
def epiBlock (bs : List Byte) (off : Nat) : EpiBlock :=
  { ctl := fieldOf bs off 4, scale := fieldOf bs (off + 4) 4, vec := fieldOf bs (off + 8) 8 }

/-- BIASV. -/
def EpiBlock.biasv (b : EpiBlock) : Bool := bitOf b.ctl 5
/-- SCALE_EN. -/
def EpiBlock.scaleEn (b : EpiBlock) : Bool := bitOf b.ctl 6
/-- SCALEV. -/
def EpiBlock.scalev (b : EpiBlock) : Bool := bitOf b.ctl 7

/-- What R141 and R158 ask of an epilogue block at byte `off`. -/
def EpiBlock.checks (b : EpiBlock) (off : Nat) (slotOk : Nat → Bool) : List (Nat × Bool) :=
  sfuCtlChecks off b.ctl false slotOk
    ++ [(off + 4, b.scale == 0 || (b.scaleEn && !b.scalev)),
        (off + 8, refOk b.vec && ((b.vec == 0) == (!b.biasv && !b.scalev)))]

/-- Where the scale vector begins past VEC's OFFSET, for `n` columns: the first 64-byte boundary after the
bias vector (R158). -/
def EpiBlock.scaleOff (b : EpiBlock) (n : Nat) : Nat :=
  if b.biasv then (64 - (refOffset b.vec + 4 * n) % 64) % 64 + 4 * n else 0

/-- The runs of the vectors for `n` columns. -/
def EpiBlock.runs (b : EpiBlock) (n : Nat) : List Run :=
  (if b.biasv then [rdRun b.vec 0 (4 * n)] else [])
    ++ (if b.scalev then [rdRun b.vec (b.scaleOff n) (4 * n)] else [])

/-- Bytes the vectors span. -/
def EpiBlock.extent (b : EpiBlock) (n : Nat) : Nat :=
  if b.scalev then b.scaleOff n + 4 * n else if b.biasv then 4 * n else 0

/-- FP32 patterns of `n` values. -/
def f32List (bs : List Byte) : List Nat := (pieces 4 bs).map leNat

/-- Micro-program slot `slot` of a core. -/
def Core.uprog (k : Core) (slot : Nat) : UProg := getAt UProg.reset k.uprogs slot

/-- The image in a slot's active bank (R174). -/
def UProg.image (u : UProg) : List Byte := if u.active then u.bank1 else u.bank0

/-- The cores of a context's clusters. -/
def State.ctxCores (s : State) (ctx : Nat) : List Nat := coresOf (s.ctx ctx).clusters

/-- A slot assigned to a context on each of its cores (R161). -/
def State.slotAssigned (s : State) (ctx slot : Nat) : Bool :=
  !(s.ctxCores ctx).isEmpty && (s.ctxCores ctx).all (fun c => ((s.core c).uprog slot).ctx == some ctx)

/-- The image a context's ACT code selects (log 8: the lowest core the slot is assigned on). -/
def State.actImage (s : State) (ctx act : Nat) : List Byte :=
  match (s.ctxCores ctx).find? (fun c => ((s.core c).uprog (act - 0x40)).ctx == some ctx) with
  | some c => ((s.core c).uprog (act - 0x40)).image
  | none => []

/-- A built-in function's state on a core (R147). -/
def Core.seedTab (k : Core) (code : Nat) : SeedTab := getAt SeedTab.reset k.seeds code

/-- The functions in recovery on a core. -/
def Core.recovering (k : Core) : List Nat := builtinCodes.filter (fun f => (k.seedTab f).recovery)

/-- The functions that a descriptor of a context evaluates in table mode because of recovery: all of its
cores recover, or some do and the work met one of them (free, log 8). -/
def State.recovering (s : State) (ctx : Nat) : List Nat :=
  builtinCodes.filter (fun f =>
    let cs := s.ctxCores ctx
    let hit := cs.filter (fun c => (s.core c).recovering.contains f)
    hit.length != 0 && (hit.length == cs.length || Config.coreShare s.free (0x40 + f)))

/-- The built-in functions an activation or micro-program uses. -/
def actUses (act : Nat) (img : List Byte) : List Nat :=
  match act with
  | 0x02 => [0x18]
  | 0x03 | 0x06 => [0x17]
  | 0x04 | 0x05 => [0x13, 0x10]
  | 0x07 | 0x08 => [0x13]
  | a => if 0x40 ≤ a then ((microWords img).map (fun w => bitsOf w 0 6)).filter builtinCodes.contains else []

/-- ECC_RETRIED where a descriptor used a function in recovery, in table mode of its own or not (R148, R149), else OK. -/
def recoveryStatus (recovering uses : List Nat) : Nat := if uses.any recovering.contains then 0x31 else 0

/-- The epilogue of a block for `n` columns, its vectors read through the descriptor's translations. -/
def State.epilogue (s : State) (m : Store) (x : Desc) (b : EpiBlock) (n : Nat) : Epilogue :=
  let act := ctlAct b.ctl
  { env := envOf b.ctl (s.recovering x.ctx), act := act,
    bias := if b.biasv then some (f32List (s.fetchRun m x (rdRun b.vec 0 (4 * n)))) else none,
    scale :=
      if b.scalev then some (f32List (s.fetchRun m x (rdRun b.vec (b.scaleOff n) (4 * n))))
      else if b.scaleEn then some [b.scale] else none,
    image := s.actImage x.ctx act }

/-- A list of values each mapped with flags: the results and the OR of the flags. -/
def mapFlags {α β : Type} (f : α → β × FlagSet) (l : List α) : List β × FlagSet :=
  let r := l.map f
  (r.map Prod.fst, orFlags (r.map Prod.snd))

/-- The supplied scales of a store under DST_SCALE = 2, which no field names (log 11). -/
def ConvWord.supplied (c : ConvWord) (draw y n : Nat) : List Byte :=
  if c.dscale = 2 then unplacedScales draw y n else []

/-- Part of an output row from accumulators (FP32 or I32 patterns) through the epilogue and the store conversion
(R154, R155): what is stored and the SFU-path flags. -/
def Epilogue.outPart (p : Epilogue) (ints : Bool) (c : ConvWord) (iovf : Bool) (seed : Nat) (y : RowPart) (sup : List Byte)
    (acc : List Nat) : RowOut :=
  if ints && p.empty && (intWidth c.dst).isSome then
    convPart c iovf seed y (acc.map (decodeCode 0xB)) sup
  else
    let (t, f₀) : List Nat × FlagSet := if ints then mapFlags (i32ToF32 p.env.mode) acc else (acc, 0)
    let (v, f₁) := mapFlags (fun q : Nat × Nat => p.apply q.2 q.1) t.zipIdx
    let c' : ConvWord := { c with src := 0 }
    let r := convRowPart c' iovf seed y v none sup
    { r with flags := f₀ ||| f₁ ||| r.flags }

/-- A whole output row; `y` numbers it for SR (R64). -/
def Epilogue.outRow (p : Epilogue) (ints : Bool) (c : ConvWord) (iovf : Bool) (seed y : Nat) (sup : List Byte)
    (acc : List Nat) : RowOut :=
  p.outPart ints c iovf seed { y := y, len := acc.length, first := 0 } sup acc

/-! ### Histogram slots (R74) -/

/-- Bytes of the statistics area of a NORM, whose end its histogram slot follows (R171, R172). -/
def normStatBytes (bs : List Byte) : Nat :=
  let k := byteOf bs 34
  if bitOf k 2 then 8 * fieldOf bs 24 4 * (if bitsOf k 0 2 = 2 then fieldOf bs 50 2 else 1) else 0

/-- The histogram slot that a descriptor names: GEMM and CONV (R461), NORM (R172), SFU_MAP (R159), CONVERT and TURN
(R369). -/
def histRun (bs : List Byte) : Option Run :=
  let slot := fun (o : Nat) => if refValid (fieldOf bs o 8) then some (wrRun (fieldOf bs o 8) 0 320) else none
  match byteOf bs 0 with
  | 0x03 | 0x04 => slot 40
  | 0x05 => if bitOf (fieldOf bs 32 2) 14 && refValid (fieldOf bs 56 8) then
      some (wrRun (fieldOf bs 56 8) (64 * ceilDiv (normStatBytes bs) 64) 320) else none
  | 0x06 => slot 56
  | 0x11 | 0x12 => slot 24
  | _ => none

/-- Where a run of a descriptor lies: its tier and physical address. -/
def Desc.placeOf (x : Desc) (r : Run) : Option (Nat × Nat) :=
  (x.transAt (refHandle r.ref)).map (fun t => (t.tier, t.phys r.start))

/-- The histogram slot of a descriptor overlaps these 320 bytes of another. -/
def Desc.slotMeets (y x : Desc) (r : Run) : Bool :=
  match (histRun y.bytes).bind y.placeOf, x.placeOf r with
  | some (t, a), some (u, b) => t == u && decide (a < b + 320) && decide (b < a + 320)
  | _, _ => false

/-- Another descriptor that is, or was while this one was in flight, names a histogram slot that overlaps these 320 bytes
(R75). -/
def State.slotClash (s : State) (x : Desc) (r : Run) : Bool :=
  x.clash || s.descs.any (fun y => y.did != x.did && y.dequeued && y.slotMeets x r)

/-- A descriptor that is dequeued and those in flight whose histogram slots overlap marked (R75). -/
def State.markClash (s : State) (x : Desc) : Desc × State :=
  match histRun x.bytes with
  | none => (x, s)
  | some r =>
    let meets := fun (y : Desc) => y.did != x.did && y.dequeued && y.slotMeets x r
    ({ x with clash := x.clash || s.descs.any meets },
     { s with descs := s.descs.map (fun y => if meets y then { y with clash := true } else y) })

/-- A histogram written through a run of 320 bytes; where another descriptor in flight with it names overlapping
bytes the contents are free (R75, log 7). -/
def State.putHistAt (s : State) (m : Store) (x : Desc) (r : Run) (h : Hist) (fmt : Nat) (flags : FlagSet) : Store :=
  s.storeRun m x r (if s.slotClash x r then (upTo 320).map (Config.overlappedSlot s.free) else h.record x.tag fmt flags)

/-- A histogram written to the slot that a reference names. -/
def State.putHist (s : State) (m : Store) (x : Desc) (slot : Nat) (h : Hist) (fmt : Nat) (flags : FlagSet) : Store :=
  s.putHistAt m x (wrRun slot 0 320) h fmt flags

/-! ### Headers (R454 to R456) -/

/-- The opcodes of R457. -/
def opcodes : List Nat :=
  [0x00, 0x01, 0x02, 0x03, 0x04, 0x05, 0x06, 0x07, 0x10, 0x11, 0x12, 0x20, 0x21, 0x22, 0x23, 0x30, 0x38, 0x40,
   0x41, 0x42, 0x48, 0x50, 0x58, 0x59, 0x60, 0x7E]

/-- The header checks in byte order (R454, R455). -/
def headerChecks (bs : List Byte) (ctx verSel : Nat) : List (Nat × Bool) :=
  [(0, opcodes.contains (byteOf bs 0)), (1, bitsOf (byteOf bs 1) 2 2 == 0),
   (1, bitsOf (byteOf bs 1) 4 4 == verSel), (2, fieldOf bs 2 2 == ctx)]

/-- A reserved run of bytes: the first nonzero one fails. -/
def reservedBytes (bs : List Byte) (off n : Nat) : List (Nat × Bool) :=
  (upTo n).map (fun i => (off + i, byteOf bs (off + i) == 0))

/-- Reserved bits [lo + w − 1 : lo] of byte `off`. -/
def reservedBits (bs : List Byte) (off lo w : Nat) : Nat × Bool := (off, bitsOf (byteOf bs off) lo w == 0)

/-- A reference field: its form (R384), and whether it is present as it must be. -/
def refField (bs : List Byte) (off : Nat) (need : Bool) : Nat × Bool :=
  let r := fieldOf bs off 8
  if refValid r && !refOk r then (off + 7, false) else (off, refOk r && ((r == 0) == !need))

/-- An optional reference field: its form only. -/
def refMaybe (bs : List Byte) (off : Nat) : Nat × Bool :=
  let r := fieldOf bs off 8
  if refValid r then (off + 7, refOk r) else (off, refOk r)

end Sys2Proof.Machine
end

