-- ==== Sys2Proof/Machine/Bolt.lean ====
section
/-!
DEFINITION. Bolt pools, pages and sequences: page layout, headers, seals, reference counts, free stacks, the
sequence table and its cache (R221 to R241, R252 to R254).
-/

namespace Sys2Proof.Machine

/-! ### Classes and page layout (R222 to R224, R228) -/

/-- Page size in bytes. -/
def Pool.psize (p : Pool) : Nat := 32768 * 2 ^ p.psz
/-- H · d. -/
def Pool.hd (p : Pool) : Nat := (p.hm1 + 1) * (32 * (p.dh + 1))
/-- Bytes of the codes of one row. -/
def Pool.rowBytes (p : Pool) : Nat := elemBytes p.fmt p.hd
/-- Scale bytes of one row. -/
def Pool.rowScales (p : Pool) : Nat := p.hd / 32
/-- Bytes of the four data regions. -/
def Pool.dataBytes (p : Pool) : Nat := 128 * p.rowBytes + 128 * p.rowScales
/-- Two pools of one class (R222). -/
def Pool.sameClass (p q : Pool) : Bool := p.fmt == q.fmt && p.psz == q.psz && p.dh == q.dh && p.hm1 == q.hm1
/-- A valid class (R224). -/
def Pool.classOk (p : Pool) : Bool := p.dataBytes + 64 ≤ p.psize

/-- The four pieces of position `k` of a page: offset in the page and length, K codes, V codes, K scales,
V scales (R223). -/
def Pool.pieces (p : Pool) (k : Nat) : List (Nat × Nat) :=
  let r := p.rowBytes
  let c := p.rowScales
  [(k * r, r), (64 * r + k * r, r), (128 * r + k * c, c), (128 * r + 64 * c + k * c, c)]

/-- Bytes of a page. -/
def State.pageRead (s : State) (r : PageRef) (off n : Nat) : List Byte :=
  let p := s.pool r.pool
  s.store.read p.tier (p.data + r.page * p.psize + off) n

/-- Bytes of a page stored. -/
def State.pageWrite (s : State) (r : PageRef) (off : Nat) (bs : List Byte) : State :=
  let p := s.pool r.pool
  s.withStore (s.store.write p.tier (p.data + r.page * p.psize + off) bs)

/-- A page as a place of its pool's DATA range, and whether the range lets it be reached there: a row of a range whose RES is 0
halts, and stale data of an SS pool are lost (R376, R392, R485). -/
def State.pageReach (s : State) (r : PageRef) (wr : Bool) : Run × Acc :=
  let p := s.pool r.pool
  let h := p.handles.headD 0
  let e := s.range h
  let a := p.data + r.page * p.psize
  ({ ref := 2 ^ 63 + h * 2 ^ 44 + (a + 4096 * e.start - e.base) % 2 ^ 44, off := 0, len := p.psize, wr := wr },
    if p.tier = 2 then (match (if wr then none else s.poisonedAt 2 a p.psize) with
      | some row => .lost row
      | none => .ok p.tier a)
    else if e.res then .ok p.tier a
    else if e.st == .retiring then .stale
    else .halt)

/-- The first of these pages that cannot be reached. -/
def State.firstBadPage (s : State) (wr : Bool) (rs : List PageRef) : Option (Run × Acc) :=
  rs.findSome? (fun r => match s.pageReach r wr with
    | (_, .ok _ _) => none
    | p => some p)

/-- A page's header (R228). -/
def State.pageHeader (s : State) (r : PageRef) : List Byte := s.pageRead r ((s.pool r.pool).psize - 64) 64

/-- WMASK of a page. -/
def State.wmask (s : State) (r : PageRef) : Nat := fieldOf (s.pageHeader r) 8 8

/-- The bytes of a header (R228). -/
def headerBytes (p : Pool) (r : PageRef) (seq layer pos wmask : Nat) (prov sealed : Bool) (crc : Nat) : List Byte :=
  natLe 2 seq ++ natLe 2 layer ++ natLe 4 (pos % 2 ^ 24) ++ natLe 8 wmask ++ natLe 1 p.fmt ++ natLe 1 p.hm1
    ++ natLe 1 (p.dh + 8 * prov.toNat + 16 * sealed.toNat) ++ natLe 1 0 ++ natLe 4 crc
    ++ natLe 4 (r.page + r.pool * 2 ^ 26) ++ List.replicate 36 0

/-- A header written. -/
def State.putHeader (s : State) (r : PageRef) (seq layer pos wmask : Nat) (prov sealed : Bool)
    (crc : Nat) : State :=
  s.pageWrite r ((s.pool r.pool).psize - 64) (headerBytes (s.pool r.pool) r seq layer pos wmask prov sealed crc)

/-- The check value of an image of a page: SEQ, LAYER and POS of its header, then its data (R229). -/
def imageCrc (p : Pool) (img : List Byte) : Nat :=
  let h := img.drop (p.psize - 64)
  crc32c (blockBytes h 0 8 ++ blockBytes img 0 p.dataBytes)

/-- A page whose header says SEALED passes its check (R229). -/
def State.sealOk (s : State) (r : PageRef) : Bool :=
  let p := s.pool r.pool
  let img := s.pageRead r 0 p.psize
  let h := img.drop (p.psize - 64)
  !bitOf (byteOf h 18) 4 || fieldOf h 20 4 == imageCrc p img

/-- WMASK made `m`, the page sealed when it is all ones and not provisional (R229). -/
def State.setWmask (s : State) (r : PageRef) (m : Nat) : State :=
  let p := s.pool r.pool
  let h := s.pageHeader r
  let prov := bitOf (byteOf h 18) 3
  let full := m % 2 ^ 64 == 2 ^ 64 - 1 && !prov
  let crc := if full then imageCrc p (s.pageRead r 0 p.psize) else 0
  let s := if full then s.takeCvu else s
  s.putHeader r (fieldOf h 0 2) (fieldOf h 2 2) (fieldOf h 4 3) m prov full crc

/-- The header check of a page that is read: LAYER, POS, PROV and the class (R230). -/
def State.headerOk (s : State) (r : PageRef) (layer pos : Nat) (prov : Bool) : Bool :=
  let p := s.pool r.pool
  let h := s.pageHeader r
  fieldOf h 2 2 == layer && fieldOf h 4 3 == pos && bitOf (byteOf h 18) 3 == prov && bitsOf (byteOf h 16) 0 4 == p.fmt
    && bitsOf (byteOf h 17) 0 6 == p.hm1 && bitsOf (byteOf h 18) 0 3 == p.dh

/-- The codes and scales of one position as a reader sees them: K codes, V codes, K scales, V scales, zero
where WMASK is 0 (R230). -/
def State.pageRow (s : State) (r : PageRef) (k : Nat) : List (List Byte) :=
  let w := (s.wmask r).testBit k
  ((s.pool r.pool).pieces k).map (fun q => if w then s.pageRead r q.1 q.2 else List.replicate q.2 0)

/-- One position of a page written whole, and its WMASK bit (R229, R495). -/
def State.putRow (s : State) (r : PageRef) (k : Nat) (row : List (List Byte)) : State :=
  let s := (((s.pool r.pool).pieces k).zip row).foldl (fun s q => s.pageWrite r q.1.1 (blockBytes q.2 0 q.1.2)) s
  s.setWmask r (s.wmask r ||| 2 ^ k)

/-! ### Free stacks and reference counts (R226, R233 to R237) -/

/-- Pages on the free stack. -/
def Pool.freeCount (p : Pool) : Nat := p.free.length + (p.npages - p.fresh)
/-- Index blocks on their free stack. -/
def Pool.ifreeCount (p : Pool) : Nat := p.ifree.length + (p.nidx - p.ifresh)

/-- A page popped (R237). -/
def Pool.pop (p : Pool) : Option (Nat × Pool) :=
  match p.free with
  | n :: t => some (n, { p with free := t })
  | [] => if p.fresh < p.npages then some (p.fresh, { p with fresh := p.fresh + 1 }) else none

/-- An index block popped. -/
def Pool.ipop (p : Pool) : Option (Nat × Pool) :=
  match p.ifree with
  | n :: t => some (n, { p with ifree := t })
  | [] => if p.ifresh < p.nidx then some (p.ifresh, { p with ifresh := p.ifresh + 1 }) else none

/-- The reference count of a page. -/
def Pool.refc (p : Pool) (n : Nat) : Nat := getAt 0 p.refs n
/-- The largest count (R236). -/
def pinnedCount : Nat := 0xFFFF

/-- The state CREATE leaves: both stacks full, every count 0 (R226). -/
def Pool.emptied (p : Pool) : Pool :=
  { p with free := [], fresh := 0, ifree := [], ifresh := 0, refs := [], prov := [], pins := [], retiring := [],
           iretiring := [] }

/-! ### META (R226, R237) -/

/-- Entries of a free stack that lie in META: all but the top 64, which the manager holds (R237). -/
def spilled (n : Nat) : Nat := n - 64

/-- Entry `k` of the page free stack, counted from its bottom: CREATE pushed the numbers in decreasing order (R226). -/
def Pool.stackAt (p : Pool) (k : Nat) : Nat :=
  if k < p.npages - p.fresh then p.npages - 1 - k else p.free.getD (p.freeCount - 1 - k) 0
/-- Entry `k` of the free stack of index blocks, counted from its bottom. -/
def Pool.istackAt (p : Pool) (k : Nat) : Nat :=
  if k < p.nidx - p.ifresh then p.nidx - 1 - k else p.ifree.getD (p.ifreeCount - 1 - k) 0

/-- Where the reference counts begin in META. -/
def Pool.refsOff (p : Pool) : Nat := 64 * ceilDiv (4 * p.npages) 64
/-- Where the free stack of index blocks begins in META. -/
def Pool.istackOff (p : Pool) : Nat := p.refsOff + 64 * ceilDiv (2 * p.npages) 64

/-- Entries `a` to `b` − 1 of both stacks and the counts of these pages stored in META. -/
def Pool.storeMeta (p : Pool) (pages blocks : Nat × Nat) (counts : List Nat) (m : Store) : Store :=
  let put := fun (m : Store) (o n v : Nat) => m.write p.metaTier (p.metaAt + o) (natLe n v)
  let m := (upTo (pages.2 - pages.1)).foldl (fun m i => put m (4 * (pages.1 + i)) 4 (p.stackAt (pages.1 + i))) m
  let m := counts.foldl (fun m n => put m (p.refsOff + 2 * n) 2 (p.refc n)) m
  (upTo (blocks.2 - blocks.1)).foldl (fun m i => put m (p.istackOff + 4 * (blocks.1 + i)) 4 (p.istackAt (blocks.1 + i))) m

/-- Pool `n` changed: META receives the stack entries that no longer fit in the manager, and the counts that changed. -/
def State.putPool (s : State) (n : Nat) (p : Pool) : State :=
  let o := s.pool n
  let counts := ((keysOf o.refs ++ keysOf p.refs).dedup).filter (fun k => o.refc k != p.refc k)
  let s := s.setPool n p
  s.withStore (p.storeMeta (spilled o.freeCount, spilled p.freeCount) (spilled o.ifreeCount, spilled p.ifreeCount) counts s.store)

/-- Pool `n` as CREATE and RESET leave it, with all of META (R226, R227). -/
def State.freshPool (s : State) (n : Nat) (p : Pool) : State :=
  let s := s.setPool n p
  s.withStore (p.storeMeta (0, spilled p.freeCount) (0, spilled p.ifreeCount) (upTo p.npages) s.store)

/-- Bolt-reading descriptors of a partition in flight (R235): those that hold a view, and a dequeued
BOLT_MIGRATE; `self` is the descriptor whose command frees the page, and does not count (DESIGN CHOICE, log 66). -/
def State.boltReaders (s : State) (part : Nat) (self : Option Did) : List Did :=
  (s.descs.filter (fun x => x.dequeued && s.partOf x == part && some x.did != self
    && (!x.views.isEmpty || x.opcode == 0x22))).map Desc.did

/-- A page freed: counted as RETIRING while readers are in flight, else pushed (R235). -/
def State.freePage (s : State) (r : PageRef) (self : Option Did) : State :=
  let p := s.pool r.pool
  let p := { p with prov := p.prov.filter (· != r.page) }
  match s.boltReaders p.part self with
  | [] => s.putPool r.pool { p with free := r.page :: p.free }
  | ds => s.putPool r.pool { p with retiring := p.retiring ++ [(r.page, ds)] }

/-- One reference to a page dropped (R235, R236). -/
def State.dropRef (s : State) (r : PageRef) (self : Option Did) : State :=
  let p := s.pool r.pool
  let c := p.refc r.page
  if p.pins.contains r.page then s
  else
    let s := s.putPool r.pool { p with refs := putAt 0 p.refs r.page (c - 1) }
    if c ≤ 1 then s.freePage r self else s

/-- References dropped in order. -/
def State.dropRefs (s : State) (rs : List PageRef) (self : Option Did) : State :=
  rs.foldl (fun s r => s.dropRef r self) s

/-- An index block freed (R235). -/
def State.freeBlock (s : State) (pool n : Nat) (self : Option Did) : State :=
  let p := s.pool pool
  match s.boltReaders p.part self with
  | [] => s.putPool pool { p with ifree := n :: p.ifree }
  | ds => s.putPool pool { p with iretiring := p.iretiring ++ [(n, ds)] }

/-- Index blocks freed in order. -/
def State.freeBlocks (s : State) (pool : Nat) (ns : List Nat) (self : Option Did) : State :=
  ns.foldl (fun s n => s.freeBlock pool n self) s

/-- One more reference to a page. A count that would pass 0xFFFF stays, and the page is pinned: the flag says that this
reference pinned it (R236). -/
def State.addRef (s : State) (r : PageRef) : State × Bool :=
  let p := s.pool r.pool
  let c := p.refc r.page
  if p.pins.contains r.page then (s, false)
  else if pinnedCount ≤ c then (s.putPool r.pool { p with pins := p.pins ++ [r.page] }, true)
  else (s.putPool r.pool { p with refs := putAt 0 p.refs r.page (c + 1) }, false)

/-- A page taken from a pool with one reference and a new header (R230); page 0 of the pool where the stack is
empty, which callers exclude. -/
def State.takePage (s : State) (pool seq layer pos : Nat) (prov : Bool) : State × PageRef :=
  match (s.pool pool).pop with
  | none => (s, { pool := pool, page := 0 })
  | some (n, p) =>
    let p := { p with refs := putAt 0 p.refs n 1, prov := if prov then p.prov ++ [n] else p.prov }
    let r : PageRef := { pool := pool, page := n }
    ((s.putPool pool p).putHeader r seq layer pos 0 prov false 0, r)

/-- Index blocks taken from a pool. -/
def State.takeBlocks (s : State) (pool : Nat) : Nat → State × List Nat
  | 0 => (s, [])
  | k + 1 =>
    match (s.pool pool).ipop with
    | none => (s, [])
    | some (n, p) =>
      let (s, t) := (s.putPool pool p).takeBlocks pool k
      (s, n :: t)

/-- Index blocks of one bolt of `n` pages (R234). -/
def boltBlocks (n : Nat) : Nat :=
  if n = 0 then 0
  else if n ≤ 128 then 1
  else if n ≤ 16384 then 1 + ceilDiv n 128
  else 1 + ceilDiv n 16384 + ceilDiv n 128

/-- The depth of a bolt of `n` pages (R234). -/
def boltDepth (n : Nat) : Nat := if n ≤ 128 then 1 else if n ≤ 16384 then 2 else 3

/-- Index blocks of a bolt of `n` pages at a level: level 0 references pages (R234). -/
def levelCount : Nat → Nat → Nat
  | 0, n => ceilDiv n 128
  | 1, n => if n ≤ 128 then 0 else ceilDiv n 16384
  | _, n => if n ≤ 16384 then 0 else 1

/-- Layer, level and number of the index blocks that growth of `layers` bolts from `p0` to `p1` pages adds, layer by
layer. -/
def growPlaces (layers p0 p1 : Nat) : List (Nat × Nat × Nat) :=
  (upTo layers).flatMap (fun l => (upTo 3).flatMap (fun k =>
    (upTo (levelCount k p1 - levelCount k p0)).map (fun i => (l, k, levelCount k p0 + i))))

/-- Pages of `n` positions. -/
def pagesOf (n : Nat) : Nat := ceilDiv n 64

/-- Index blocks of one bolt that growth from `p0` to `p1` pages writes, new or changed, where `changed` pages
also have their entry replaced (R251). -/
def boltWritten (p0 p1 : Nat) (changed : List Nat) : Nat :=
  let d0 := if p0 = 0 then 0 else boltDepth p0
  let d1 := boltDepth p1
  let pages := (upTo (p1 - p0)).map (p0 + ·) ++ changed
  let leaves := (pages.map (· / 128)).dedup
  if d1 = 1 then leaves.length
  else
    let newLeaves := (upTo (ceilDiv p1 128 - ceilDiv p0 128)).map (ceilDiv p0 128 + ·)
    if d1 = 2 then leaves.length + (if newLeaves != [] || d0 < 2 then 1 else 0)
    else
      let mids := (newLeaves.map (· / 128) ++ (if d0 = 1 then [0] else [])).dedup
      leaves.length + mids.length + (if ceilDiv p0 16384 < ceilDiv p1 16384 || d0 < 3 then 1 else 0)

/-! ### The sequence table and its cache (R238 to R241) -/

/-- Layers of a sequence. -/
def Seq.layers (q : Seq) : Nat := q.nlayerM1 + 1

/-- An entry changed: its cached copy is dirty. -/
def State.putSeq (s : State) (n : Nat) (q : Seq) : State := (s.setSeq n q).dirtySeqs [n]

/-! ### Index blocks in memory (R233, R234, R238) -/

/-- The reference that a list entry gives, 0 where it has none. -/
def entryWord (pool : Nat) (l : List Nat) (i : Nat) : Nat := match l[i]? with
  | some n => refWord pool n
  | none => 0

/-- The number of the index block at a place. -/
def Seq.blockAt (q : Seq) (pl : Nat × Nat × Nat) : Option Nat :=
  ((q.iplaces.zip (q.iblocks.drop 1)).find? (fun b => b.1 == pl)).map Prod.snd

/-- The reference to the index block at a place, 0 where there is none. -/
def Seq.blockWord (q : Seq) (pl : Nat × Nat × Nat) : Nat := ((q.blockAt pl).map (refWord q.pool)).getD 0

/-- The 128 references of an index block: to pages, or to the blocks of the level below. -/
def Seq.blockWords (q : Seq) (pl : Nat × Nat × Nat) : List Nat :=
  (upTo 128).map (fun j => match pl.2.1 with
    | 0 => (((q.pages.getD pl.1 [])[128 * pl.2.2 + j]?).map (fun r => refWord r.pool r.page)).getD 0
    | k + 1 => q.blockWord (pl.1, k, 128 * pl.2.2 + j))

/-- The directory: entry l references layer l's root. -/
def Seq.dirWords (q : Seq) : List Nat := (upTo 128).map (fun l => q.blockWord (l, q.depth - 1, 0))

/-- DEPTH of each slot of a tree (R256). -/
def treeDepths (t : List Nat) : List Nat :=
  t.foldl (fun ds p => ds ++ [if p = 0xFF then 1 else ds.getD p 0 + 1]) []

/-- The index blocks of a sequence with their bytes: the directory, the blocks of its bolts, and of a speculation the
provisional-page block and the tree block (R233, R234, R238). -/
def Seq.indexImage (q : Seq) : List (Nat × List Byte) :=
  let words := fun (l : List Nat) => l.flatMap (natLe 4)
  ((q.iblocks.take 1).map (fun b => (b, words q.dirWords)))
    ++ (q.iplaces.zip (q.iblocks.drop 1)).map (fun b => (b.2, words (q.blockWords b.1)))
    ++ (if q.spec then
        [(q.bblocks.getD 0 0, words ((upTo 128).map (entryWord q.pool q.prov))),
         (q.bblocks.getD 1 0, blockBytes (q.tree.flatMap (natLe 1)) 0 64 ++ blockBytes ((treeDepths q.tree).flatMap (natLe 1)) 0 448)]
      else [])

/-- A sequence changed, with its index blocks in the INDEX range of its home pool. -/
def State.putIndexed (s : State) (n : Nat) (q : Seq) : State :=
  let p := s.pool q.pool
  let s := s.putSeq n q
  s.withStore (q.indexImage.foldl (fun m b => m.write p.indexTier (p.indexAt + 512 * b.1) b.2) s.store)

/-- A sequence id in a partition's range (R238). -/
def State.ownsSeq (s : State) (part n : Nat) : Bool :=
  (s.part part).seqBase ≤ n && n ≤ (s.part part).seqBase + (s.part part).seqCntM1

/-- The lowest FREE sequence id of a partition (R247). -/
def State.freeSeqId (s : State) (part : Nat) : Option Nat :=
  let p := s.part part
  ((upTo (p.seqCntM1 + 1)).map (p.seqBase + ·)).find? (fun n => (s.seqn n).st == .free && !(s.seqn n).quar)

/-- The lowest FREE id whose entry is intact, and the state that has looked for it: a fill that meets a damaged entry
quarantines it (R241, R247). -/
def State.takeSeqId (s : State) (part : Nat) : Nat → Option Nat × State
  | 0 => (none, s)
  | k + 1 => match s.freeSeqId part with
    | none => (none, s)
    | some n =>
      let t := s.cacheSeq n
      if (t.seqn n).quar then t.takeSeqId part k else (some n, t)

/-- Pools that a sequence's pages of the first `layers` layers lie in, from page `a` of each bolt to page `b`. -/
def Seq.pagePools (q : Seq) (layers a b : Nat) : List Nat :=
  (q.pages.take layers).flatMap (fun l => ((l.take b).drop a).map PageRef.pool)

/-! ### Dropping a sequence's references (R234, R235, R248, R262) -/

/-- References of a speculation not yet dropped, in order: provisional pages, then budget pages. -/
def Seq.specRefs (q : Seq) : List PageRef :=
  (q.prov ++ q.budget.flatten).map (fun n => { pool := q.pool, page := n })

/-- Open speculation closed as by a commit with LEAF = 0xFF: at most `lim` of its references are dropped, the
rest kept for the manager (R248, R262); the number dropped is returned. -/
def State.closeSpec (s : State) (n lim : Nat) (self : Option Did) : State × Nat :=
  let q := s.seqn n
  let refs := q.specRefs
  let s := s.dropRefs (refs.take lim) self
  let rest := (refs.drop lim).map PageRef.page
  let s := if rest.isEmpty then s.freeBlocks q.pool q.bblocks self else s
  (s.putSeq n { q with spec := false, nslot := 0, tree := [], prov := [],
                       budget := if rest.isEmpty then [] else [rest],
                       bblocks := if rest.isEmpty then [] else q.bblocks }, min lim refs.length)

/-- The last reference of the last layer that has one, taken off the layers (R248). -/
def popLast : List (List PageRef) → Option (PageRef × List (List PageRef))
  | [] => none
  | l :: ls =>
    match popLast ls with
    | some (r, ls) => some (r, l :: ls)
    | none => match l.getLast? with
      | some r => some (r, l.dropLast :: ls)
      | none => none

/-- An index block that references nothing any more. -/
def Seq.emptyPlace (q : Seq) (pl : Nat × Nat × Nat) : Bool :=
  decide ((q.pages.getD pl.1 []).length ≤ 128 ^ (pl.2.1 + 1) * pl.2.2)

/-- Index blocks of a LEAVING sequence that are empty now are freed, the directory last (R248). -/
def State.freeEmptied (s : State) (n : Nat) (self : Option Did) : State :=
  let q := s.seqn n
  let bs := q.iplaces.zip (q.iblocks.drop 1)
  let gone := bs.filter (fun b => q.emptyPlace b.1)
  let kept := bs.filter (fun b => !q.emptyPlace b.1)
  let dir := if kept.isEmpty && q.pages.all List.isEmpty && q.budget.all List.isEmpty then [] else q.iblocks.take 1
  let s := s.freeBlocks q.pool (gone.map Prod.snd ++ (if dir.isEmpty then q.iblocks.take 1 else [])) self
  s.putSeq n { q with iblocks := dir ++ kept.map Prod.snd, iplaces := kept.map Prod.fst }

/-- One reference of a LEAVING sequence dropped: what a discarded speculation left first, then from the last
layer and highest position downward (R248). The flag says that one was dropped. -/
def State.dropOne (s : State) (n : Nat) (self : Option Did) : State × Bool :=
  let q := s.seqn n
  match q.specRefs with
  | r :: _ =>
    let rest := q.budget.flatten.drop 1
    let s := s.dropRef r self
    let s := if rest.isEmpty then s.freeBlocks q.pool q.bblocks self else s
    (s.putSeq n { q with budget := if rest.isEmpty then [] else [rest],
                         bblocks := if rest.isEmpty then [] else q.bblocks }, true)
  | [] =>
    match popLast q.pages with
    | some (r, ls) => (((s.dropRef r self).putSeq n { q with pages := ls }).freeEmptied n self, true)
    | none => (s.freeEmptied n self, false)

/-- References dropped until `lim` is reached or none is left: the state and what remains of `lim`. -/
def State.dropMany (s : State) (n : Nat) (self : Option Did) : Nat → State × Nat
  | 0 => (s, 0)
  | lim + 1 =>
    match s.dropOne n self with
    | (s, true) => s.dropMany n self lim
    | (s, false) => (s, lim + 1)

/-! ### Views and write lists (R252 to R254) -/

/-- The view of a sequence (R254). -/
def State.viewOf (s : State) (n : Nat) : View :=
  let q := s.seqn n
  { seq := n, len := q.len, nslot := q.nslot, res := q.res, lastst := q.lastst, tree := q.tree,
    pages := q.pages, prov := if q.spec then q.prov else [], pool := q.pool, live := q.st == .live, spec := q.spec,
    layers := q.layers, admLen := q.admLen }

/-- One entry of a write list (R252). -/
structure WriteEnt where
  seq : Nat
  layer : Nat
  pos : Nat
  slot : Bool
  top : Nat
  deriving DecidableEq, Repr

/-- A write-list entry's fields. -/
def writeEnt (v : Nat) : WriteEnt :=
  { seq := bitsOf v 0 16, layer := bitsOf v 16 16, pos := bitsOf v 32 24, slot := bitOf v 56,
    top := bitsOf v 57 7 }

/-- The page and position a row goes to in the view that its descriptor took, or the status it is skipped with (R253,
R254). -/
def writeTarget (views : List View) (w : WriteEnt) : Except Nat (PageRef × Nat) :=
  match views.find? (fun v => v.seq == w.seq) with
  | none => .error 0x03
  | some q =>
  if !q.live then .error 0x03
  else if q.lastst = 0x51 then .error 0x51
  else if w.top != 0 || (w.slot && 64 ≤ w.pos) then .error 0x03
  else if q.layers ≤ w.layer then .error 0x03
  else if w.slot then
    (if q.spec && w.pos < q.nslot then .ok ({ pool := q.pool, page := q.prov.getD w.layer 0 }, w.pos)
     else .error 0x03)
  else if q.admLen - q.res ≤ w.pos && w.pos < q.admLen then
    (match (q.pages.getD w.layer [])[w.pos / 64]? with
     | some r => .ok (r, w.pos % 64)
     | none => .error 0x03)
  else .error 0x03

/-- One output row encoded in the pool format: its row pieces, and what the conversion gave. Scales are
computed per block (R252). -/
def encodeRow (p : Pool) (c : ConvWord) (seed row : Nat) (pats : List Nat) : List (List Byte) × RowOut :=
  let c : ConvWord := { c with src := 0, dst := p.fmt, dscale := 1, sscale := false }
  let o := convOut c true seed row (pats.map f32Value) []
  let n := p.hd
  ([pack p.fmt (o.codes.take n), pack p.fmt (o.codes.drop n), o.scales.take p.rowScales,
    o.scales.drop p.rowScales], o)

/-- What storing rows through a write list did: the state, the flags, the status hint and the values stored. -/
structure WriteOut where
  state : State
  flags : FlagSet
  hint : Nat
  stored : List Value
  deriving DecidableEq, Repr

/-- The rows of a kernel stored through a write list (R252, R253). -/
def State.writeRows (s : State) (views : List View) (c : ConvWord) (seed : Nat) :
    Nat → List (WriteEnt × List Nat) → WriteOut
  | _, [] => { state := s, flags := 0, hint := 0, stored := [] }
  | i, (w, pats) :: t =>
    match writeTarget views w with
    | .error st =>
      let o := s.writeRows views c seed (i + 1) t
      { o with hint := mergeStatus st o.hint }
    | .ok (r, k) =>
      let (row, ro) := encodeRow (s.pool r.pool) c seed i pats
      let o := (s.putRow r k row).writeRows views c seed (i + 1) t
      { o with flags := ro.flags ||| o.flags, stored := ro.stored ++ o.stored }

/-- What a write list asks of a kernel before it writes: every row that is written has 2 · H · d elements and
the pool's format, and DST_SCALE is 0 (R252, R463). -/
def State.writeListOk (s : State) (views : List View) (c : ConvWord) (n : Nat) (ws : List WriteEnt) : Bool :=
  c.dscale == 0 && ws.all (fun w => match writeTarget views w with
    | .error _ => true
    | .ok (r, _) => (s.pool r.pool).fmt == c.dst && n == 2 * (s.pool r.pool).hd)

end Sys2Proof.Machine
end

