-- ==== Sys2Proof/Machine/Flags.lean ====
section
/-!
DEFINITION. Sticky flags and corrected-error counts of the cores and the SS (R68, R70, R321).
-/

namespace Sys2Proof.Machine

/-- A core's array and load set as it reads: with what the running kernel has raised. -/
def Core.arraySet (k : Core) : FlagSet := k.aflags ||| k.aheld
/-- A core's SFU and store set as it reads. -/
def Core.sfuSet (k : Core) : FlagSet := k.sflags ||| k.sheld

/-- Flags raised in a core's array and load set by its running kernel. -/
def State.raiseArray (s : State) (c : Nat) (f : FlagSet) : State :=
  let k := s.core c
  s.setCore c { k with aheld := k.aheld ||| f }

/-- Flags raised in a core's SFU and store set by its running kernel. -/
def State.raiseSfu (s : State) (c : Nat) (f : FlagSet) : State :=
  let k := s.core c
  s.setCore c { k with sheld := k.sheld ||| f }

/-- A kernel's flags kept for good, or, where its attempt is discarded, dropped (R71). -/
def Core.keepFlags (k : Core) (keep : Bool) : Core :=
  { k with aflags := if keep then k.arraySet else k.aflags, sflags := if keep then k.sfuSet else k.sflags,
           aheld := 0, sheld := 0 }

/-- Flags raised in the collective engine's set. -/
def State.raiseColl (s : State) (f : FlagSet) : State := { s with collFlags := s.collFlags ||| f }

/-- Flags added to a descriptor in flight (R69). -/
def State.raiseDesc (s : State) (d : Did) (f : FlagSet) : State :=
  match s.desc? d with
  | some x => s.setDesc { x with flags := x.flags ||| f }
  | none => s

/-- A status noted against a descriptor in flight (R466). -/
def State.noteStatus (s : State) (d : Did) (st detail : Nat) : State :=
  match s.desc? d with
  | some x =>
    let m := mergeStatus x.status st
    s.setDesc { x with status := m, detail := if m = x.status then x.detail else detail }
  | none => s

/-- A count that saturates at 0xFFFF_FFFF, one more. -/
def satInc (w : Word) : Word := if w = 0xFFFFFFFF then w else w + 1

/-- A corrected error of a core's memories counted (R321). -/
def State.countCorrected (s : State) (c : Nat) : State :=
  let k := s.core c
  s.setCore c { k with cecc := satInc k.cecc }

/-- A corrected error of the SS counted (R321). -/
def State.countCorrectedSs (s : State) : State := { s with ssCecc := satInc s.ssCecc }

/-- The W1C clear of a core's flag sets (R70): array set in bits [3:0], SFU set in bits [11:8] (R540); a flag raised
in the same cycle reads 1. -/
def State.clearFlags (s : State) (c : Nat) (value raised : Word) : State :=
  let k := s.core c
  let a : FlagSet := value.setWidth 4
  let b : FlagSet := (value >>> 8).setWidth 4
  s.setCore c { k with aflags := (k.aflags &&& ~~~a) ||| raised.setWidth 4,
                       sflags := (k.sflags &&& ~~~b) ||| (raised >>> 8).setWidth 4,
                       aheld := k.aheld &&& ~~~a, sheld := k.sheld &&& ~~~b }

end Sys2Proof.Machine
end

