-- ==== Sys2Proof/Machine/Bobbin.lean ====
section
/-!
DEFINITION. The requests of the fabric ports: their flits, tags and credits, the Bobbin path and the watches (R353 to R360, R364,
R365, R469, R481).
-/

namespace Sys2Proof.Machine

/-! ### Flits and tags (R353, R354) -/

/-- OP of a flit. -/
def opCode : ReqOp → Nat
  | .rd => 0
  | .wr => 1
  | .watch => 2
  | .fence => 3

/-- The 80 bits of a request (R353). -/
def reqFlit (op : ReqOp) (tag addr units : Nat) : BitVec 80 :=
  BitVec.ofNat 80 (opCode op + 2 ^ 4 * (tag % 2 ^ 12) + 2 ^ 16 * (64 * (addr / 64) % 2 ^ 57)
    + 2 ^ 73 * (if op = .rd ∨ op = .wr then (units - 1) % 2 ^ 6 else 0))

/-- A write outstanding on a port. -/
def Out.isWrite (o : Out) : Bool := o.op == .wr

/-- The flit of an outstanding request under its tag. -/
def Out.flit (o : Out) (tag : Nat) : BitVec 80 := reqFlit o.op tag o.addr o.units

/-- A tag of a port that carries no request and is not quarantined. -/
def FPort.tagFree (p : FPort) (t : Nat) : Bool :=
  !(p.outs.any (fun o => o.1 == t)) && !(p.quarTags.any (fun q => q.1 == t))

/-- The first of `n` consecutive free tags among `m` from `t` (log 34). -/
def FPort.freeTags (p : FPort) (n : Nat) : Nat → Nat → Option Nat
  | 0, _ => none
  | m + 1, t => if n ≤ m + 1 && (upTo n).all (fun i => p.tagFree (t + i)) then some t else p.freeTags n m (t + 1)

/-- A free fence tag. -/
def FPort.fenceTag (p : FPort) : Option Nat := p.freeTags 1 16 3840

/-- Bobbin slots in use: their tags carry a request, or are quarantined, on some port. -/
def State.bobsUsed (s : State) : Nat :=
  (s.ports.map (fun p => (p.2.outs.filter (fun o => 3072 ≤ o.1 && o.1 < 3136)).length
    + (p.2.quarTags.filter (fun q => 3072 ≤ q.1 && q.1 < 3136)).length)).sum

/-- The lowest free Bobbin slot's tag. -/
def State.bobTag (s : State) : Option Nat :=
  ((upTo 64).map (3072 + ·)).find? (fun t => s.ports.all (fun p => p.2.tagFree t))

/-- The lowest watch tag that no WATCH and no armed watch has. -/
def State.watchTag (s : State) : Option Nat :=
  ((upTo 128).map (3584 + ·)).find? (fun t =>
    s.ports.all (fun p => p.2.tagFree t) && s.watches.all (fun w => !(w.2.armed && w.2.tag == t)))

/-- The request under a tag of a port. -/
def FPort.out (p : FPort) (t : Nat) : Option Out := getAt none p.outs t

/-- A request put under a tag, or taken out. -/
def FPort.setOut (p : FPort) (t : Nat) (o : Option Out) : FPort := { p with outs := putAt none p.outs t o }

/-- Beats of write data that a request takes. -/
def Out.beats (o : Out) : Nat := if o.isWrite then ceilDiv o.units 8 else 0

/-- A port holds the credits of a request (R358). -/
def FPort.pays (p : FPort) (o : Out) : Bool := p.up && decide (1 ≤ p.req) && decide (o.beats ≤ p.wdat)

/-- A request sent under a tag for its credits. -/
def FPort.send (p : FPort) (t : Nat) (o : Out) : FPort :=
  { p.setOut t (some { o with seq := p.sent, unsent := false }) with
    sent := p.sent + 1, req := p.req - 1, wdat := p.wdat - o.beats }

/-- A repeat under its tag: it keeps its place, and goes once its credits are there (R358). -/
def FPort.again (p : FPort) (t : Nat) (o : Out) : FPort :=
  if p.pays o then { p.setOut t (some { o with unsent := false }) with req := p.req - 1, wdat := p.wdat - o.beats }
  else p.setOut t (some { o with unsent := true })

/-- The repeats that waited for credits. -/
def FPort.resend (p : FPort) : FPort :=
  p.outs.foldl (fun p o => match o.2 with
    | some r => if r.unsent then p.again o.1 r else p
    | none => p) p

/-- An earlier FENCE of the port holds a request (R359). -/
def FPort.holds (p : FPort) (o : Out) : Bool :=
  p.outs.any (fun f => match f.2 with
    | some f => f.op == .fence && decide (f.seq < o.seq)
    | none => false)

/-- Every earlier request of the port but the WATCHes has completed (R359). -/
def FPort.drained (p : FPort) (f : Out) : Bool :=
  p.outs.all (fun o => match o.2 with
    | some o => o.op == .watch || decide (f.seq ≤ o.seq)
    | none => true)

/-- What an outstanding write stores: its enabled 64-byte units, or the bytes of a small write (R356). -/
def Out.cells (o : Out) : List (Nat × List Byte) :=
  if o.core = 32 then [(o.addr, o.data)]
  else ((pieces 64 o.data).zipIdx.filter (fun p => o.enables.getLsbD p.2)).map (fun p => (o.addr + 64 * p.2, p.1))

/-- A write made visible. -/
def State.landOut (s : State) (o : Out) : State := o.cells.foldl (fun s c => s.memPut c.1 c.2) s

/-- A write cut before its OK: each of its units may have landed or not (log 7). -/
def State.cutOut (s : State) (o : Out) : State := o.cells.foldl (fun s c => s.landCut c.1 c.2) s

/-! ### The Bobbin path and the watches (R360, R364, R365) -/

/-- A small request as it stands under its tag; it moves no row of a core. -/
def smallOut (r : SmallReq) : Out :=
  { op := r.op, addr := r.addr, units := max 1 (ceilDiv (r.addr % 64 + r.data.length) 64), d := r.d, handle := none, core := 32, row := 0,
    region := none, error := 0, timedOut := false, unsent := false, seq := 0, watch := r.watch, enables := BitVec.allOnes 64,
    data := r.data }

/-- A FENCE. -/
def fenceOut : Out :=
  { op := .fence, addr := 0, units := 1, d := none, handle := none, core := 32, row := 0, region := none, error := 0,
    timedOut := false, unsent := false, seq := 0, watch := none, enables := 0, data := [] }

/-- A small request sent, behind its FENCE where it has one; none while a tag or a credit is missing. -/
def State.sendSmall (s : State) (r : SmallReq) : Option State :=
  let p := s.fport r.port
  let o := smallOut r
  match (if r.op = .watch then s.watchTag else s.bobTag) with
  | none => none
  | some t =>
    if !r.fenced then (if p.pays o then some (s.setFport r.port (p.send t o)) else none)
    else match p.fenceTag with
      | none => none
      | some f =>
        let q := p.send f fenceOut
        if p.pays fenceOut && q.pays o then some (s.setFport r.port (q.send t o)) else none

/-- Small requests sent in their order; those of a port wait for its earlier ones, and slots are granted in request order (R364). -/
def State.sendSmalls (s : State) : List SmallReq → List SmallReq → State × List SmallReq
  | [], held => (s, held)
  | r :: t, held =>
    let ahead := (held.filter (fun h => h.op != .watch)).length
    if held.any (fun h => h.port == r.port) || (r.op != .watch && decide (64 ≤ s.bobsUsed + ahead)) then s.sendSmalls t (held ++ [r])
    else match s.sendSmall r with
      | some u => u.sendSmalls t held
      | none => s.sendSmalls t (held ++ [r])

/-- The small requests that can go do; none does in the declared fatal state (R488). -/
def State.pumpSmalls (s : State) : State :=
  if s.mgmt.fatal then s
  else
    let (t, held) := s.sendSmalls s.smalls []
    { t with smalls := held }

/-- A small request made. -/
def State.ask (s : State) (r : SmallReq) : State := ({ s with smalls := s.smalls ++ [r] }).pumpSmalls

/-- A write of the Bobbin path on a port, behind a FENCE or not, for a descriptor or for none (R365). -/
def State.bobWrite (s : State) (port a : Nat) (bs : List Byte) (fenced : Bool) (d : Option Did) : State :=
  s.ask { port := port, op := .wr, addr := a, data := bs, fenced := fenced, d := d, watch := none }

/-- A read of the Bobbin path that returns within its command may go: its port has credit and no FENCE, nothing waits ahead of it, and
a slot is free (R358, R359, R364). -/
def State.bobReady (s : State) (a : Nat) : Bool :=
  let p := s.fport (portOf a)
  p.up && decide (1 ≤ p.req) && p.outs.all (fun o => o.2.all (fun r => r.op != .fence))
    && !(s.smalls.any (fun r => r.port == portOf a))
    && decide (s.bobsUsed + (s.smalls.filter (fun r => r.op != .watch)).length < 64)

/-- Its credit spent. -/
def State.bobSpend (s : State) (a : Nat) : State :=
  let p := s.fport (portOf a)
  s.setFport (portOf a) { p with sent := p.sent + 1, req := p.req - 1 }

/-- Bytes written through a run of a range: at once in the SS, else by the Bobbin path on a port (R365). -/
def State.bobRun (s : State) (x : Desc) (port : Nat) (r : Run) (bs : List Byte) (fenced : Bool) : State :=
  match s.access x r with
  | .ok tier a => if tier = 2 then s.withStore (s.store.write tier a bs) else s.bobWrite port a bs fenced (some x.did)
  | _ => s

/-- The port of a range's place: that of the ring whose base it is (R365). -/
def State.portAt (s : State) (x : Desc) (ref : Nat) : Nat :=
  match s.access x (wrRun ref 0 1) with
  | .ok _ a => portOf a
  | _ => 0

/-- Writes of a descriptor that have not got their OK (R356, R365). -/
def State.writesOut (s : State) (d : Did) : Bool :=
  s.smalls.any (fun r => r.op == .wr && r.d == some d)
    || s.ports.any (fun p => p.2.outs.any (fun o => o.2.any (fun r => r.isWrite && r.d == some d)))

/-- The line of watch `n`: a ring's doorbell, or the PROD of a loop's request ring. -/
def State.watchLine (s : State) (n : Nat) : Nat :=
  match (s.watch n).owner with
  | some (.ring r) => (s.sub r).base
  | some (.loop l) =>
    let ref := fieldOf (s.loopAt l).block 16 8
    (((s.loopAt l).desc.transAt (refHandle ref)).map (fun t => t.phys (refOffset ref))).getD 0
  | none => 0

/-- A WATCH of a watch's line sent (R360). -/
def State.sendWatch (s : State) (n : Nat) : State :=
  s.ask { port := portOf (s.watchLine n), op := .watch, addr := s.watchLine n, data := [], fenced := false, d := none, watch := some n }

/-- A watch begun for its owner. -/
def State.beginWatch (s : State) (n : Nat) (w : WatchOwner) : State :=
  (s.setWatch n { Watch.reset with owner := some w }).sendWatch n

/-- A watch given up: what it had not sent is dropped, and its tag is kept while it is armed (R354). -/
def State.endWatch (s : State) (n : Nat) : State :=
  { s.setWatch n { s.watch n with owner := none, readDue := false } with smalls := s.smalls.filter (fun r => r.watch != some n) }

/-- The read that followed a watch's arming has returned. -/
def State.readSeen (s : State) (n : Nat) : State := s.setWatch n { s.watch n with readDue := false }

/-- The outstanding request of a kind that serves a watch: its port and tag. -/
def State.watchOut (s : State) (n : Nat) (op : ReqOp) : Option (Nat × Nat) :=
  s.ports.findSome? (fun p => (p.2.outs.find? (fun o => o.2.any (fun r => r.op == op && r.watch == some n && !r.unsent))).map
    (fun o => (p.1, o.1)))

/-- A request of a watch answered. -/
def State.watchDone (s : State) (at_ : Nat × Nat) : State := (s.setFport at_.1 ((s.fport at_.1).setOut at_.2 none)).pumpSmalls

/-! ### Regulators (R469) -/

/-- The regulator of a partition lets a request of `n` units issue. -/
def PartCfg.admits (p : PartCfg) (n : Nat) : Bool := p.rate == 0 || decide (n ≤ p.tokens)

/-- A command that moves `n` units in several requests issues where the bucket holds them, or is full (DESIGN CHOICE, log 34). -/
def State.regulated (s : State) (part n : Nat) : Bool := (s.part part).admits (min n (s.part part).burst)

/-- The units of a request, or of all that a command makes, taken from the bucket. -/
def State.takeUnits (s : State) (part n : Nat) : State :=
  let p := s.part part
  s.setPart part { p with tokens := if p.rate = 0 then p.tokens else p.tokens - n }

end Sys2Proof.Machine
end

