-- ==== Sys2Proof/Machine/Startup.lean ====
section
/-!
DEFINITION. Resets, the start-up sequence, the serial-memory records and images, and the management mailbox
(R502 to R516, R505, R522).
-/

namespace Sys2Proof.Machine

/-! ### The serial memory's own operations (R548, R549) -/

/-- Bytes of the serial memory. -/
def State.flashAt (s : State) (a n : Nat) : List Byte := readRun blankFlash s.mgmt.flash a n

/-- Bytes programmed into the device: a program clears bits and never sets one (PRESUMED, log 4). -/
def programBytes (old new : List Byte) : List Byte := (old.zip new).map (fun p => p.1 &&& p.2)

/-- What an operation that the device completes does (R548, R549). -/
def State.spiEffect (s : State) (op : SpiOp) (len : Nat) : State :=
  let a := s.mgmt.spiAddr.toNat
  match op with
  | .read => { s with mgmt := { s.mgmt with spiBuf := writeRun 0 s.mgmt.spiBuf 0 (s.flashAt a len) } }
  | .readSfdp =>
    { s with mgmt := { s.mgmt with
      spiBuf := writeRun 0 s.mgmt.spiBuf 0 (readRun blankFlash s.mgmt.sfdp a len) } }
  | .program =>
    let new := programBytes (s.flashAt a len) (readRun 0 s.mgmt.spiBuf 0 len)
    { s with mgmt := { s.mgmt with flash := writeRun blankFlash s.mgmt.flash a new } }
  | .erase4k | .erase64k =>
    { s with mgmt := { s.mgmt with flash := s.mgmt.flash.filter (fun p => p.1 < a || a + len ≤ p.1) } }

/-- An operation the device reports as failed: what a program or erase left is free, byte by byte, between
the old contents and the new (log 7). -/
def State.spiFailed (s : State) (op : SpiOp) (len : Nat) : State :=
  let a := s.mgmt.spiAddr.toNat
  let after := (s.spiEffect op len).mgmt.flash
  let (n, s) := s.draw
  let mixed := (upTo len).map (fun i =>
    if Config.cutWriteLands (n + i) then getAt blankFlash after (a + i) else getAt blankFlash s.mgmt.flash (a + i))
  match op with
  | .program | .erase4k | .erase64k =>
    { s with free := s.free + len, mgmt := { s.mgmt with flash := writeRun blankFlash s.mgmt.flash a mixed } }
  | _ => s

/-- A program or erase that a start cuts (R502, R549): what it left is free (log 7). -/
def State.cutSpi (s : State) : State := match s.mgmt.spiOp with
  | some (op, len) => s.spiFailed op len
  | none => s

/-! ### Starts (R502) -/

/-- The writes outstanding at a start: each of their units may have landed or not (R488, R502). -/
def State.cutOuts (s : State) : State :=
  s.ports.foldl (fun s p => p.2.outs.foldl (fun s o => match o.2 with
    | some r => if r.isWrite then s.cutOut r else s
    | none => s) s) s

/-- The state after reset release: everything is lost but what lies outside the block (memory, the serial
memory, the fused part, what the mailbox has already sent), the log where it is kept, and the queue. -/
def State.restart (s : State) (log : ErrLog) (power : BlockPower) : State :=
  let cut := s.cutOuts.cutSpi
  { State.reset with
    pending := s.pending, mem := cut.mem, free := cut.free, log := log,
    mgmt := { Mgmt.reset with part := s.mgmt.part, power := power, flash := cut.mgmt.flash,
                              sfdp := s.mgmt.sfdp, mbxOut := s.mgmt.mbxOut,
                              mbxReports := s.mgmt.mbxReports } }

/-- A block reset: the error log is kept (R502); the counts of R484 are not part of it. -/
def State.blockReset (s : State) : State := s.restart { s.log with repeats := [], weakAt := [] } .on

/-- Entry to P3: nothing is kept (R520, R522). -/
def State.enterP3 (s : State) : State := s.restart ErrLog.reset .p3

/-- A thermal trip enters P3 with its cause shown and its entry in the log, which the wake clears (R499, R525, R563). -/
def State.tripP3 (s : State) : State :=
  let t := s.restart s.log .p3
  { t with mgmt := { t.mgmt with cause := 7 } }

/-- No submission ring is enabled and no descriptor is in flight (R522). -/
def State.quiet (s : State) : Bool :=
  s.subs.all (fun r => !r.2.enable) && s.descs.isEmpty && s.loops.all (fun l => !l.2.live)

/-- POWER_ON (R502): rails up and reset released; the log is cleared. -/
def execPowerOn (s : State) : Host.Outcome State Fault Refusal := .next (s.restart ErrLog.reset .on)

/-- BLOCK_RESET (R502): the K3 reset input; a block in P3 has no power to reset. -/
def execBlockReset (s : State) : Host.Outcome State Fault Refusal :=
  .next (if s.mgmt.power = .on then s.blockReset else s)

/-- WAKE_FROM_P3 (R502, R522). -/
def execWakeFromP3 (s : State) : Host.Outcome State Fault Refusal :=
  .next (if s.mgmt.power = .p3 then s.restart ErrLog.reset .on else s)

/-! ### Phases (R504, R506) -/

/-- The next phase. -/
def State.toPhase (s : State) (p : Phase) : State := { s with mgmt := { s.mgmt with phase := p } }

/-- START_FAIL with a cause: logged FATAL and shown in ZT_PWR_STATE (R506, R563). -/
def State.startFail (s : State) (cause : Nat) : State :=
  let s := { s with mgmt := { s.mgmt with phase := .startFail, cause := cause } }
  s.logEvent 0x14 3 0xFF 0 cause

/-- The block is powered and in a phase of start-up. -/
def State.inPhase (s : State) (p : Phase) : Bool := s.mgmt.power == .on && s.mgmt.phase == p

/-- STARTUP_PLL_LOCK (R504, R506). -/
def execStartupPllLock (locked : Bool) (s : State) : Host.Outcome State Fault Refusal :=
  .next (if s.inPhase .reset then (if locked then s.toPhase .sfdp else s.startFail 1) else s)

/-- The highest of 25, 50 and 100 MHz that does not exceed the device's stated frequency (R507). -/
def spiClock (maxMhz : Nat) : Nat := if 100 ≤ maxMhz then 100 else if 50 ≤ maxMhz then 50 else 25

/-- SFDP_DISCOVERY_DONE (R506, R507). -/
def execSfdpDiscoveryDone (f : SfdpFound) (s : State) : Host.Outcome State Fault Refusal :=
  .next (
    if s.inPhase .sfdp then
      if f.readable && 28 ≤ f.logBits && f.fast144 && 25 ≤ f.maxMhz then
        { s with mgmt := { s.mgmt with phase := .factory, spiLogBits := f.logBits,
                                       spiMhz := spiClock f.maxMhz } }
      else s.startFail 2
    else s)

/-! ### Serial-memory records (R510 to R512) -/

/-- Entries of a record: TYPE and value, until `fuel` runs out; none when an entry overruns. -/
def parseEntries : Nat → List Byte → Option (List (Nat × List Byte))
  | 0, bs => if bs.isEmpty then some [] else none
  | _ + 1, [] => some []
  | fuel + 1, bs =>
    let len := fieldOf bs 2 2
    let whole := 4 + 4 * ceilDiv len 4
    if bs.length < 4 || bs.length < whole then none
    else
      match parseEntries fuel (bs.drop whole) with
      | some t => some ((fieldOf bs 0 2, blockBytes bs 4 len) :: t)
      | none => none

/-- Indices an item type has (R512). -/
def calIndices : Nat → Nat
  | 0x0001 => 32
  | 0x0002 => 9
  | 0x0003 => 40
  | 0x0004 => 21
  | 0x0005 => 1
  | 0x0006 => 8
  | _ => 0

/-- The key of a calibration item. -/
def calKey (ty idx : Nat) : Nat := 256 * ty + idx

/-- A known calibration entry has its LEN and an index of its item (R512). -/
def entryOk (len : Nat) (e : Nat × List Byte) : Bool :=
  calIndices e.1 == 0 || (e.2.length == len && fieldOf e.2 0 2 < calIndices e.1)

/-- A record at an address, its entries checked: KIND, LENGTH limit, CRC and form (R510, R511). -/
def State.recordAt (s : State) (a kind maxLen entryLen : Nat) : Option (List Byte × List (Nat × List Byte)) :=
  let h := s.flashAt a 32
  let len := fieldOf h 8 4
  if fieldOf h 0 4 != kind || maxLen < len then none
  else
    let body := s.flashAt (a + 32) len
    if crc32c (h.take 28 ++ body) != fieldOf h 28 4 || !zeroField h 16 12 then none
    else match parseEntries len body with
      | some es => if es.all (entryOk entryLen) then some (h, es) else none
      | none => none

/-- FACTORY_RECORD_READ (R506, R510, R512). -/
def execFactoryRecordRead (s : State) : Host.Outcome State Fault Refusal :=
  .next (
    if s.inPhase .factory then
      match s.recordAt 0 1 (2 ^ 20 - 32) 8 with
      | some (h, es) =>
        if fieldOf h 4 4 != 0 then s.startFail 3
        else
          let cal := es.foldl (fun t e =>
            if calIndices e.1 = 0 then t
            else putAt CalItem.reset t (calKey e.1 (fieldOf e.2 0 2))
              { val := signedOf (fieldOf e.2 2 2) 16, lo := signedOf (fieldOf e.2 4 2) 16,
                hi := signedOf (fieldOf e.2 6 2) 16 }) []
          let map := (es.filter (fun e => e.1 == 0x0100)).flatMap Prod.snd
          { s with mgmt := { s.mgmt with phase := .records, minver := fieldOf h 12 4, calFactory := cal,
                                         repairMap := map } }
      | none => s.startFail 3
    else s)

/-- A rejection in the serial memory logged (R501): offset, and GEN or VERSION. -/
def State.logRecord (s : State) (offset gen : Nat) : State := s.logEvent 0x11 0 7 0 (offset + gen * 2 ^ 32)

/-- Addresses of the user records and images (R508). -/
def recordAddr (b : Bool) : Nat := if b then 0x180000 else 0x100000
/-- Firmware image A or B (R508). -/
def imageAddr (image : Nat) : Nat := if image = 0 then 0x200000 else 0xA00000

/-- The user record that R498 chooses, with its address and entries; damaged and conflicting records are
logged. Equal generations with different contents reject both. -/
def State.chooseRecord (s : State) : State × Option (Nat × Nat × List (Nat × List Byte)) :=
  let a := s.recordAt (recordAddr false) 2 (2 ^ 16 - 32) 4
  let b := s.recordAt (recordAddr true) 2 (2 ^ 16 - 32) 4
  let genAt := fun (r : Bool) => fieldOf (s.flashAt (recordAddr r) 32) 4 4
  match a, b with
  | some (ha, ea), some (hb, eb) =>
    let ga := fieldOf ha 4 4
    let gb := fieldOf hb 4 4
    if ga = gb then
      if ha = hb && ea = eb then (s, some (recordAddr false, ga, ea))
      else (s.logRecord (recordAddr false) ga, none)
    else if gb < ga then (s, some (recordAddr false, ga, ea)) else (s, some (recordAddr true, gb, eb))
  | some (ha, ea), none => (s.logRecord (recordAddr true) (genAt true), some (recordAddr false, fieldOf ha 4 4, ea))
  | none, some (hb, eb) => (s.logRecord (recordAddr false) (genAt false), some (recordAddr true, fieldOf hb 4 4, eb))
  | none, none => ((s.logRecord (recordAddr false) (genAt false)).logRecord (recordAddr true) (genAt true), none)

/-- One user entry applied (R513): the later entry wins; an item the factory record lacks is logged. -/
def State.userEntry (addr gen : Nat) (s : State) (e : Nat × List Byte) : State :=
  if calIndices e.1 = 0 then s
  else
    let k := calKey e.1 (fieldOf e.2 0 2)
    if s.mgmt.calFactory.any (fun p => p.1 == k) then
      { s with mgmt := { s.mgmt with calDelta := putAt 0 s.mgmt.calDelta k (signedOf (fieldOf e.2 2 2) 16) } }
    else s.logRecord addr gen

/-- VERSION of a firmware image's header (R514). -/
def State.imageVersion (s : State) (image : Nat) : Nat := fieldOf (s.flashAt (imageAddr image) 512) 4 4

/-- USER_RECORDS_READ (R498, R511, R516). -/
def execUserRecordsRead (s : State) : Host.Outcome State Fault Refusal :=
  .next (
    if s.inPhase .records then
      let (s, r) := s.chooseRecord
      let s := match r with
        | some (addr, gen, es) => es.foldl (State.userEntry addr gen) s
        | none => s
      let first := if s.imageVersion 0 < s.imageVersion 1 then 1 else 0
      { s with mgmt := { s.mgmt with phase := .calib, choice := some first, tried := [] } }
    else s)

/-- The effective value of a factory item: clamp(VAL + DELTA, LO, HI); none where the factory record lacks
it (R513). -/
def Mgmt.effective (m : Mgmt) (ty idx : Nat) : Option Int :=
  let k := calKey ty idx
  if m.calFactory.any (fun p => p.1 == k) then
    let c := getAt CalItem.reset m.calFactory k
    some (max c.lo (min (c.val + getAt 0 m.calDelta k) c.hi))
  else none

/-- Frequency of a code in MHz (R541). -/
def mhzOf (code : Nat) : Nat := 600 + 25 * code
/-- The code of a frequency, rounded down. -/
def codeOf (mhz : Nat) : Nat := (mhz - 600) / 25
/-- The voltage band of a frequency in MHz (R512). -/
def bandOf (mhz : Nat) : Nat := if mhz < 750 then 0 else if mhz < 900 then 1 else if mhz < 1050 then 2 else 3

/-- The lowest of the four limits with the request and mailbox limits in force (R519). -/
def Cluster.goal (c : Cluster) : Nat := min (min c.appReq c.appMbx) (min (codeOf c.ceilMhz) (codeOf c.thermMhz))

/-- A cluster whose PLLs relock at start-up: it runs at the lowest of its limits (R504, R519). -/
def Cluster.relocked (c : Cluster) : Cluster := { c with cur := c.goal }

/-- CALIBRATION_APPLIED (R504, R513): the throttle point and the ceilings take their effective values, and the PLLs relock: those of
the clusters on the part (R3). -/
def execCalibrationApplied (s : State) : Host.Outcome State Fault Refusal :=
  .next (
    if s.inPhase .calib then
      let pt := (s.mgmt.effective 0x0005 0).getD 800
      let s := { s with mgmt := { s.mgmt with phase := .selftest, calPoint := pt, point := pt } }
      (upTo 8).foldl (fun s n =>
        match s.mgmt.effective 0x0006 n with
        | some f =>
          let c := { s.cluster n with ceilMhz := f.toNat }
          s.setCluster n (if s.mgmt.part.fused.getLsbD n then c.relocked else c)
        | none => s) s
    else s)

/-! ### Self-tests (R506) -/

/-- The clusters that have an unrepaired fault. -/
def faultyClusters (f : SramFaults) : List Nat := f.clusters.map (fun x => x.1)

/-- A mask with some clusters removed. -/
def dropClusters (m : BitVec 8) (gone : List Nat) : BitVec 8 :=
  gone.foldl (fun m n => m &&& ~~~(1#8 <<< n)) m

/-- The outcome of the SRAM self-test on the enabled clusters and control cores (R506). -/
def State.selftest (s : State) (f : SramFaults) : State :=
  let s := f.clusters.foldl (fun s x => s.logEvent 0x02 2 0 (4 * x.1 + x.2.1) x.2.2) s
  let s := f.ccores.foldl (fun s c => s.setCcore c { inService := false, restarted := false }) s
  let s := { s with mgmt := { s.mgmt with clmask := dropClusters s.mgmt.part.fused (faultyClusters f) } }
  if (upTo 4).all (fun c => !(s.ccore c).inService) then s.startFail 4
  else if f.shared || s.mgmt.clmask == 0 then s.startFail 5
  else s.toPhase .sfucheck

/-- SRAM_SELFTEST_DONE (R506, R24). -/
def execSramSelftestDone (f : SramFaults) (s : State) : Host.Outcome State Fault Refusal :=
  .next (if s.inPhase .selftest then s.selftest f else s)

/-- A seed table that failed twice: recovery on its core, logged (R148, R506). -/
def State.seedFallback (s : State) (x : Nat × Nat) : State :=
  let k := s.core x.1
  let t := getAt SeedTab.reset k.seeds x.2
  (s.setCore x.1 { k with seeds := putAt SeedTab.reset k.seeds x.2 { t with recovery := true } }).logEvent
    0x03 2 0 x.1 x.2

/-- SFU_SEED_CHECK_DONE (R147, R506): (core, function) pairs whose seed table failed twice, and the cores
whose segment table did. -/
def execSfuSeedCheckDone (seedFails : List (Nat × Nat)) (segFails : List Nat) (s : State) :
    Host.Outcome State Fault Refusal :=
  .next (
    if s.inPhase .sfucheck then
      let s := (seedFails.filter (fun x => s.clusterOn (x.1 / 4))).foldl State.seedFallback s
      let s := { s with mgmt := { s.mgmt with
                                    clmask := dropClusters s.mgmt.clmask (segFails.map (· / 4)) } }
      if s.mgmt.clmask == 0 then s.startFail 5 else s.toPhase .fwsig
    else s)

/-! ### Firmware images (R514 to R516) -/

/-- An image header's form and version (R514, R515). -/
def State.imageHeaderOk (s : State) (image : Nat) : Bool :=
  let h := s.flashAt (imageAddr image) 512
  fieldOf h 0 4 == 0x4631535A && fieldOf h 8 4 ≤ 6 * 2 ^ 20 - 512 && zeroField h 12 4 && zeroField h 256 256
    && s.mgmt.minver ≤ fieldOf h 4 4

/-- The image being tried rejected and logged; the other is tried once, or start-up stops (R516). -/
def State.rejectImage (s : State) (image : Nat) : State :=
  let s := s.logRecord (imageAddr image) (s.imageVersion image)
  if s.mgmt.tried.isEmpty then
    { s with mgmt := { s.mgmt with tried := [image], choice := some (1 - image), phase := .fwsig } }
  else s.startFail 6

/-- FWSIG_CHECK_DONE (R515, R516): `sigOk` says that the public key's hash and the signature check. -/
def execFwsigCheckDone (sigOk : Bool) (s : State) : Host.Outcome State Fault Refusal :=
  .next (
    if s.inPhase .fwsig then
      match s.mgmt.choice with
      | some i => if sigOk && s.imageHeaderOk i then s.toPhase .fwread else s.rejectImage i
      | none => s
    else s)

/-- FWREAD_DONE (R515, R516): `hashOk` says that the payload's SHA-384 equals PHASH. -/
def execFwreadDone (hashOk : Bool) (s : State) : Host.Outcome State Fault Refusal :=
  .next (
    if s.inPhase .fwread then
      match s.mgmt.choice with
      | some i => if hashOk then s.toPhase .fwload else s.rejectImage i
      | none => s
    else s)

/-- FWLOAD_READY (R504, R505): firmware starts and the engine is READY. -/
def execFwloadReady (s : State) : Host.Outcome State Fault Refusal :=
  .next (
    if s.inPhase .fwload then
      { s with mgmt := { s.mgmt with phase := .ready, image := s.mgmt.choice.getD 0 } }
    else s)

/-- REGISTER_PORT_READY (R505). -/
def execRegisterPortReady (s : State) : Host.Outcome State Fault Refusal :=
  .next (if s.mgmt.power = .on then { s with mgmt := { s.mgmt with portReady := true } } else s)

/-- MAILBOX_STATUS_READY (R505). -/
def execMailboxStatusReady (s : State) : Host.Outcome State Fault Refusal :=
  .next (if s.mgmt.power = .on then { s with mgmt := { s.mgmt with mbxReady := true } } else s)

/-! ### The management mailbox (R505) -/

/-- A reply given. -/
def State.mbxSay (s : State) (r : MbxReply) : State :=
  { s with mgmt := { s.mgmt with mbxOut := s.mgmt.mbxOut ++ [r] } }

/-- A request other than a status request: BUSY until READY, nothing while the mailbox does not answer. -/
def State.mbxRequest (s : State) (act : State → State) : State :=
  if s.mgmt.power = .on && s.mgmt.mbxReady then
    (if s.mgmt.phase = .ready then act s else s.mbxSay .busy)
  else s

/-- MBX_STATUS_REQUEST (R505, R506): the phase and the cause. -/
def execMbxStatusRequest (s : State) : Host.Outcome State Fault Refusal :=
  .next (if s.mgmt.power = .on && s.mgmt.mbxReady then s.mbxSay (.status s.mgmt.phase s.mgmt.cause) else s)

/-- MBX_FREQ_LIMIT (R34): in force from the cluster's next kernel boundary. -/
def execMbxFreqLimit (cluster code : Nat) (s : State) : Host.Outcome State Fault Refusal :=
  .next (s.mbxRequest (fun s =>
    if cluster < 8 && code ≤ 24 then (s.setCluster cluster { s.cluster cluster with mbxLim := code }).mbxSay .done
    else s))

/-- MBX_RESET (R502). -/
def execMbxReset (s : State) : Host.Outcome State Fault Refusal :=
  .next (s.mbxRequest (fun s => (s.mbxSay .done).blockReset))

/-- MBX_P3 (R522). -/
def execMbxP3 (s : State) : Host.Outcome State Fault Refusal :=
  .next (s.mbxRequest (fun s => if s.quiet then (s.mbxSay .done).enterP3 else s.mbxSay .busy))

/-- MBX_P3_FORCE (R522): P3 at once; work in flight is cut. -/
def execMbxP3Force (s : State) : Host.Outcome State Fault Refusal :=
  .next (s.mbxRequest (fun s => (s.mbxSay .done).enterP3))

/-- MBX_WAKE (R502): a wake request brings the block out of P3. -/
def execMbxWake (s : State) : Host.Outcome State Fault Refusal :=
  .next (if s.mgmt.power = .p3 then s.restart ErrLog.reset .on else s)

/-- What is lost for good: a memory stack, or shared state that has no retained copy (R381, R488, R563; DESIGN CHOICE, log 68: the
table's command tells of either). -/
def State.sharedLost (s : State) : SharedLoss → State
  | .stack n => (s.logEvent 0x12 3 0xFF 0 (n % 256)).enterFatal 8
  | .tagTable | .credits | .loomRouting => s.enterFatal 10

/-- MEMORY_STACK_LOST (R381, R488). -/
def execMemoryStackLost (loss : SharedLoss) (s : State) : Host.Outcome State Fault Refusal :=
  .next (if s.mgmt.power = .on then s.sharedLost loss else s)

end Sys2Proof.Machine
end

