-- ==== Sys2Proof/Machine/Clocks.lean ====
section
/-!
DEFINITION. Cluster clocks, power states, thermal limits and demand reports (R519 to R526, R541 to R547).
-/

namespace Sys2Proof.Machine

/-- TARGET: the lowest of the four limits as last set (R541). -/
def Cluster.target (c : Cluster) : Nat := min (min c.req c.mbxLim) (min (codeOf c.ceilMhz) (codeOf c.thermMhz))

/-- A change begun toward the goal, unless one is in progress (R519): a lower relocks and switches, a raise
waits for power-good. -/
def Cluster.startChange (c : Cluster) : Cluster :=
  if c.change = .none then
    if c.goal < c.cur then { c with change := .relock c.goal }
    else if c.cur < c.goal then { c with change := .awaitPower c.goal }
    else c
  else c

/-- Cluster `n` is on the part: the clock of one fused off is stopped (R3). -/
def State.clusterFitted (s : State) (n : Nat) : Bool := s.mgmt.part.fused.getLsbD n

/-- Cluster `n` put to other limits: where its clock runs, a change of its frequency begins (R3, R519). -/
def State.relimit (s : State) (n : Nat) (c : Cluster) : State := s.setCluster n (if s.clusterFitted n then c.startChange else c)

/-- A kernel boundary on a cluster: the request and mailbox limits come into force (R33, R34, R519). -/
def State.clockBoundary (s : State) (n : Nat) : State :=
  let c := s.cluster n
  s.relimit n { c with appReq := c.req, appMbx := c.mbxLim }

/-- A cluster switches to the frequency of its change, and a new target is then taken up (R519). -/
def State.switchClock (s : State) (n k : Nat) : State := s.relimit n { s.cluster n with cur := k, change := .none }

/-- PLL_RELOCK_DONE (R519): the switch to a lower frequency; a new target is then taken up. -/
def execPllRelockDone (cluster : Nat) (s : State) : Host.Outcome State Fault Refusal :=
  .next (
    let c := s.cluster cluster
    match c.change with
    | .relock k => if s.clusterFitted cluster then s.switchClock cluster k else s
    | _ => s)

/-- POWER_GOOD (R519): the switch to a raised frequency. -/
def execPowerGood (cluster : Nat) (s : State) : Host.Outcome State Fault Refusal :=
  .next (
    let c := s.cluster cluster
    match c.change with
    | .awaitPower k => if s.clusterFitted cluster then s.switchClock cluster k else s
    | _ => s)

/-- The storage of ZT_CLK_REQn and ZT_PWR_FLIMn written (R541, R542). -/
def State.freqWrite (s : State) (offset cluster : Nat) (value : Word) : State :=
  let code := bitsOf value.toNat 0 5
  if code ≤ 24 then s.setCluster cluster { s.cluster cluster with req := code } else s.cfgIgnored offset

/-- ZT_CLK_REQ_WRITE (R541): taken after READY. -/
def execZtClkReqWrite (cluster : Nat) (value : Word) (s : State) : Host.Outcome State Fault Refusal :=
  .next (
    if !s.portOk || 8 ≤ cluster then s
    else if s.mgmt.phase = .ready then s.freqWrite (0x0C00 + 8 * cluster) cluster value
    else s.cfgIgnored (0x0C00 + 8 * cluster))

/-- ZT_PWR_FLIM_WRITE (R542): a ZT_PWR_ register, written in every phase (R505). -/
def execZtPwrFlimWrite (cluster : Nat) (value : Word) (s : State) : Host.Outcome State Fault Refusal :=
  .next (if !s.portOk || 8 ≤ cluster then s else s.freqWrite (0x0D80 + 4 * cluster) cluster value)

/-! ### Cluster power states (R520 to R523, R545) -/

/-- An enabled context names a cluster. -/
def State.clusterNamed (s : State) (n : Nat) : Bool :=
  s.ctxs.any (fun p => p.2.enable && p.2.clusters.toNat.testBit n)

/-- A wake asked for: from P2 at once, during P2 entry after it completes (R521). -/
def Cluster.woken (c : Cluster) : Cluster :=
  if c.pwr = .p2 then { c with pwr := .changing } else if c.entering then { c with wakeAfter := true } else c

/-- A cluster asked to wake. -/
def State.wakeCluster (s : State) (n : Nat) : State := s.setCluster n (s.cluster n).woken

/-- REQ of ZT_PWR_CLn written (R33, R543, R545): P1 is entered and left at kernel boundaries, and P2 is refused while an
enabled context names the cluster. -/
def State.powerRequest (s : State) (n req : Nat) : State :=
  let off := 0x0D40 + 4 * n
  let c := s.cluster n
  match req with
  | 0 => s.setCluster n ({ c with pwrReq := 0 } : Cluster).woken
  | 1 => s.setCluster n ({ c with pwrReq := 1 } : Cluster).woken
  | 2 =>
    if s.clusterNamed n then s.cfgIgnored off
    else if c.pwr = .p2 || c.entering then s.setCluster n { c with pwrReq := 2 }
    else s.setCluster n { c with pwrReq := 2, pwr := .changing, entering := true }
  | _ => s

/-- A ZT_PWR_CLn write: REQ of a cluster that is not enabled is stored only (R10). The reserved code 3 writes nothing (DESIGN
CHOICE, log 54: R11 says only that it must not be used). -/
def State.powerWrite (s : State) (n req : Nat) : State :=
  if !s.portOk || 8 ≤ n || 3 ≤ req then s
  else if s.clusterOn n then s.powerRequest n req
  else s.setCluster n { s.cluster n with pwrReq := req }

/-- The state that ZT_PWR_CLn shows: a cluster fused off is powered down (R3). -/
def State.clusterPower (s : State) (n : Nat) : PwrState :=
  if s.clusterFitted n then (s.cluster n).pwr else .p2

/-- CLUSTER_P0_REQUEST (R545). -/
def execClusterP0Request (cluster : Nat) (s : State) : Host.Outcome State Fault Refusal :=
  .next (s.powerWrite cluster 0)

/-- CLUSTER_P1_REQUEST (R545). -/
def execClusterP1Request (cluster : Nat) (s : State) : Host.Outcome State Fault Refusal :=
  .next (s.powerWrite cluster 1)

/-- CLUSTER_P2_REQUEST (R521). -/
def execClusterP2Request (cluster : Nat) (s : State) : Host.Outcome State Fault Refusal :=
  .next (s.powerWrite cluster 2)

/-- A kernel boundary's effect on a cluster's P1 (R520, R545): `busy` says a kernel starts or is ready. -/
def State.powerBoundary (s : State) (n : Nat) (busy : Bool) : State :=
  let c := s.cluster n
  if busy then (if c.pwr = .p1 then s.setCluster n { c with pwr := .p0 } else s)
  else if c.pwrReq = 1 && c.pwr = .p0 then s.setCluster n { c with pwr := .p1 }
  else if c.pwrReq = 0 && c.pwr = .p1 then s.setCluster n { c with pwr := .p0 }
  else s

/-- Every bank of a cluster has a write-tag count of zero (R324). -/
def State.clusterDrained (s : State) (n : Nat) : Bool :=
  (upTo 4).all (fun i => (s.core (4 * n + i)).banks.all (fun b => b.2.wtag == 0))

/-- The Piste regions and cores of a cluster, with nothing kept. -/
def State.loseCluster (s : State) (n : Nat) : State :=
  let s := (upTo 4).foldl (fun s i => s.setCore (4 * n + i) Core.reset) s
  (upTo 32).foldl (fun s ctx => s.setPiste n ctx Piste.reset) s

/-- CLUSTER_P2_ENTRY (R520, R521). -/
def execClusterP2Entry (cluster : Nat) (s : State) : Host.Outcome State Fault Refusal :=
  .next (
    let c := s.cluster cluster
    if c.entering && !c.ramping && s.clusterDrained cluster then
      (s.loseCluster cluster).setCluster cluster
        { c with entering := false, wakeAfter := false, pwr := if c.wakeAfter then .changing else .p2 }
    else s)

/-- CLUSTER_RAMP_START (R523): no earlier than 20 µs (20,000 CLK_CTL cycles) after the previous one. -/
def execClusterRampStart (cluster : Nat) (s : State) : Host.Outcome State Fault Refusal :=
  .next (
    let c := s.cluster cluster
    let free := match s.mgmt.lastRamp with
      | none => true
      | some t => t + 20000 ≤ s.clkCtl
    if c.pwr = .changing && !c.entering && !c.ramping && free then
      let s := s.setCluster cluster { c with ramping := true }
      { s with mgmt := { s.mgmt with lastRamp := some s.clkCtl } }
    else s)

/-- CLUSTER_WAKE_DONE (R520): ramped, locked, the OSP cleared. -/
def execClusterWakeDone (cluster : Nat) (s : State) : Host.Outcome State Fault Refusal :=
  .next (
    let c := s.cluster cluster
    if c.ramping then s.setCluster cluster { c with ramping := false, pwr := if c.entering then .changing else .p0 } else s)

/-! ### Telemetry (R524 to R526, R546, R547) -/

/-- Sensor `n`. -/
def State.sensor (s : State) (n : Nat) : Sensor := getAt Sensor.reset s.mgmt.sensors n

/-- A sensor's value in 0.125 °C units, with its calibrated offset (R524). -/
def State.sampled (s : State) (n : Nat) (raw : BitVec 16) : BitVec 16 :=
  raw + BitVec.ofInt 16 ((s.mgmt.effective 0x0003 n).getD 0)

/-- THERMAL_SAMPLE (R524, R525): the sample is stored; at or above the trip point the engine logs FATAL
THERMAL, reports it and enters P3. -/
def execThermalSample (sensor : Nat) (raw : BitVec 16) (s : State) : Host.Outcome State Fault Refusal :=
  .next (
    if s.mgmt.power = .on && sensor < 40 then
      let t := s.sampled sensor raw
      let s := { s with mgmt := { s.mgmt with
        sensors := putAt Sensor.reset s.mgmt.sensors sensor { temp := t, valid := true } } }
      if s.mgmt.point + 120 ≤ t.toInt then (s.logEvent 0x14 3 0xFF 0 7).tripP3 else s
    else s)

/-- The sensors that throttle a cluster: its own four and the shared blocks' (R524). -/
def throttleSensors (n : Nat) : List Nat := (upTo 4).map (4 * n + ·) ++ (upTo 8).map (32 + ·)

/-- The sampled temperatures that throttle a cluster. -/
def State.temps (s : State) (n : Nat) : List Int :=
  ((throttleSensors n).map s.sensor).filterMap (fun x => if x.valid then some x.temp.toInt else none)

/-- THROTTLE_STEP (R524): down 50 MHz while hot, up 50 MHz while cool and the limit binds. -/
def execThrottleStep (cluster : Nat) (s : State) : Host.Outcome State Fault Refusal :=
  .next (
    if s.mgmt.power = .on && cluster < 8 then
      let c := s.cluster cluster
      let ts := s.temps cluster
      let others := min (min (mhzOf c.req) (mhzOf c.mbxLim)) c.ceilMhz
      if ts.any (fun t => s.mgmt.point < t) then
        s.relimit cluster { c with thermMhz := max 600 (c.thermMhz - 50) }
      else if ts.all (fun t => t + 40 < s.mgmt.point) && c.thermMhz < others then
        s.relimit cluster { c with thermMhz := min 1200 (c.thermMhz + 50) }
      else s
    else s)

/-- DEMAND_REPORT (R526, R546): 0.5 A units; a raise of more than 20 A is an early report. -/
def execDemandReport (halfAmps : Nat) (s : State) : Host.Outcome State Fault Refusal :=
  .next (
    if s.mgmt.power = .on then
      { s with mgmt := { s.mgmt with demand := halfAmps % 4096, early := s.mgmt.demand + 40 < halfAmps % 4096 } }
    else s)

/-- POINT written: never above the effective calibrated value (R547). -/
def State.throttleWrite (s : State) (value : Word) : State :=
  { s with mgmt := { s.mgmt with point := min (signedOf value.toNat 16) s.mgmt.calPoint } }

/-- ZT_TEL_THROTTLE_WRITE (R547). -/
def execZtTelThrottleWrite (value : Word) (s : State) : Host.Outcome State Fault Refusal :=
  .next (if s.portOk then s.throttleWrite value else s)

/-- ZT_PWR_CMD refused: CMDREF (R544). -/
def State.cmdRefused (s : State) : State := { s with mgmt := { s.mgmt with cmdref := true } }

/-- ZT_PWR_CMD written (R544). -/
def State.pwrCmd (s : State) (cmd key : Nat) : State :=
  if key != 0x5A31 then s.cmdRefused
  else match cmd with
    | 0x01 => s.blockReset
    | 0x02 => if s.quiet then s.enterP3 else s.cmdRefused
    | _ => s.cmdRefused

/-- PWR_CMD_BLOCK_RESET (R544). -/
def execPwrCmdBlockReset (key : BitVec 16) (s : State) : Host.Outcome State Fault Refusal :=
  .next (if s.portOk then s.pwrCmd 0x01 key.toNat else s)

/-- PWR_CMD_ENTER_P3 (R544, R522). -/
def execPwrCmdEnterP3 (key : BitVec 16) (s : State) : Host.Outcome State Fault Refusal :=
  .next (if s.portOk then s.pwrCmd 0x02 key.toNat else s)

end Sys2Proof.Machine
end

