-- ==== Sys2Proof/Machine/Setup.lean ====
section
/-!
DEFINITION. Partitions, contexts and rings: their parameters, enables and disables, and the turns of cluster
sets (R451 to R453, R470, R473, R479, R533, R534).
-/

namespace Sys2Proof.Machine

/-! ### Turns (R470, R473) -/

/-- The enabled contexts of a context's cluster set, increasing. -/
def State.clusterSet (s : State) (ctx : Nat) : List Nat :=
  (upTo 32).filter (fun c => (s.ctx c).enable && (s.ctx c).clusters == (s.ctx ctx).clusters)

/-- A context has a kernel ready to start or to resume: a descriptor of class K, or a step of a loop (R271). -/
def State.kernelReady (s : State) (ctx : Nat) : Bool :=
  s.descs.any (fun x => x.ctx == ctx && isKernelOp x.opcode && x.st == .running)
    || s.loops.any (fun l => l.2.live && l.2.desc.ctx == ctx && !l.2.idle)

/-- The contexts that take turns with one, on its cluster set or, with `u`, on its control core (R470, R472). -/
def State.turnSet (s : State) (u : Bool) (ctx : Nat) : List Nat := if u then s.unitSet ctx else s.clusterSet ctx

/-- A context has work for its turn and is not stopped (R470, R479). -/
def State.turnReady (s : State) (u : Bool) (ctx : Nat) : Bool :=
  !(s.ctx ctx).stopped && (if u then s.unitReady ctx else s.kernelReady ctx)

/-- A context's budget of a kind. -/
def CtxCfg.bud (c : CtxCfg) (u : Bool) : Int := if u then c.uBudget else c.budget
/-- That budget made `b`, its turn begun or over. -/
def CtxCfg.withTurn (c : CtxCfg) (u on : Bool) (b : Int) : CtxCfg :=
  if u then { c with uTurn := on, uExpired := false, uBudget := b } else { c with turn := on, expired := false, budget := b }
/-- SLICE gained for each of `n` turns skipped. -/
def CtxCfg.gain (c : CtxCfg) (u : Bool) (n : Nat) : CtxCfg :=
  if u then { c with uBudget := c.uBudget + c.slice * n } else { c with budget := c.budget + c.slice * n }

/-- The turns that a context skips until its budget is above zero (R473). -/
def CtxCfg.skips (c : CtxCfg) (u : Bool) : Nat :=
  if 0 < c.bud u ∨ c.slice = 0 then 0 else (-(c.bud u)).toNat / c.slice + 1

/-- A turn begun on a context, which has skipped those that its budget did not allow (R473). -/
def State.beginTurnOf (s : State) (u : Bool) (ctx : Nat) : State :=
  let c := (s.ctx ctx).gain u ((s.ctx ctx).skips u)
  s.setCtx ctx (c.withTurn u true (c.bud u))

/-- The turn given to the first of these contexts that may take it, in their order round and round: one without ready work or
stopped is passed over, and one whose budget is not above zero skips its turn and gains SLICE (R473, R479). -/
def State.giveTurnOf (s : State) (u : Bool) (cs : List Nat) : State :=
  let ready := cs.filter (s.turnReady u)
  match (ready.map (fun c => (s.ctx c).skips u)).min? with
  | none => s
  | some m =>
    let win := ready.find? (fun c => (s.ctx c).skips u == m)
    let ahead := ready.takeWhile (fun c => some c != win)
    let s := ready.foldl (fun s c =>
      if some c = win then s
      else s.setCtx c ((s.ctx c).gain u (min ((s.ctx c).skips u) (if ahead.contains c then m + 1 else m)))) s
    match win with
    | some c => s.beginTurnOf u c
    | none => s

/-- The contexts after one in increasing order, wrapping around, itself last. -/
def turnOrder (set : List Nat) (ctx : Nat) : List Nat :=
  set.filter (fun c => ctx < c) ++ set.filter (fun c => c ≤ ctx)

/-- A context's turn ends with an overrun, and the next one's begins (R470, R472, R473). -/
def State.passTurnOf (s : State) (u : Bool) (ctx overrun : Nat) : State :=
  let k := s.ctx ctx
  (s.setCtx ctx (k.withTurn u false (k.slice - overrun))).giveTurnOf u (turnOrder (s.turnSet u ctx) ctx)

/-- The turn of a context's cluster set begun. -/
def State.beginTurn (s : State) (ctx : Nat) : State := s.beginTurnOf false ctx
/-- It is given on. -/
def State.giveTurn (s : State) (cs : List Nat) : State := s.giveTurnOf false cs
/-- It passes on. -/
def State.passTurn (s : State) (ctx overrun : Nat) : State := s.passTurnOf false ctx overrun

/-- The control core's turn taken for a context's command that starts, unless another context with a command has it (R472). -/
def State.takeUnit (s : State) (x : Desc) : State :=
  let cs := s.unitSet x.ctx
  if !isUnitOp x.opcode || (s.ctx x.ctx).uTurn || cs.any (fun c => (s.ctx c).uTurn && s.unitReady c) then s
  else (cs.foldl (fun s c => if (s.ctx c).uTurn then s.setCtx c { s.ctx c with uTurn := false } else s) s).beginTurnOf true x.ctx

/-! ### Ring memory -/

/-- Header and entries of a ring of 2^l entries of `n` bytes (R277, R447). -/
def ringSpan (l n : Nat) : Nat := 128 + n * 2 ^ l

/-- Two byte intervals intersect. -/
def meets (a n b m : Nat) : Bool := a < b + m && b < a + n

/-- The memory of every enabled ring, with a number that tells them apart: submission rings 0–63, completion
rings 64–127, fault rings 128–135 (R452). -/
def State.ringMemory (s : State) : List (Nat × Nat × Nat) :=
  (s.subs.filter (fun p => p.2.enable)).map (fun p => (p.1, p.2.base, ringSpan p.2.l 64))
    ++ (s.comps.filter (fun p => p.2.enable)).map (fun p => (64 + p.1, p.2.base, ringSpan p.2.l 32))
    ++ (s.parts.filter (fun p => p.2.enable)).map (fun p => (128 + p.1, p.2.fbase, ringSpan p.2.fl 32))

/-- Memory that no other enabled ring overlaps. -/
def State.ringFree (s : State) (key base span : Nat) : Bool :=
  s.ringMemory.all (fun r => r.1 == key || !meets base span r.2.1 r.2.2)

/-- An address whose chip id is the local one (R382). -/
def State.localAddr (s : State) (a : Nat) : Bool := bitsOf a 45 12 == s.mgmt.part.chip.toNat && a < 2 ^ 57

/-- Two runs of numbers intersect: first and count − 1. -/
def runsMeet (a n b m : Nat) : Bool := a ≤ b + m && b ≤ a + n

/-- An index in a ring's header: the engine's own index is read there when the ring is enabled (R277, R479;
DEDUCED, log 3). -/
def State.ringIndex (s : State) (base at_ : Nat) : Word := BitVec.ofNat 32 (leNat (s.memAt (base + at_) 4))

/-! ### Partitions (R451, R452, R533, R537) -/

/-- What an enable of partition `n` needs. -/
def State.partOk (s : State) (n : Nat) (p : PartCfg) : Bool :=
  s.verSel != 0 && (p.clusters &&& ~~~s.mgmt.clmask) == 0 && 6 ≤ p.fl && p.fl ≤ 16
    && p.seqBase + p.seqCntM1 ≤ 65535 && p.hBase + p.hCntM1 ≤ 16383 && p.rate ≤ 98304
    && 64 ≤ p.burst && p.burst ≤ 2 ^ 20 && s.localAddr p.fbase && s.localAddr p.fmsg
    && s.ringFree (128 + n) p.fbase (ringSpan p.fl 32)
    && s.parts.all (fun q => q.1 == n || !q.2.enable
        || ((q.2.clusters &&& p.clusters) == 0 && !runsMeet q.2.seqBase q.2.seqCntM1 p.seqBase p.seqCntM1
            && !runsMeet q.2.hBase q.2.hCntM1 p.hBase p.hCntM1))

/-- ENABLE = 1 written to ZT_PART_CFGn: the fields are stored, then the enable is checked (R533); the bucket
starts full (R469), and fault records follow the PROD of the fault ring's header (log 3). -/
def State.partEnable (s : State) (n : Nat) (value : Word) : State :=
  let p := s.part n
  if p.enable then s
  else
    let v := value.toNat
    let p := { p with admin := bitOf v 1, clusters := BitVec.ofNat 8 (bitsOf v 8 8), fl := bitsOf v 24 5 }
    if s.partOk n p then s.setPart n
        { p with enable := true, tokens := p.burst, faultProd := s.ringIndex p.fbase 0 }
    else (s.setPart n p).cfgIgnored (0x0100 + 64 * n)

/-- ENABLE = 0 written to ZT_PART_CFGn: on a disabled partition the fields are stored (R533); an enabled one
needs its contexts and completion rings disabled (R453). -/
def State.partDisable (s : State) (n : Nat) (value : Word) : State :=
  let p := s.part n
  if !p.enable then
    let v := value.toNat
    s.setPart n { p with admin := bitOf v 1, clusters := BitVec.ofNat 8 (bitsOf v 8 8), fl := bitsOf v 24 5 }
  else if s.ctxs.any (fun c => c.2.enable && c.2.part == n) || s.comps.any (fun c => c.2.enable && c.2.part == n)
  then s.cfgIgnored (0x0100 + 64 * n)
  else s.setPart n { p with enable := false }

/-- A set-up write performed: the port answers, and the engine is READY (R505). -/
def State.setupWrite (s : State) (offset : Nat) (act : State → State) : State :=
  if !s.portOk then s else if s.mgmt.phase = .ready then act s else s.cfgIgnored offset

/-- PARTITION_ENABLE (R533, R537). -/
def execPartitionEnable (n : Nat) (value : Word) (s : State) : Host.Outcome State Fault Refusal :=
  .next (
    if n < 8 && value.getLsbD 0 then s.setupWrite (0x0100 + 64 * n) (fun s => s.partEnable n value) else s)

/-- PARTITION_DISABLE (R453). -/
def execPartitionDisable (n : Nat) (value : Word) (s : State) : Host.Outcome State Fault Refusal :=
  .next (
    if n < 8 && !value.getLsbD 0 then s.setupWrite (0x0100 + 64 * n) (fun s => s.partDisable n value) else s)

/-! ### Contexts (R451 to R453, R479, R538) -/

/-- The control core that serves a context: context mod 4, or the next healthy one in the order c + 1, c + 2,
c + 3 (R25, R30). -/
def State.healthyOwner (s : State) (c : Nat) : Nat :=
  match ([0, 1, 2, 3].map (fun i => (c + i) % 4)).find? (fun k => (s.ccore k).inService) with
  | some k => k
  | none => c % 4

/-- What an enable of context `n` needs. -/
def State.ctxOk (s : State) (n : Nat) (c : CtxCfg) : Bool :=
  s.verSel != 0 && !c.stopped && (s.part c.part).enable && (c.clusters &&& ~~~(s.part c.part).clusters) == 0
    && 2 ^ 10 ≤ c.slice && c.slice ≤ 2 ^ 26
    && s.ctxs.all (fun q => q.1 == n || !q.2.enable || q.2.clusters == c.clusters
        || (q.2.clusters &&& c.clusters) == 0)
    && (s.ctxs.filter (fun q => q.1 != n && q.2.enable && q.2.clusters == c.clusters)).length < 4

/-- The fields of a ZT_CTX_CFGn write. -/
def ctxFields (c : CtxCfg) (value : Word) : CtxCfg :=
  { c with part := bitsOf value.toNat 4 3, clusters := BitVec.ofNat 8 (bitsOf value.toNat 8 8) }

/-- ENABLE = 1 written to ZT_CTX_CFGn (R533, R538): an accepted enable wakes clusters in P2 (R521). -/
def State.ctxEnable (s : State) (n : Nat) (value : Word) : State :=
  let c := s.ctx n
  if c.enable then (if c.stopped then s.cfgIgnored (0x0400 + 16 * n) else s)
  else
    let c := ctxFields c value
    if s.ctxOk n c then
      let s := s.setCtx n { c with enable := true, owner := s.healthyOwner n, budget := c.slice, turn := false, uTurn := false,
                                   uExpired := false, uBudget := c.slice,
                                   expired := false, reported := false, teardown := none }
      (maskOnes c.clusters.toNat 8).foldl State.wakeCluster s
    else (s.setCtx n c).cfgIgnored (0x0400 + 16 * n)

/-- An OSP bank of a core. -/
def Core.bank (k : Core) (b : Nat) : Bank := getAt Bank.reset k.banks b
/-- That bank made `v`. -/
def Core.setBank (k : Core) (b : Nat) (v : Bank) : Core := { k with banks := putAt Bank.reset k.banks b v }
/-- The area of a context on a core (R300). -/
def Core.area (k : Core) (ctx : Nat) : Area := getAt Area.reset k.areas ctx

/-- A bank whose area is released without a new owner (R325): it drains, and no port is granted. -/
def Bank.released (b : Bank) : Bank :=
  { b with rdown := 0, wrown := 0, classClear := false, wake := false,
           st := match b.st with
             | .on | .wake | .clearing => .drain
             | st => st }

/-- The area of a context on a core given back (R303, R325); its banks are free once none has a write in flight. -/
def Core.releaseArea (k : Core) (ctx : Nat) : Core :=
  let a := k.area ctx
  let k := (upTo (a.bound / 512)).foldl (fun k i => k.setBank (a.base / 512 + i) (k.bank (a.base / 512 + i)).released) k
  { k with areas := putAt Area.reset k.areas ctx Area.reset,
           leaving := if a.used then k.leaving ++ [(a.base, a.bound)] else k.leaving }

/-- The remote windows of a context on a core closed; their generations stay (R316). -/
def Core.closeWins (k : Core) (ctx : Nat) : Core :=
  { k with wins := (k.wins.map (fun p =>
      (p.1, if p.2.isOpen && p.2.ctx == ctx then { RWindow.reset with gen := p.2.gen } else p.2))).filter (fun p => p.2 != RWindow.reset) }

/-- The areas of a context given back on every core, with the windows open into them (R302, R303). -/
def State.releaseAreas (s : State) (ctx : Nat) : State :=
  (upTo 32).foldl (fun s c =>
    if (s.core c).area ctx = Area.reset then s else s.setCore c (((s.core c).closeWins ctx).releaseArea ctx)) s

/-- The areas, micro-program slots and Piste regions of a context given back (R161, R303, R329). -/
def State.releaseContext (s : State) (ctx : Nat) : State :=
  let s := (upTo 32).foldl (fun s c =>
    let k := s.core c
    if k.uprogs.any (fun p => p.2.ctx == some ctx) then
      s.setCore c { k with
        uprogs := k.uprogs.map (fun p => (p.1, if p.2.ctx = some ctx then { p.2 with ctx := none } else p.2)) }
    else s) (s.releaseAreas ctx)
  (upTo 8).foldl (fun s n => s.setPiste n ctx Piste.reset) s

/-- ENABLE = 0 written to ZT_CTX_CFGn (R453, R479, R538): the rings are disabled first, and after a teardown
its record has landed. -/
def State.ctxDisable (s : State) (n : Nat) (value : Word) : State :=
  let c := s.ctx n
  if !c.enable then s.setCtx n (ctxFields c value)
  else if s.subs.any (fun r => r.2.enable && r.2.ctx == n) || (c.stopped && !c.reported) then
    s.cfgIgnored (0x0400 + 16 * n)
  else
    let s := if c.turn then s.passTurn n 0 else s
    let s := if c.uTurn then s.passTurnOf true n 0 else s
    (s.releaseContext n).setCtx n
      { (s.ctx n) with enable := false, stopped := false, teardown := none, reported := false, turn := false, uTurn := false }

/-- CONTEXT_ENABLE (R533, R538). -/
def execContextEnable (n : Nat) (value : Word) (s : State) : Host.Outcome State Fault Refusal :=
  .next (
    if n < 32 && value.getLsbD 0 then s.setupWrite (0x0400 + 16 * n) (fun s => s.ctxEnable n value) else s)

/-- CONTEXT_DISABLE (R453, R479). -/
def execContextDisable (n : Nat) (value : Word) (s : State) : Host.Outcome State Fault Refusal :=
  .next (
    if n < 32 && !value.getLsbD 0 then s.setupWrite (0x0400 + 16 * n) (fun s => s.ctxDisable n value) else s)

/-! ### Rings (R447, R451 to R453, R533, R534, R539) -/

/-- What an enable of submission ring `n` needs. -/
def State.subOk (s : State) (n : Nat) (r : SubRing) : Bool :=
  s.verSel != 0 && 6 ≤ r.l && r.l ≤ 16 && s.localAddr r.base && (s.ctx r.ctx).enable && (s.comp r.cring).enable
    && (s.ctx r.ctx).part == (s.comp r.cring).part && s.ringFree n r.base (ringSpan r.l 64)

/-- The fields of a ZT_RING_CFGn write of a submission ring. -/
def subFields (r : SubRing) (value : Word) : SubRing :=
  { r with l := bitsOf value.toNat 4 5, ctx := bitsOf value.toNat 16 5, cring := bitsOf value.toNat 24 6 }

/-- The watch of a submission ring's doorbell: watch `n` for ring `n` (R360, log 28). -/
def State.watchRing (s : State) (n : Nat) : State :=
  s.beginWatch n (.ring n)

/-- ENABLE = 1 written to a submission ring's ZT_RING_CFG: fetching begins with the watch of its doorbell, at the
CONS of its header (R479; log 3). -/
def State.subEnable (s : State) (n : Nat) (value : Word) : State :=
  let r := s.sub n
  let off := 0x1008 + 32 * n
  if r.enable then (if r.draining then s.cfgIgnored off else s)
  else
    let r := subFields r value
    if s.subOk n r then
      let at_ := s.ringIndex r.base 64
      (s.setSub n { r with enable := true, draining := false, halted := false, prod := at_, cons := at_ }).watchRing n
    else (s.setSub n r).cfgIgnored off

/-- ENABLE = 0 written: fetching stops at once, and the ring reads disabled once its last fetched descriptor
has retired (R453, R534). -/
def State.subDisable (s : State) (n : Nat) (value : Word) : State :=
  let r := s.sub n
  if !r.enable then s.setSub n (subFields r value)
  else
    ((s.setSub n { r with draining := true }).endWatch n).drainRing n

/-- SUBMISSION_RING_ENABLE (R533, R534). -/
def execSubmissionRingEnable (n : Nat) (value : Word) (s : State) : Host.Outcome State Fault Refusal :=
  .next (
    if n < 64 && value.getLsbD 0 then s.setupWrite (0x1008 + 32 * n) (fun s => s.subEnable n value) else s)

/-- SUBMISSION_RING_DISABLE (R453, R534). -/
def execSubmissionRingDisable (n : Nat) (value : Word) (s : State) : Host.Outcome State Fault Refusal :=
  .next (
    if n < 64 && !value.getLsbD 0 then s.setupWrite (0x1008 + 32 * n) (fun s => s.subDisable n value) else s)

/-- What an enable of completion ring `n` needs. -/
def State.compOk (s : State) (n : Nat) (r : CompRing) : Bool :=
  s.verSel != 0 && 6 ≤ r.l && r.l ≤ 16 && s.localAddr r.base && s.localAddr r.msgAddr && (s.part r.part).enable
    && s.ringFree (64 + n) r.base (ringSpan r.l 32)

/-- The fields of a ZT_RING_CFGn write of a completion ring. -/
def compFields (r : CompRing) (value : Word) : CompRing :=
  { r with l := bitsOf value.toNat 4 5, part := bitsOf value.toNat 16 3 }

/-- ENABLE = 1 written to a completion ring's ZT_RING_CFG: records follow the PROD of its header (log 3). -/
def State.compEnable (s : State) (n : Nat) (value : Word) : State :=
  let r := s.comp n
  if r.enable then s
  else
    let r := compFields r value
    if s.compOk n r then s.setComp n { r with enable := true, prod := s.ringIndex r.base 0 }
    else (s.setComp n r).cfgIgnored (0x1808 + 32 * n)

/-- ENABLE = 0 written: no enabled submission ring may report to it (R453). -/
def State.compDisable (s : State) (n : Nat) (value : Word) : State :=
  let r := s.comp n
  if !r.enable then s.setComp n (compFields r value)
  else if s.subs.any (fun q => q.2.enable && q.2.cring == n) then s.cfgIgnored (0x1808 + 32 * n)
  else s.setComp n { r with enable := false }

/-- COMPLETION_RING_ENABLE (R533). -/
def execCompletionRingEnable (n : Nat) (value : Word) (s : State) : Host.Outcome State Fault Refusal :=
  .next (
    if n < 64 && value.getLsbD 0 then s.setupWrite (0x1808 + 32 * n) (fun s => s.compEnable n value) else s)

/-- COMPLETION_RING_DISABLE (R453). -/
def execCompletionRingDisable (n : Nat) (value : Word) (s : State) : Host.Outcome State Fault Refusal :=
  .next (
    if n < 64 && !value.getLsbD 0 then s.setupWrite (0x1808 + 32 * n) (fun s => s.compDisable n value) else s)

/-- ZT_VER_SEL written (R455): only while every ring is disabled, and only a version that ZT_CAP1 offers. -/
def State.verSelWrite (s : State) (value : Word) : State :=
  if s.subs.any (fun r => r.2.enable) || s.comps.any (fun r => r.2.enable) then s
  else if bitsOf value.toNat 0 4 = 1 then { s with verSel := 1 } else s

/-- ZT_VER_SEL_WRITE (R455). -/
def execZtVerSelWrite (value : Word) (s : State) : Host.Outcome State Fault Refusal :=
  .next (s.setupWrite 0x0014 (fun s => s.verSelWrite value))

end Sys2Proof.Machine
end

