-- ==== Sys2Proof/Machine/Teardown.lean ====
section
/-!
DEFINITION. The teardown of a context and its report (R350, R478, R485, R495 to R497).
-/

namespace Sys2Proof.Machine

/-! ### Cores, windows and tags of a context -/

/-- A request on a port belongs to a context. -/
def State.outOf (s : State) (ctx : Nat) (o : Option Out) : Bool :=
  match o with
  | some r => match r.d with
    | some d => (s.sub d.ring).ctx == ctx
    | none => false
  | none => false

/-- Tags of a context's requests outstanding. -/
def State.tagsOut (s : State) (ctx : Nat) : Nat :=
  (s.ports.map (fun p => (p.2.outs.filter (fun o => s.outOf ctx o.2)).length)).sum

/-- A context's Rink slots on a core that are not EMPTY. -/
def Core.busySlots (k : Core) (ctx : Nat) : Nat :=
  (k.regions.map (fun p => if p.2.ctx = ctx && p.2.used then (p.2.slots.filter (· != .empty)).length else 0)).sum

/-- The loaded banks of a function swapped in: a recovery ends with its seed table's (R149, R179). -/
def SeedTab.flip (t : SeedTab) : SeedTab :=
  { active := t.active != t.loaded, loaded := false, segActive := t.segActive != t.segLoaded, segLoaded := false,
    recovery := t.recovery && !t.loaded }

/-- The reloaded tables of a core swapped in at its kernel boundary (R149, R179). -/
def Core.flipSeeds (k : Core) : Core :=
  (keysOf k.seeds).foldl (fun k fn => { k with seeds := putAt SeedTab.reset k.seeds fn (k.seedTab fn).flip }) k

/-- A core reset for a torn-down context: regions, windows, pairs and AM valid bits, the queue and unsent
posts (R350); it is at a kernel boundary. -/
def Core.torn (k : Core) (ctx : Nat) : Core :=
  ({ k.closeWins ctx with
     regions := k.regions.filter (fun p => !(p.2.used && p.2.ctx == ctx)),
     lastTake := none, feed := [],
     pairs := [], amValid := [], amClaim := 0, posts := k.posts.filter (fun p => p.ctx != ctx),
     inPosts := k.inPosts.filter (fun p => p.ctx != ctx), ctx := none, endIssued := false, queue := [],
     rep := 0, hold := none, streamAt := 0, streams := [], skeins := [] } : Core).flipSeeds

/-- A Piste region whose table has retired: the next begins after it (R329). -/
def Piste.retired (p : Piste) : Piste := { Piste.reset with ring := p.ring, base := (p.base + p.len) % 4096 }

/-- A closed SS window: its generation stays (R310). -/
def SsWindow.closed (w : SsWindow) : SsWindow := { SsWindow.reset with gen := w.gen }

/-- The cores on which a context's kernel runs. -/
def State.kernelCores (s : State) (ctx : Nat) : List Nat :=
  (s.ctxCores ctx).filter (fun c => (s.core c).ctx == some ctx)

/-- What a context's teardown gives back on the cores and windows, counted (R497). -/
def State.tornCounts (s : State) (ctx : Nat) (t : Teardown) : Teardown :=
  let ks := (s.kernelCores ctx).map s.core
  { t with
    slots := ((s.ctxCores ctx).map (fun c => (s.core c).busySlots ctx)).sum,
    sems := (ks.map (fun k => (k.pairs.filter (fun p => p.2.claimed)).length)).sum,
    amt := (ks.map Core.amClaim).sum,
    windows := ((s.ctxCores ctx).map (fun c =>
        ((s.core c).wins.filter (fun p => p.2.isOpen && p.2.ctx == ctx)).length)).sum
      + (s.ssWins.filter (fun p => p.2.isOpen && p.2.ctx == ctx)).length,
    tags := s.tagsOut ctx }

/-- The cores, windows, Piste regions and kernel of a context reset (R350). -/
def State.resetKernel (s : State) (ctx : Nat) : State :=
  let running := s.kernelCores ctx
  let s := (s.ctxCores ctx).foldl (fun s c =>
    let k := s.core c
    if running.contains c then s.setCore c ((k.keepFlags true).torn ctx)
    else s.setCore c { k.closeWins ctx with posts := k.posts.filter (fun p => p.ctx != ctx),
                                            inPosts := k.inPosts.filter (fun p => p.ctx != ctx) }) s
  let s := { s with dmaQ := s.dmaQ.filter (fun r => (s.sub r.d.ring).ctx != ctx) }
  let s := (keysOf s.ssWins).foldl (fun s n =>
    let w := s.ssWin n
    if w.isOpen && w.ctx == ctx then s.setSsWin n w.closed else s) s
  let s := (maskOnes (s.ctx ctx).clusters.toNat 8).foldl (fun s n => s.setPiste n ctx (s.pisteAt n ctx).retired) s
  (s.releaseAreas ctx).setKernel ctx Kernel.reset

/-- The kernel of a stopped descriptor issues no more: its queued steps and unsent posts are dropped (R350, R477). -/
def State.stopKernel (s : State) (x : Desc) : State :=
  if (s.kernel x.ctx).live && (s.kernel x.ctx).d == x.did then
    (s.kernelCores x.ctx).foldl (fun s c =>
      let k := s.core c
      s.setCore c { k with queue := [], rep := 0, hold := none, streamAt := 0, streams := [], posts := k.posts.filter (fun p => p.ctx != x.ctx) }) s
  else s

/-- The kernel that runs on a core ended with a status, its context going on (R432). -/
def State.endKernelOn (s : State) (c status : Nat) : State :=
  match (s.core c).ctx with
  | some ctx => match s.desc? (s.kernel ctx).d with
    | some x => (s.stopKernel x).retire x status 0
    | none => s
  | none => s

/-! ### Loops (R271, R293, R495) -/

/-- The 64 bytes of a summary record (R293). -/
def LoopSt.summary (l : LoopSt) : List Byte := l.counts.flatMap (natLe 8)

/-- A loop ended: its summary record, then its completion record (R271, R293). -/
def State.endLoop (s : State) (n status : Nat) : State :=
  let l := s.loopAt n
  let r := fieldOf l.block 48 8
  let s := if r = 0 then s else s.bobRun l.desc (s.portAt l.desc r) (wrRun r 0 64) l.summary false
  let x := l.desc
  let st := mergeStatus x.status status
  let s := if x.quiet && st == 0 then s
    else s.pushRecord l.cring st x.irq (s.recordFor x st 0) x.did
  let s := { s with faults := s.faults.filter (fun f => f.d != some l.d) }
  (s.setLoop n LoopSt.reset).endWatch (64 + n)

/-- The sequences a loop owns: those it has joined, with their companions, until it leaves them (R284). -/
def LoopSt.owned (l : LoopSt) : List Nat := l.seqs.flatMap (fun q => q.seq :: q.draft.toList) ++ l.leaves

/-- A loop cut by a teardown: open speculation discarded, its sequences left LIVE for the host; the number of
pages given back (R291, R495). -/
def State.cutLoop (s : State) (n : Nat) : State × Nat :=
  let (s, k) := (s.loopAt n).owned.foldl (fun (acc : State × Nat) q =>
    let r := (acc.1.seqn q).specRefs
    if (acc.1.seqn q).spec then
      let (s, d) := acc.1.closeSpec q r.length none
      (s, acc.2 + d)
    else acc) (s, 0)
  (s.endLoop n 0x01, k)

/-- The running loop whose descriptor has a name. -/
def State.loopOf (s : State) (d : Did) : Option Nat := (s.loops.find? (fun p => p.2.live && p.2.d == d)).map Prod.fst

/-- A status noted against a loop (R466). -/
def State.noteLoop (s : State) (n status : Nat) : State :=
  let l := s.loopAt n
  s.setLoop n { l with desc := { l.desc with status := mergeStatus l.desc.status status } }

/-- The running loops of a context. -/
def State.ctxLoops (s : State) (ctx : Nat) : List Nat :=
  (s.loops.filter (fun p => p.2.live && p.2.desc.ctx == ctx)).map Prod.fst

/-! ### The teardown (R350, R478) -/

/-- A collective whose descriptor is `d` writes no record (R433, R478). -/
def State.silenceColl (s : State) (d : Did) : State :=
  (keysOf s.groups).foldl (fun s n =>
    let g := s.group n
    if g.live.any (fun c => c.d == d) then
      s.setGroup n { g with live := g.live.map (fun c => if c.d = d then { c with noRecord := true } else c) }
    else s) s

/-- A context torn down with a status, the physical core of the fault (0xFF if none) and the faulting
descriptor (R350, R478, R495). The context's turn passes on. -/
def State.tearDown (s : State) (ctx status core detail : Nat) (d : Option Did) : State :=
  if (s.ctx ctx).stopped then
    match d.bind s.desc? with
    | some x => s.retire x status detail
    | none => s
  else
    let tag := match d.bind s.desc?, d.bind s.loopOf with
      | some x, _ => x.tag
      | none, some n => (s.loopAt n).desc.tag
      | none, none => 0
    let mine := s.descs.filter (fun x => x.ctx == ctx)
    let colls := mine.filter (fun x => x.opcode == 0x30 && x.pastNoAbort && some x.did != d)
    let cut := mine.filter (fun x => !x.pastNoAbort && some x.did != d)
    let lps := s.ctxLoops ctx
    let t : Teardown := s.tornCounts ctx
      { status := status, core := core, tag := tag, descs := 0, tags := 0, tagsHeld := 0, slots := 0, sems := 0,
        amt := 0, pages := 0, windows := 0, coll := colls.length }
    let s := s.resetKernel ctx
    let hadTurn := (s.ctx ctx).turn
    let hadUnit := (s.ctx ctx).uTurn
    let s := s.setCtx ctx { s.ctx ctx with
      stopped := true, reported := false, turn := false, expired := false, uTurn := false, uExpired := false }
    let s := colls.foldl (fun s x => s.silenceColl x.did) s
    let (s, pages) := lps.foldl (fun (acc : State × Nat) n =>
      let (s, k) := acc.1.cutLoop n
      (s, acc.2 + k)) (s, 0)
    let s := match d.bind s.desc? with
      | some x => s.retire x status detail
      | none => s
    let s := cut.foldl State.cutDesc s
    let n := cut.length + lps.length + (if (d.bind (fun d => mine.find? (fun x => x.did == d))).isSome then 1 else 0)
    let s := s.setCtx ctx { s.ctx ctx with teardown := some { t with descs := n, pages := pages } }
    let s := s.logEvent 0x0F 2 0xFF 0 (status + ctx * 256) ctx tag
    let s := if hadUnit then s.giveTurnOf true (turnOrder (s.unitSet ctx) ctx) else s
    if hadTurn then s.giveTurn (turnOrder (s.clusterSet ctx) ctx) else s

/-- A fault found on a core while a context's kernel runs there: the kernel's descriptor is the faulting one
(R348, R464 DETAIL). -/
def State.coreFault (s : State) (c status : Nat) : State :=
  match (s.core c).ctx with
  | some ctx =>
    let det := if status = 0x03 then 0xFFFF else if 0x40 ≤ status then 0 else c
    s.tearDown ctx status c det (some (s.kernel ctx).d)
  | none => s

/-- A lasting error attributed to a descriptor, found outside the cores (R464 DETAIL, R485). -/
def State.descFault (s : State) (x : Desc) (status : Nat) : State :=
  s.tearDown x.ctx status 0xFF (if status = 0x30 then 0xFFFE else 0) (some x.did)

/-- A read of a poisoned SS row reports uncorrectable again (R322): logged, and the reading context torn down. -/
def State.rowLost (s : State) (x : Desc) (row : Nat) : State :=
  (s.logEvent 0x02 2 1 (row % 64) row x.ctx x.tag).descFault x 0x30

/-- A descriptor of the DMA hub concluded: its flags go to its own set only (R68). -/
def State.concludeOwn (s : State) (x : Desc) : Work → State
  | .bad st det => s.retire x st det
  | .halt r => s.haltOn x r
  | .mismatch _ => s.descFault x 0x30
  | .lost row => s.rowLost x row
  | .done st af sf m => (s.withStore m).retire { x with flags := x.flags ||| af ||| sf } st 0

/-- A descriptor concluded by its outcome (R392, R397, R489): BAD_DESC and RANGE_STALE end only it; a lasting
page mismatch is logged and tears its context down (R230, R485). -/
def State.conclude (s : State) (x : Desc) : Work → State
  | .bad st det => s.retire x st det
  | .halt r => s.haltOn x r
  | .mismatch r => (s.logEvent 0x07 2 6 0 (refWord r.pool r.page % 2 ^ 30) x.ctx x.tag).descFault x 0x30
  | .lost row => s.rowLost x row
  | .done st af sf m =>
    ((s.withStore m).raiseOn x.ctx af sf).retire { x with flags := x.flags ||| af ||| sf } st (s.detailOf x st)

/-! ### What the checks of reads come to (R230, R321, R322, R357, R379, R480 to R485) -/

/-- The read may be one of a descriptor's: the place lies in a range that it names, or in a pool of its partition. -/
def State.mayRead (s : State) (x : Desc) (r : BadRead) : Bool :=
  let within := fun (tier a : Nat) =>
    x.trans.any (fun t => t.tier == tier && decide (t.base ≤ a) && decide (a < t.base + 4096 * (t.lenM1 + 1)))
  let pools := s.pools.filter (fun p => p.2.live && p.2.part == s.partOf x)
  let outside := fun (a : Nat) => [0, 1].any (within · a)
    || pools.any (fun p => p.2.tier != 2 && decide (p.2.data ≤ a) && decide (a < p.2.data + p.2.npages * p.2.psize))
  match r with
  | .ssRow row => x.trans.any (fun t => t.tier == 2 && decide (t.base % 2 ^ 45 ≤ 512 * row)
        && decide (512 * row < t.base % 2 ^ 45 + 4096 * (t.lenM1 + 1)))
      || pools.any (fun p => p.2.tier == 2 && decide (p.2.data % 2 ^ 45 ≤ 512 * row)
        && decide (512 * row < p.2.data % 2 ^ 45 + p.2.npages * p.2.psize))
  | .poison a | .decode a | .silent a => outside a
  | .page p n => pools.any (fun q => q.1 == p && decide (n < q.2.npages))

/-- UNIT, INDEX and PLACE of a refused read (R500, R501). -/
def readPlace : BadRead → Nat × Nat × Nat
  | .ssRow r => (1, r % 64, r)
  | .poison a | .decode a | .silent a => (3, portOf a, a)
  | .page p n => (6, 0, refWord p n % 2 ^ 30)

/-- Its event, where the repeat delivered (`once`) or met it again. -/
def readEvent (once : Bool) : BadRead → Nat
  | .ssRow _ => if once then 0x01 else 0x02
  | .poison _ | .decode _ => 0x04
  | .silent _ => 0x05
  | .page _ _ => 0x07

/-- The status of a lasting error (R481). -/
def readStatus : BadRead → Nat
  | .ssRow _ | .poison _ | .page _ _ => 0x30
  | .decode _ => 0x7F
  | .silent _ => 0x70

/-- A repeat that delivered: logged, and counted for WEAK (R480, R484). -/
def State.readCured (s : State) (x : Desc) (r : BadRead) : State :=
  let p := readPlace r
  (s.logEvent (readEvent true r) 1 p.1 p.2.1 p.2.2 x.ctx x.tag).noteRepeat (readEvent true r) p.1 p.2.1 p.2.2

/-- A read that failed twice, logged; an SS row is poisoned (R322, R480). -/
def State.readLost (s : State) (x : Desc) (r : BadRead) : State :=
  let p := readPlace r
  let s := match r with
    | .ssRow row => if s.ssPoison.contains row then s else { s with ssPoison := s.ssPoison ++ [row] }
    | _ => s
  s.logEvent (readEvent false r) 2 p.1 p.2.1 p.2.2 x.ctx x.tag

/-- What the checks of a descriptor's reads come to: whether their data arrive, and the state (R321, R322, R481). -/
def State.readsMet (s : State) (x : Desc) : ReadCheck → Bool × State
  | .clean => (true, s)
  | .corrected row =>
    (true, if s.mayRead x (.ssRow row) then { s.countCorrectedSs with wback := s.wback ++ [.ss row] } else s)
  | .retried r => (true, if s.mayRead x r then (s.readCured x r).noteStatus x.did 0x31 0xFFFE else s)
  | .lasting r => if s.mayRead x r then (false, (s.readLost x r).descFault x (readStatus r)) else (true, s)

/-- Work whose reads are checked: where it would complete, their outcome comes first. -/
def State.readThen (s : State) (x : Desc) (r : ReadCheck) (work : State → Desc → Work) (fin : State → Desc → Work → State) : State :=
  match r, work s x with
  | .clean, w => fin s x w
  | _, .done .. => match s.readsMet x r with
    | (true, t) =>
      let y := (t.desc? x.did).getD x
      fin t y (work t y)
    | (false, t) => t
  | _, w => fin s x w

/-! ### Kernels as whole descriptors (R375, R470) -/

/-- A context may start a kernel: no other context of the cluster set has the turn, its own budget has not expired, and where none
has the turn its budget is above zero or no ready context's is; a kernel that runs may go on (R470, R473). -/
def State.turnFree (s : State) (ctx : Nat) : Bool :=
  let c := s.ctx ctx
  (s.clusterSet ctx).all (fun k => k == ctx || !(s.ctx k).turn) && (!c.expired || (s.kernel ctx).live)
    && (c.turn || decide (0 < c.budget) || (s.clusterSet ctx).all (fun k => !(s.turnReady false k && decide (0 < (s.ctx k).budget))))

/-- The turn taken where the context does not have it. -/
def State.takeTurn (s : State) (ctx : Nat) : State := if (s.ctx ctx).turn then s else s.beginTurn ctx

/-- A kernel boundary of a context's clusters: requested limits and P1 take effect (R33, R34, R519, R545). -/
def State.kernelBoundary (s : State) (ctx : Nat) (busy : Bool) : State :=
  (maskOnes (s.ctx ctx).clusters.toNat 8).foldl (fun s n => (s.clockBoundary n).powerBoundary n busy) s

/-- The power of its clusters lets a kernel start (R520, R521). -/
def State.clustersUp (s : State) (ctx : Nat) : Bool :=
  (maskOnes (s.ctx ctx).clusters.toNat 8).all (fun n => (s.cluster n).pwr == .p0 || (s.cluster n).pwr == .p1)

/-- A kernel performed as one command: it has its turn, and its boundaries are here; one that KERNEL_START opened goes on by
its steps (log 8). -/
def State.kernelDo (s : State) (c : RunCmd) (op : Nat) (work : State → Desc → Work) : State :=
  match s.running? c.d [op] with
  | some x =>
    let k := s.kernel x.ctx
    if s.kernelTurn x && s.turnFree x.ctx && s.clustersUp x.ctx && !k.live && !k.paused then
      let s := (s.takeTurn x.ctx).kernelBoundary x.ctx true
      let s := s.readThen x c.reads work State.conclude
      let s := (s.ctxCores x.ctx).foldl State.countBubbles s
      s.kernelBoundary x.ctx (s.kernelReady x.ctx)
    else s
  | none => s

/-! ### The report (R496, R497) -/

/-- The 32 bytes of a teardown record (R497). -/
def teardownBytes (ctx : Nat) (t : Teardown) : List Byte :=
  natLe 2 0xFFFF ++ natLe 2 ctx ++ natLe 1 t.status ++ natLe 1 t.core ++ natLe 1 3
    ++ natLe 1 (if t.tagsHeld = 0 then 0 else 1) ++ natLe 4 t.tag.toNat ++ natLe 2 t.descs ++ natLe 2 t.tags
    ++ natLe 2 t.tagsHeld ++ natLe 2 t.slots ++ natLe 2 t.sems ++ natLe 2 t.amt ++ natLe 4 t.pages
    ++ natLe 2 t.windows ++ natLe 1 t.coll ++ natLe 1 0

/-- The write of 32 bytes at an address is that of a record of a context's descriptor: a place of a completion ring takes it, and its
byte 7 names a submission ring of the context (R464). -/
def State.isRecordOf (s : State) (ctx a : Nat) (bs : List Byte) : Bool :=
  bs.length == 32 && (s.sub (byteOf bs 7)).ctx == ctx
    && s.comps.any (fun c => decide (c.2.base + 128 ≤ a) && decide (a < c.2.base + 128 + 32 * 2 ^ c.2.l))

/-- No record of a descriptor of the context is still waiting or on its way to memory, and no small write of one is unsent: each has
become visible (R497). -/
def State.recordsOut (s : State) (ctx : Nat) : Bool :=
  s.comps.all (fun c => (c.2.waiting ++ c.2.held).all (fun r => (s.sub (byteOf r.bytes 7)).ctx != ctx))
    && s.smalls.all (fun r => r.d.all (fun d => (s.sub d.ring).ctx != ctx) && !(r.op == .wr && s.isRecordOf ctx r.addr r.data))
    && s.ports.all (fun p => p.2.outs.all (fun o => o.2.all (fun r => !(r.isWrite && s.isRecordOf ctx r.addr r.data))))

/-- The audit of R496 finds a fault: the resource that does not balance, with its port where it has one. -/
def State.auditFault (s : State) (ctx : Nat) : Option (Nat × Nat) :=
  let badCredit := (upTo 12).find? (fun p =>
    let f := s.fport p
    f.reqGrant < f.req || f.wdatGrant < f.wdat || f.rspGrant < f.rsp)
  let cores := s.ctxCores ctx
  let badSlots := cores.any (fun c => (s.core c).regions.any (fun r =>
    r.2.used && r.2.slots.length != r.2.nslot))
  match badCredit with
  | some p => some (1, p)
  | none => if badSlots then some (2, 0xFF) else none

/-- A ring's free room (R277). -/
def ringRoom (l : Nat) (prod cons : Word) : Bool := (prod - cons).toNat < 2 ^ l

/-- An entry's address runs past the physical space (R382; log 18). -/
def pastEnd (a n : Nat) : Bool := decide (Config.physEnd < a + n)

/-- A 32-byte record sent to a partition's fault ring, then its PROD and the ring's interrupt message, each behind a FENCE, all on
the port of the ring's base (R365, R400, R467, R468). -/
def State.pushFault (s : State) (part : Nat) (bs : List Byte) : State :=
  let p := s.part part
  let i := p.faultProd.toNat % 2 ^ p.fl
  let at_ := portOf p.fbase
  let s := s.setPart part { p with faultProd := p.faultProd + 1 }
  let s := s.bobWrite at_ (p.fbase + 128 + 32 * i) bs false none
  let s := s.bobWrite at_ p.fbase (natLe 4 (p.faultProd + 1).toNat) true none
  s.bobWrite at_ p.fmsg (natLe 4 p.fdata.toNat) true none

/-- CONS of a partition's fault ring, written by the host. -/
def State.faultCons (s : State) (part : Nat) : Word :=
  BitVec.ofNat 32 (leNat (s.memAt ((s.part part).fbase + 64) 4))

/-- A teardown that may be reported: the last record of the context visible, its tags back, and room in the
fault ring. -/
def State.reportable (s : State) (ctx : Nat) : Bool :=
  let c := s.ctx ctx
  c.teardown.isSome && s.serving && s.recordsOut ctx && s.tagsOut ctx == 0
    && ringRoom (s.part c.part).fl (s.part c.part).faultProd (s.faultCons c.part)

/-- TEARDOWN_DRAINED (R496, R497). -/
def execTeardownDrained (ctx : Nat) (s : State) : Host.Outcome State Fault Refusal :=
  let c := s.ctx ctx
  if ctx < 32 && s.reportable ctx then
    match s.auditFault ctx with
    | some (res, port) =>
      .next ((s.logEvent 0x13 3 0xFF 0 (port + 256 * res) ctx).enterFatal 9)
    | none =>
      if pastEnd (s.part c.part).fbase (ringSpan (s.part c.part).fl 32) || pastEnd (s.part c.part).fmsg 4 then
        .fault .addressSpace
      else
        let held := (s.ports.map (fun p => (p.2.quarTags.filter (fun q => q.2 == ctx)).length)).sum
        let bs := match c.teardown with
          | some t => teardownBytes ctx { t with tagsHeld := held }
          | none => []
        .next ((s.pushFault c.part bs).setCtx ctx { c with teardown := none, reported := true })
  else .next s

end Sys2Proof.Machine
end

