-- ==== Sys2Proof/Machine/Attention.lean ====
section
/-!
DEFINITION. Attention: the parameter block, masks, rotary embedding, the online softmax, partial records and
MERGE, and ATTN_FWD (R180 to R214, R257, R565).
-/

namespace Sys2Proof.Machine

/-- −∞ as an FP32 pattern. -/
def negInf : Nat := 0xFF800000
/-- The canonical FP32 NaN (R42). -/
def nan32 : Nat := 0x7FC00000
/-- 1.0 as an FP32 pattern. -/
def one32 : Nat := 0x3F800000
/-- An FP32 pattern that is a NaN. -/
def isNan32 (c : Nat) : Bool := (f32Value c).isNan

/-! ### The parameter block (R183) -/

/-- The fields of an attention parameter block. -/
structure AttnP where
  qconv : Nat
  kconv : Nat
  vconv : Nat
  oconv : Nat
  dh : Nat
  actl : Nat
  acc : Nat
  pfmt : Nat
  pscale : Nat
  hq : Nat
  hkv : Nat
  framec : Bool
  map : Bool
  maphead : Bool
  lse2 : Bool
  part : Bool
  bolt : Bool
  qpos : Bool
  winL : Nat
  winR : Nat
  frameW : Nat
  frameH : Nat
  ksplit : Nat
  qkScale : Nat
  sfu : Nat
  mapref : Nat
  seqlist : Nat
  nseq : Nat
  rmode : Nat
  rpair : Bool
  ropeQ : Bool
  ropeK : Bool
  np : Nat
  dt : Nat
  dy : Nat
  ropetab : Nat
  partref : Nat
  qs : Nat
  ks : Nat
  vs : Nat
  os : Nat
  layer : Nat
  mapQb : Nat
  mapKb : Nat
  lrows : Nat
  deriving DecidableEq, Repr

/-- The fields of a block of 128 bytes. -/
def attnP (bs : List Byte) : AttnP :=
  let f := byteOf bs 15
  let r := byteOf bs 60
  { qconv := fieldOf bs 0 2, kconv := fieldOf bs 2 2, vconv := fieldOf bs 4 2, oconv := fieldOf bs 6 2,
    dh := bitsOf (byteOf bs 8) 0 3, actl := byteOf bs 9, acc := byteOf bs 10, pfmt := bitsOf (byteOf bs 11) 0 4,
    pscale := byteOf bs 12, hq := byteOf bs 13 + 1, hkv := bitsOf (byteOf bs 14) 0 6 + 1, framec := bitOf f 0,
    map := bitOf f 1, maphead := bitOf f 2, lse2 := bitOf f 3, part := bitOf f 4, bolt := bitOf f 5,
    qpos := bitOf f 6, winL := fieldOf bs 16 4, winR := fieldOf bs 20 4, frameW := fieldOf bs 24 2,
    frameH := fieldOf bs 26 2, ksplit := fieldOf bs 28 4, qkScale := fieldOf bs 32 4, sfu := fieldOf bs 36 4,
    mapref := fieldOf bs 40 8, seqlist := fieldOf bs 48 8, nseq := fieldOf bs 56 4, rmode := bitsOf r 0 2,
    rpair := bitOf r 2, ropeQ := bitOf r 3, ropeK := bitOf r 4, np := byteOf bs 61, dt := byteOf bs 62,
    dy := byteOf bs 63, ropetab := fieldOf bs 64 8, partref := fieldOf bs 72 8, qs := fieldOf bs 80 2,
    ks := fieldOf bs 82 2, vs := fieldOf bs 84 2, os := fieldOf bs 86 2, layer := fieldOf bs 88 2,
    mapQb := fieldOf bs 92 4, mapKb := fieldOf bs 96 4, lrows := fieldOf bs 100 4 }

/-- Integer targets saturate (R58, R123). -/
def AttnP.iovf (p : AttnP) : Bool := bitOf p.acc 2
/-- Head dimension d. -/
def AttnP.d (p : AttnP) : Nat := 32 * (p.dh + 1)
/-- Query heads per key/value group (R187). -/
def AttnP.g (p : AttnP) : Nat := p.hq / p.hkv
/-- The conversion words. -/
def AttnP.qc (p : AttnP) : ConvWord := convOf p.qconv
/-- The load word of K. -/
def AttnP.kc (p : AttnP) : ConvWord := convOf p.kconv
/-- The load word of V. -/
def AttnP.vc (p : AttnP) : ConvWord := convOf p.vconv
/-- The store word of O. -/
def AttnP.oc (p : AttnP) : ConvWord := convOf p.oconv

/-- 1/√d as FP32 (R181). -/
def rootScale (d : Nat) : Nat :=
  let v := fxRsq (fxOf (Dy.ofInt d))
  (finToF32 .rne false v.toNat (-320)).1

/-- log₂(e)/√d as FP32 (R181). -/
def rootPre (d : Nat) : Nat :=
  let v := fxMul (fxRecip fxLn2) (fxRsq (fxOf (Dy.ofInt d)))
  (finToF32 .rne false v.toNat (-320)).1

/-- σ (R181). -/
def AttnP.sigma (p : AttnP) : Nat := if p.qkScale = 0 then rootScale p.d else p.qkScale
/-- The pre-scale c (R181). -/
def AttnP.pre (p : AttnP) : Nat := if p.qkScale = 0 then rootPre p.d else (mulF .rne 0x3FB8AA3B p.qkScale).1

/-- QK_SCALE is +0, or finite and above +0 (R181). -/
def scaleOk (c : Nat) : Bool := bitsOf c 23 8 != 255 && !bitOf c 31

/-- P_FMT and P_SCALE (R183, R198). -/
def probOk (fmt ps : Nat) : Bool :=
  match ffmtOf fmt with
  | some f =>
    isFloatOperand fmt && (if isZ fmt then ps != 0x80 && !magLt f.maxM f.maxE 1 (-(signedOf ps 8)) else ps == 0)
  | none => false

/-- A reference that is present exactly when needed, on a 64-byte boundary where asked (R186, R384). -/
def refIs (r : Nat) (need aligned : Bool) : Bool :=
  refOk r && ((r == 0) == !need) && (!aligned || refAligned r 64)

/-- What R181, R183, R196, R198 and R206 ask of the block; `bwd` adds what R215 asks. -/
def AttnP.ok (p : AttnP) (bs : List Byte) (bwd : Bool) : Bool :=
  let conv := fun w => convOk w false && isFloatOperand (convOf w).dst
  let stored := fun (c : ConvWord) => c.dst == c.src && c.dscale == 0 && c.rnd == 0 && !c.zovf && !c.hist
  conv p.qconv && conv p.kconv && conv p.vconv && convOk p.oconv false && p.oc.src == 0
    && bitsOf (byteOf bs 8) 3 5 == 0 && (actlChecks 0 p.actl p.qc.dst p.kc.dst true).all Prod.snd
    && (accChecks 0 p.acc false).all Prod.snd && bitsOf (byteOf bs 11) 4 4 == 0 && probOk p.pfmt p.pscale
    && bitsOf (byteOf bs 14) 6 2 == 0 && p.hq % p.hkv == 0 && !bitOf (byteOf bs 15) 7
    && (!(p.framec || p.rmode == 2) || (p.frameW != 0 && p.frameH != 0)) && p.ksplit % 1024 == 0
    && scaleOk p.qkScale && bitsOf p.sfu 0 3 == 0 && bitsOf p.sfu 5 10 == 0
    && (sfuCtlChecks 0 p.sfu true (fun _ => false)).all Prod.snd
    && refIs p.mapref p.map false && refIs p.seqlist true true && 1 ≤ p.nseq && p.nseq ≤ 65536
    && p.rmode != 3 && (p.rmode != 0 || (!p.ropeQ && !p.ropeK)) && bitsOf (byteOf bs 60) 5 3 == 0
    && 2 * p.np ≤ p.d && p.dt + p.dy ≤ p.np
    && refOk p.ropetab && (p.rmode != 0 || p.ropetab == 0)
    && (!(p.ropeQ || p.ropeK) || p.np == 0 || p.ropetab != 0) && refIs p.partref p.part true
    && (p.bolt || p.layer == 0) && zeroField bs 90 2 && zeroField bs 104 24
    && (!p.bolt || (stored p.vc && (p.ropeK || stored p.kc)))
    && (!bwd || (!p.part && !p.bolt && p.ksplit == 0 && (p.pfmt == 1 || p.pfmt == 2)))

/-! ### The sequence list (R184) -/

/-- A sequence-list entry. -/
structure AttnEnt where
  qrow : Nat
  qlen : Nat
  krow : Nat
  klen : Nat
  deriving DecidableEq, Repr

/-- The entry 16 bytes hold. -/
def attnEnt (bs : List Byte) : AttnEnt :=
  { qrow := fieldOf bs 0 4, qlen := fieldOf bs 4 4, krow := fieldOf bs 8 4, klen := fieldOf bs 12 4 }

/-- An entry that R184 and, for dense keys, R191 allow. -/
def AttnEnt.ok (e : AttnEnt) (bolt qpos : Bool) : Bool :=
  1 ≤ e.qlen && e.qlen ≤ 2 ^ 24
    && (if bolt then e.krow < 65536 && e.klen == 0
        else 1 ≤ e.klen && e.klen ≤ 2 ^ 24 && (qpos || e.qlen ≤ e.klen))

/-! ### Tiles (R188, R189) -/

/-- Rows R of a query tile, keys KB of a block, and whether the MVP computes (R189). -/
structure AttnTile where
  r : Nat
  kb : Nat
  mvp : Bool
  deriving DecidableEq, Repr

/-- Key block of a tile that is not narrow. -/
def AttnP.wideKb (p : AttnP) : Nat :=
  if max (widthClass p.qc.dst) (widthClass p.kc.dst) = 4 || max (widthClass p.pfmt) (widthClass p.vc.dst) = 4 then 512
  else 256

/-- The tile of a list of query lengths (R189). -/
def AttnP.tile (p : AttnP) (qlens : List Nat) : AttnTile :=
  let n := qlens.map (fun q => q * min p.g 128)
  if n.all (· ≤ 16) then
    (if bitOf p.actl 2 && n.all (· ≤ 4) then { r := 4, kb := 1024, mvp := true }
     else { r := 16, kb := 1024, mvp := false })
  else { r := 128, kb := p.wideKb, mvp := false }

/-! ### Masks (R191, R192) -/

/-- Bytes of a map row. -/
def AttnP.mapRow (p : AttnP) : Nat := 64 * ceilDiv p.mapKb 512
/-- Bytes of the map. -/
def AttnP.mapBytes (p : AttnP) : Nat := if p.map then p.mapRow * p.mapQb * (if p.maphead then p.hq else 1) else 0

/-- The map bit of a pair of positions for a head. -/
def AttnP.mapBit (p : AttnP) (m : List Byte) (h qp kp : Nat) : Bool :=
  let qb := qp / 128
  let kb := kp / 128
  qb < p.mapQb && kb < p.mapKb
    && bitOf (byteOf m (p.mapRow * (qb + (if p.maphead then h * p.mapQb else 0)) + kb / 8)) (kb % 8)

/-- Conditions 2 to 5 of R191. -/
def AttnP.visible (p : AttnP) (m : List Byte) (h qp kp : Nat) : Bool :=
  (p.winL == 0xFFFFFFFF || qp ≤ kp + p.winL) && (p.winR == 0xFFFFFFFF || kp ≤ qp + p.winR)
    && (!p.framec || kp / (p.frameW * p.frameH) ≤ qp / (p.frameW * p.frameH))
    && (!p.map || p.mapBit m h qp kp)

/-! ### Rotary embedding (R195 to R197) -/

/-- Position of pair `i` for token position `n`. -/
def AttnP.pairPos (p : AttnP) (i n : Nat) : Nat :=
  if p.rmode = 1 then n
  else if i < p.dt then n / (p.frameW * p.frameH)
  else if i < p.dt + p.dy then n / p.frameW % p.frameH
  else n % p.frameW

/-- The angle: the fractional part of position × frequency, exact, rounded once. -/
def ropeAngle (pos w : Nat) : Flagged :=
  match f32Value w with
  | .fin _ m e =>
    let v := pos * m
    if 0 ≤ e then (0, 0) else finToF32 .rne false (v % 2 ^ (-e).toNat) e
  | _ => (nan32, 0)

/-- The built-in functions in normal service. -/
def plainEnv : SfuEnv := { frnd := 0, table := [], flush := 64 }

/-- One rotated pair. -/
def ropePair (xa xb w pos : Nat) : (Nat × Nat) × FlagSet :=
  let a := ropeAngle pos w
  let cs := builtin plainEnv 0x16 a.1 0
  let sn := builtin plainEnv 0x15 a.1 0
  let u := mulF .rne xb sn.1
  let ya := fmaF .rne xa cs.1 (negF u.1)
  let v := mulF .rne xa sn.1
  let yb := fmaF .rne xb cs.1 v.1
  ((ya.1, yb.1), a.2 ||| cs.2 ||| sn.2 ||| u.2 ||| ya.2 ||| v.2 ||| yb.2)

/-- The elements of pair `i`. -/
def AttnP.pairAt (p : AttnP) (i : Nat) : Nat × Nat := if p.rpair then (i, i + p.np) else (2 * i, 2 * i + 1)

/-- One head's elements rotated, as FP32 patterns, with OVF and INV only (R195). -/
def AttnP.rotate (p : AttnP) (freqs : List Nat) (n : Nat) (vs : List Value) : List Nat × FlagSet :=
  let (x, f₀) := mapFlags (valueToF32 .rne) vs
  let (y, f) := (upTo p.np).foldl (fun (acc : List Nat × FlagSet) i =>
    let q := p.pairAt i
    let r := ropePair (x.getD q.1 0) (x.getD q.2 0) (freqs.getD i 0) (p.pairPos i n)
    ((acc.1.set q.1 r.1.1).set q.2 r.1.2, acc.2 ||| r.2)) (x, f₀)
  (y, f &&& (flagOvf ||| flagInv))

/-- One operand row converted on load, rotated first where `pos` gives its position (R76, R195). -/
def AttnP.loadRow (p : AttnP) (freqs : List Nat) (c : ConvWord) (seed row : Nat) (pos : Option Nat)
    (vs : List Value) (sup : List Byte) : List Value × FlagSet :=
  match pos with
  | some n =>
    let (y, f) := mapFlags (fun h => p.rotate freqs n h) (pieces p.d vs)
    let o := convOut { c with src := 0, sscale := false } p.iovf seed row (y.flatten.map f32Value) sup
    (o.stored, f ||| o.flags)
  | none =>
    if c.copies then (vs, 0)
    else
      let o := convOut c p.iovf seed row vs sup
      (o.stored, o.flags)

/-! ### The online softmax (R198 to R202) -/

/-- The code of a probability (R198). -/
def probCode (fmt ps p : Nat) : Nat × FlagSet :=
  let w : ConvWord := { convOf 0 with dst := fmt }
  convElem w true .rne (if isZ fmt then signedOf ps 8 else 0) (f32Value p)

/-- A code as the array sees it: times 2^P_SCALE in a Z format (R198). -/
def probValue (fmt ps c : Nat) : Value := if isZ fmt then applyScale ps (decodeCode fmt c) else decodeCode fmt c

/-- A probability as the array sees it (R198). -/
def probOf (fmt ps p : Nat) : Value × FlagSet :=
  let (c, f) := probCode fmt ps p
  (probValue fmt ps c, f)

/-- A row's running state: m, l and the O elements. -/
structure Soft where
  m : Nat
  l : Nat
  o : List (Option Nat)
  deriving DecidableEq, Repr

/-- The state at the start of a skein. -/
def Soft.start (d : Nat) : Soft := { m := negInf, l := 0, o := List.replicate d none }

/-- What a skein's rows share: the pre-scale, probability format, environment and arithmetic. -/
structure SoftCtl where
  pre : Nat
  pfmt : Nat
  pscale : Nat
  env : SfuEnv
  acc : AccCtl
  kb : Nat
  deriving DecidableEq, Repr

/-- Columns of a pass over which SR numbers an output (R124, R125). -/
def AccCtl.cols (a : AccCtl) : Nat := if a.mvp then 2048 else 128

/-- Dot products of one vector with several, one per column. -/
def scoresOf (a : AccCtl) (row : Nat) (q : List Value) (ks : List (List Value)) : List Nat × FlagSet :=
  mapFlags (fun k : List Value × Nat =>
    let r := dotFloat a row (k.2 % a.cols) 0 none q k.1
    (r.1.getD 0, r.2)) ks.zipIdx

/-- The scores of a block; columns beyond the keys hold +0 keys (R208), whose products may still raise flags. -/
def blockScores (c : SoftCtl) (row : Nat) (q : List Value) (ks : List (List Value)) : List Nat × FlagSet :=
  let (sc, f) := scoresOf c.acc row q ks
  if ks.length < c.kb then (sc, f ||| (scoresOf c.acc row q [q.map (fun _ => .fin false 0 0)]).2) else (sc, f)

/-- What the SFU makes of one row's scores in a key block (R198): the new m and l, the factor α, the codes of the
probabilities and their values, and the flags. -/
structure SoftRow where
  m : Nat
  l : Nat
  alpha : Nat
  codes : List Nat
  pq : List Value
  flags : FlagSet
  deriving DecidableEq, Repr

/-- One row's statistics and probabilities for the masked scores of a key block (R198, R199). -/
def softRow (c : SoftCtl) (m l : Nat) (sc : List Nat) : SoftRow :=
  let smax := sc.foldl (fun a b => (maxF a b).1) negInf
  let mn := andThen (mulF .rne smax c.pre) (maxF m)
  let dead := mn.1 == negInf
  let alpha : Flagged := if dead then (one32, 0)
    else andThen (subF .rne m mn.1) (fun a => builtin c.env 0x13 a 0)
  let (pb, fp) : List Nat × FlagSet := if dead then (sc.map (fun _ => 0), 0)
    else mapFlags (fun s => andThen (andThen (mulF .rne s c.pre) (fun t => subF .rne t mn.1))
      (fun a => builtin c.env 0x13 a 0)) sc
  let (codes, fq) := mapFlags (probCode c.pfmt c.pscale) pb
  let pq := codes.map (probValue c.pfmt c.pscale)
  let t := dotFloat { c.acc with sr := false } 0 0 0 none pq (pq.map (fun _ => .fin false 1 0))
  let l := fmaF .rne l alpha.1 (t.1.getD 0)
  { m := mn.1, l := l.1, alpha := alpha.1, codes := codes, pq := pq,
    flags := mn.2 ||| alpha.2 ||| fp ||| fq ||| t.2 ||| l.2 }

/-- One key block of one row (R198 to R200): the new state, array flags, SFU flags. `vcols` holds the block's
values column by column, `g` the first group of its PV pass. -/
def softBlock (c : SoftCtl) (row g : Nat) (q : List Value) (ks vcols : List (List Value)) (vis : List Bool)
    (st : Soft) : Soft × FlagSet × FlagSet :=
  let (raw, fa) := blockScores c row q ks
  let r := softRow c st.m st.l ((raw.zip vis).map (fun p => if p.2 then p.1 else negInf))
  let (o, fo) := mapFlags (fun e : (Option Nat × List Value) × Nat =>
    let (v, f) := rowFactor r.alpha e.1.1
    let u := addGroups c.acc row (e.2 % c.acc.cols) g v (pieces 32 (r.pq.zip e.1.2))
    (u.1, f ||| u.2)) (st.o.zip vcols).zipIdx
  ({ m := r.m, l := r.l, o := o }, fa ||| fo, r.flags)

/-- A partial: m, l and O elements. -/
structure Part3 where
  m : Nat
  l : Nat
  o : List Nat
  deriving DecidableEq, Repr

/-- The partial a state leaves; elements never valid read +0 (R133). -/
def Soft.partial_ (s : Soft) : Part3 := { m := s.m, l := s.l, o := s.o.map (fun v => v.getD 0) }

/-- Two partials merged (R210). -/
def mergeParts (env : SfuEnv) (a b : Part3) : Part3 × FlagSet :=
  if a.m = negInf && b.m = negInf then ({ m := negInf, l := 0, o := a.o.map (fun _ => 0) }, 0)
  else
    let m := maxF a.m b.m
    let ex := fun v => andThen (subF .rne v m.1) (fun t => builtin env 0x13 t 0)
    let aa := ex a.m
    let ab := ex b.m
    let mix := fun (x y : Nat) => andThen (mulF .rne y ab.1) (fun t => fmaF .rne x aa.1 t)
    let l := mix a.l b.l
    let (o, f) := mapFlags (fun p : Nat × Nat => mix p.1 p.2) (a.o.zip b.o)
    ({ m := m.1, l := l.1, o := o }, m.2 ||| aa.2 ||| ab.2 ||| l.2 ||| f)

/-- A fold from the left (R210). -/
def foldParts (env : SfuEnv) : List Part3 → Part3 × FlagSet
  | [] => ({ m := negInf, l := 0, o := [] }, 0)
  | p :: ps => ps.foldl (fun acc q =>
      let r := mergeParts env acc.1 q
      (r.1, acc.2 ||| r.2)) (p, 0)

/-- A finished row: O, LSE and the row flags. -/
structure Finished where
  o : List Nat
  lse : Nat
  flags : Nat
  deriving DecidableEq, Repr

/-- An FP32 pattern of a finite value. -/
def isFinite32 (c : Nat) : Bool := bitsOf c 23 8 != 255

/-- The finish of a row (R201). A finite row carries no flag, whatever its LSE. -/
def finishRow (env : SfuEnv) (lse2 : Bool) (p : Part3) : Finished × FlagSet :=
  if p.m = negInf then ({ o := p.o.map (fun _ => 0), lse := negInf, flags := 1 }, 0)
  else if isNan32 p.m || isNan32 p.l then ({ o := p.o.map (fun _ => nan32), lse := nan32, flags := 2 }, 0)
  else
    let (o, f) := mapFlags (fun v => builtin env 0x19 v p.l) p.o
    let lse := andThen (builtin env 0x14 p.l 0) (addF .rne p.m)
    let lse := if lse2 then lse else andThen lse (fun v => mulF .rne v 0x3F317218)
    ({ o := o, lse := lse.1, flags := if isNan32 lse.1 && !(isFinite32 p.m && isFinite32 p.l) then 2 else 0 }, f ||| lse.2)

/-! ### A sequence's operands -/

/-- A sequence as the tiles see it: first row, positions and slots of its rows and keys, the slots' PARENT
bytes, and the loaded rows by head or group. -/
structure AttnSeq where
  row0 : Nat
  rows : List (Nat × Option Nat)
  keys : List (Nat × Option Nat)
  tree : List Nat
  q : List (List (List Value))
  k : List (List (List Value))
  v : List (List (List Value))
  deriving DecidableEq, Repr

/-- Slot `i` and its ancestors (R257). -/
def branchOf (tree : List Nat) : Nat → Nat → List Nat
  | 0, _ => []
  | fuel + 1, i => if i = 0xFF then [] else i :: branchOf tree fuel (tree.getD i 0xFF)

/-- DEPTH of a slot (R256). -/
def slotDepth (tree : List Nat) (i : Nat) : Nat := (branchOf tree 65 i).length

/-- Positions of the query rows (R191, R257). -/
def rowPositions (qpos : Bool) (len qlen : Nat) (tree : List Nat) : List (Nat × Option Nat) :=
  let n := qlen - tree.length
  (upTo qlen).map (fun r =>
    if r < n then (if qpos then r else len - n + r, none)
    else (len + slotDepth tree (r + tree.length - qlen) - 1, some (r + tree.length - qlen)))

/-- Positions of the keys in stream order (R191, R257). -/
def keyPositions (len : Nat) (tree : List Nat) : List (Nat × Option Nat) :=
  (upTo len).map (fun j => (j, none)) ++ (upTo tree.length).map (fun i => (len + slotDepth tree i - 1, some i))

/-- Which keys a row sees for a head (R191, R257). -/
def AttnSeq.sees (a : AttnSeq) (p : AttnP) (m : List Byte) (r h : Nat) : List Bool :=
  let q := a.rows.getD r (0, none)
  let anc := match q.2 with
    | some i => branchOf a.tree 65 i
    | none => []
  a.keys.map (fun k => (match k.2 with
    | none => true
    | some i => anc.contains i) && p.visible m h q.1 k.1)

/-- The query tiles of a group (R188): head lists and row lists, in order of position, then heads. -/
def AttnP.tiles (p : AttnP) (r g qlen : Nat) : List (List Nat × List Nat) :=
  let gp := min p.g r
  (pieces (max 1 (r / gp)) (upTo qlen)).flatMap (fun rows =>
    (pieces gp ((upTo p.g).map (g * p.g + ·))).map (fun hs => (hs, rows)))

/-- The rows of a tile in packing order: (row, head) (R188). -/
def packed (t : List Nat × List Nat) : List (Nat × Nat) := t.2.flatMap (fun r => t.1.map (fun h => (r, h)))

/-- The blocks [b0, b1) of keys c0 to c1. -/
def blocksOf (kb c0 c1 : Nat) : List (Nat × Nat) :=
  (upTo (ceilDiv (c1 - c0) kb)).map (fun i => (c0 + i * kb, min c1 (c0 + (i + 1) * kb)))

/-- The list elements [a, b). -/
def slice {α : Type} (l : List α) (a b : Nat) : List α := (l.drop a).take (b - a)

/-- One key block met by every row of a tile, where some row sees a key of it (R194). The row numbers that draw are the
rows of Q and O (DESIGN CHOICE, log 61). -/
def tileBlock (c : SoftCtl) (core : Nat → Nat → Nat) (a : AttnSeq) (g c0 d : Nat) (b : Nat × Nat)
    (rows : List ((Nat × Nat) × List Bool)) (acc : List Soft × FlagSet × FlagSet) : List Soft × FlagSet × FlagSet :=
  let vis := rows.map (fun r => slice r.2 b.1 b.2)
  if !vis.any (fun v => v.any id) then acc
  else
    let ks := (slice a.k b.1 b.2).map (fun k => k.getD g [])
    let vcols := turned d ((slice a.v b.1 b.2).map (fun k => k.getD g []))
    let rs := ((rows.zip vis).zip acc.1).map (fun x =>
      let r := x.1.1.1.1
      let h := x.1.1.1.2
      let cc : SoftCtl := { c with acc := { c.acc with core := core r h } }
      softBlock cc (a.row0 + r) ((b.1 - c0) / 32) ((a.q.getD r []).getD h []) ks vcols x.1.2 x.2)
    (rs.map Prod.fst, acc.2.1 ||| orFlags (rs.map (fun r => r.2.1)), acc.2.2 ||| orFlags (rs.map (fun r => r.2.2)))

/-- One tile: each row's folded partial (R211), with the array and SFU flags. -/
def tileParts (p : AttnP) (c : SoftCtl) (core : Nat → Nat → Nat → Nat) (a : AttnSeq) (m : List Byte) (g : Nat)
    (t : List Nat × List Nat) : List ((Nat × Nat) × Part3) × FlagSet × FlagSet :=
  let rows := (packed t).map (fun x => (x, a.sees p m x.1 x.2))
  let nk := a.keys.length
  let cs := if p.ksplit = 0 then max nk 1 else p.ksplit
  let chunks := (upTo (max 1 (ceilDiv nk cs))).map (fun i =>
    (blocksOf c.kb (i * cs) (min nk ((i + 1) * cs))).foldl
      (fun acc b => tileBlock c (core i) a g (i * cs) p.d b rows acc) (rows.map (fun _ => Soft.start p.d), 0, 0))
  let outs := rows.zipIdx.map (fun r =>
    (r.1.1, foldParts c.env (chunks.map (fun ch => (ch.1.getD r.2 (Soft.start p.d)).partial_))))
  (outs.map (fun o => (o.1, o.2.1)), orFlags (chunks.map (fun ch => ch.2.1)),
    orFlags (chunks.map (fun ch => ch.2.2)) ||| orFlags (outs.map (fun o => o.2.2)))

/-- Every row and head of a sequence. -/
def seqParts (p : AttnP) (c : SoftCtl) (r : Nat) (core : Nat → Nat → Nat → Nat) (a : AttnSeq) (m : List Byte) :
    List ((Nat × Nat) × Part3) × FlagSet × FlagSet :=
  let ts := (upTo p.hkv).flatMap (fun g => (p.tiles r g a.rows.length).map (fun t => tileParts p c core a m g t))
  (ts.flatMap (fun t => t.1), orFlags (ts.map (fun t => t.2.1)), orFlags (ts.map (fun t => t.2.2)))

/-! ### Reading operands -/

/-- Runs of rows `r0` to `r0 + n` of a tensor. -/
def tensorRuns (ref stride r0 n bytes : Nat) (wr : Bool) : List Run :=
  (upTo n).map (fun i => rowRun ref stride (r0 + i) bytes wr)

/-- Rows of a tensor loaded and cut into heads: `pos` gives each row's position where it is rotated. -/
def State.attnRows (s : State) (x : Desc) (p : AttnP) (freqs : List Nat) (ref stride r0 n width : Nat) (c : ConvWord)
    (seed plane : Nat) (pos : Option (List Nat)) : List (List (List Value)) × FlagSet :=
  mapFlags (fun r : Run × Nat =>
    let codes := unpack c.src width (s.fetchRun s.store x r.1)
    let vs := valuesOf c.src codes (if c.sscale then some (unplacedScales (s.scaleDraw plane) (r0 + r.2) width) else none)
    let (v, f) := p.loadRow freqs c seed (r0 + r.2) (pos.map (fun l => l.getD r.2 0)) vs
      (c.supplied (s.scaleDraw (plane + 1)) (r0 + r.2) width)
    (pieces p.d v, f)) (tensorRuns ref stride r0 n (elemBytes c.src width) false).zipIdx

/-- The pages that an entry of a Bolt-mode descriptor reads, with the header each must have: page, first
position, provisional, positions read (R205, R254). -/
def View.reads (w : View) (layer : Nat) : List (PageRef × Nat × Bool × Nat) :=
  ((w.pages.getD layer []).take (pagesOf w.len)).zipIdx.map (fun r =>
      (r.1, 64 * r.2, false, min 64 (w.len - 64 * r.2)))
    ++ (if w.nslot = 0 then [] else
        [({ pool := w.pool, page := w.prov.getD layer 0 }, w.len, true, w.nslot)])

/-- The key and value rows of a view, in stream order, decoded (R205, R230). -/
def State.viewRows (s : State) (w : View) (layer : Nat) : List (List Value × List Value) :=
  (w.reads layer).flatMap (fun r =>
    let pl := s.pool r.1.pool
    (upTo r.2.2.2).map (fun k =>
      let row := s.pageRow r.1 k
      let dec := fun (i j : Nat) => valuesOf pl.fmt (unpack pl.fmt pl.hd (row.getD i [])) (some (row.getD j []))
      (dec 0 2, dec 1 3)))

/-- The first page of a view whose header is not what the reader expects (R230). -/
def State.badPage (s : State) (w : View) (layer : Nat) : Option PageRef :=
  ((w.reads layer).find? (fun r => !s.headerOk r.1 layer r.2.1 r.2.2.1)).map Prod.fst

/-- The pages that views read for a layer cannot all be read: one is not resident (R376, R392), or its header does not match
(R230). -/
def State.boltUnread (s : State) (views : List View) (layer : Nat) : Option Work :=
  match s.firstBadPage false (views.flatMap (fun w => (w.reads layer).map Prod.fst)) with
  | some (r, a) => some (workOfAcc r a)
  | none => (views.findSome? (fun w => s.badPage w layer)).map Work.mismatch

/-- A frequency table that R196 allows. -/
def freqsOk (fs : List Nat) : Bool := fs.all scaleOk

/-- What an attention descriptor has read before its rows: the block, its fields, the entries, the map, the
frequencies. -/
structure AttnIn where
  bs : List Byte
  p : AttnP
  ents : List AttnEnt
  map : List Byte
  freqs : List Nat
  deriving DecidableEq, Repr

/-- The operands of one entry with dense keys. -/
def State.denseSeq (s : State) (x : Desc) (i : AttnIn) (q k v seed : Nat) (e : AttnEnt) : AttnSeq × FlagSet :=
  let p := i.p
  let rows := rowPositions p.qpos e.klen e.qlen []
  let keys := keyPositions e.klen []
  let (qv, f₀) := s.attnRows x p i.freqs q p.qs e.qrow e.qlen (p.hq * p.d) p.qc seed 0
    (if p.ropeQ then some (rows.map Prod.fst) else none)
  let (kv, f₁) := s.attnRows x p i.freqs k p.ks e.krow e.klen (p.hkv * p.d) p.kc seed 2
    (if p.ropeK then some (keys.map Prod.fst) else none)
  let (vv, f₂) := s.attnRows x p i.freqs v p.vs e.krow e.klen (p.hkv * p.d) p.vc seed 4 none
  ({ row0 := e.qrow, rows := rows, keys := keys, tree := [], q := qv, k := kv, v := vv }, f₀ ||| f₁ ||| f₂)

/-- The operands of one entry whose keys come from a bolt (R205, R206, R257). -/
def State.boltSeq (s : State) (x : Desc) (i : AttnIn) (seed : Nat) (e : AttnEnt) (w : View) : AttnSeq × FlagSet :=
  let p := i.p
  let tree := w.tree.take w.nslot
  let rows := rowPositions p.qpos w.len e.qlen tree
  let keys := keyPositions w.len tree
  let (qv, f₀) := s.attnRows x p i.freqs (x.field 16 8) p.qs e.qrow e.qlen (p.hq * p.d) p.qc seed 0
    (if p.ropeQ then some (rows.map Prod.fst) else none)
  let kv := s.viewRows w p.layer
  let (ks, f₁) := mapFlags (fun r : ((List Value × List Value) × (Nat × Option Nat)) × Nat =>
    if p.ropeK then
      let (v, f) := p.loadRow i.freqs p.kc seed r.2 (some r.1.2.1) r.1.1.1
        (p.kc.supplied (s.scaleDraw 3) r.2 (p.hkv * p.d))
      (pieces p.d v, f)
    else (pieces p.d r.1.1.1, 0)) (kv.zip keys).zipIdx
  ({ row0 := e.qrow, rows := rows, keys := keys, tree := tree, q := qv, k := ks,
     v := kv.map (fun r => pieces p.d r.2) }, f₀ ||| f₁)

/-! ### Results (R185, R209, R564) -/

/-- A partial record (R209). -/
def Part3.bytes (p : Part3) : List Byte :=
  natLe 4 p.m ++ natLe 4 p.l ++ List.replicate 56 0 ++ p.o.flatMap (natLe 4)

/-- Bytes of a partial record. -/
def partBytes (d : Nat) : Nat := 64 + 4 * d

/-- An LSE entry (R185). -/
def lseBytes (f : Finished) : List Byte := natLe 4 f.lse ++ natLe 1 f.flags ++ List.replicate 3 0

/-- The 64-byte unit of an area that holds entry `i` of `n` bytes. -/
def unitRun (ref n i : Nat) : Run := wrRun ref (64 * (n * i / 64)) 64

/-- The units of an area that receive entries, before the entries: external writes cover whole units, and their bytes
without data are zero (R186, R564; DEDUCED, log 40). -/
def State.clearUnits (s : State) (m : Store) (x : Desc) (ref n : Nat) (is : List Nat) : Store :=
  ((is.map (n * · / 64)).dedup).foldl (fun m u => s.storeRun m x (wrRun ref (64 * u) 64) (List.replicate 64 0)) m

/-- Entries of an area of `n` bytes each stored by number. -/
def State.putEntries (s : State) (m : Store) (x : Desc) (ref n : Nat) (es : List (Nat × List Byte)) : Store :=
  es.foldl (fun m e => s.storeRun m x (wrRun ref (n * e.1) n) e.2) m

/-- Where the rows of an entry lie in an area of LROWS entries per head. -/
def AttnP.cells (p : AttnP) (e : AttnEnt) : List Nat :=
  (upTo p.hq).flatMap (fun h => (upTo e.qlen).map (fun r => h * p.lrows + e.qrow + r))

/-- Finished rows stored as O and LSE (R185, R201): the memories and the SFU-path flags. -/
def State.putFinished (s : State) (m : Store) (x : Desc) (p : AttnP) (env : SfuEnv) (seed oref lref : Nat) (e : AttnEnt)
    (parts : List ((Nat × Nat) × Part3)) : Store × FlagSet :=
  let fin := parts.map (fun q => (q.1, finishRow env p.lse2 q.2))
  let get := fun (r h : Nat) => (fin.find? (fun q => q.1 == (r, h))).map (fun q => q.2.1)
  let outs := (upTo e.qlen).map (fun r =>
    let pats := (upTo p.hq).flatMap (fun h => match get r h with
      | some f => f.o
      | none => [])
    (r, storeRow p.oc p.iovf seed (e.qrow + r) pats (p.oc.supplied (s.scaleDraw 6) (e.qrow + r) (p.hq * p.d))))
  let m := outs.foldl (fun m o =>
    s.storeRun m x (rowRun oref p.os (e.qrow + o.1) (64 * rowUnits p.oc.dst (p.hq * p.d)) true)
      (padUnit (pack p.oc.dst o.2.codes))) m
  let m := if lref = 0 then m
    else s.putEntries m x lref 8 (fin.map (fun q => (q.1.2 * p.lrows + e.qrow + q.1.1, lseBytes q.2.1)))
  (m, orFlags (fin.map (fun q => q.2.2)) ||| orFlags (outs.map (fun o => o.2.flags)))

/-- Partial records stored (R209). -/
def State.putParts (s : State) (m : Store) (x : Desc) (p : AttnP) (e : AttnEnt) (parts : List ((Nat × Nat) × Part3)) :
    Store :=
  parts.foldl (fun m q => s.storeRun m x
    (wrRun p.partref (partBytes p.d * (q.1.2 * p.lrows + e.qrow + q.1.1)) (partBytes p.d)) q.2.bytes) m

/-! ### ATTN_FWD (R182) -/

/-- Direct checks of an ATTN_FWD, in byte order. -/
def attnFwdChecks (bs : List Byte) : List (Nat × Bool) :=
  [refField bs 8 true, (8, refAligned (fieldOf bs 8 8) 64), refField bs 16 true, (16, refAligned (fieldOf bs 16 8) 64)]
    ++ [24, 32, 40, 48].flatMap (fun o => [refMaybe bs o, (o, refAligned (fieldOf bs o 8) 64)]) ++ reservedBytes bs 60 4

/-- References of a parameter block (R390): its own and those it holds. -/
def AttnP.refs (p : AttnP) : List RefUse :=
  [useRd 0xFFFF p.mapref p.mapBytes, useRd 0xFFFF p.seqlist (16 * p.nseq), useRd 0xFFFF p.ropetab (4 * p.np),
   useWr 0xFFFF p.partref 0]

/-- References of an ATTN_FWD. -/
def State.attnFwdRefs (s : State) (bs : List Byte) : List RefUse :=
  let pr := fieldOf bs 8 8
  let p := attnP (s.peekRef pr 0 128)
  [useRd 8 pr 128, useRd 16 (fieldOf bs 16 8) 0, useRd 24 (fieldOf bs 24 8) 0, useRd 32 (fieldOf bs 32 8) 0,
   useWr 40 (fieldOf bs 40 8) 0, useWr 48 (fieldOf bs 48 8) 0] ++ p.refs

/-- The block and lists of an attention descriptor read and checked, or the outcome that ends it. `direct` holds
what the block asks of descriptor bytes. `kept` holds the block as it was read at the descriptor's dequeue, or a loop's
private copy (R183, R274); a block that could not be read then is read now. -/
def State.attnRead (s : State) (x : Desc) (bwd : Bool) (direct : AttnP → List (Nat × Bool)) : Except Work AttnIn :=
  let pr := rdRun (x.field 8 8) 0 128
  match (if x.kept.isEmpty then s.firstBad x [pr] else none) with
  | some (r, a) => .error (workOfAcc r a)
  | none =>
    let bs := if x.kept.isEmpty then s.fetchRun s.store x pr else x.kept
    let p := attnP bs
    match firstFail (direct p) with
    | some o => .error (.bad 0x03 o)
    | none =>
      if !p.ok bs bwd then .error (.bad 0x03 0xFFFF)
      else
        let lr := rdRun p.seqlist 0 (16 * p.nseq)
        let mr := rdRun p.mapref 0 p.mapBytes
        let fr := rdRun p.ropetab 0 (if p.ropeQ || p.ropeK then 4 * p.np else 0)
        match s.firstBad x [lr, mr, fr] with
        | some (r, a) => .error (workOfAcc r a)
        | none =>
          let ents := (pieces 16 (s.fetchRun s.store x lr)).map attnEnt
          let map := if p.map then s.fetchRun s.store x mr else []
          let freqs := f32List (s.fetchRun s.store x fr)
          if !ents.all (fun e => e.ok p.bolt p.qpos) || !freqsOk freqs then .error (.bad 0x03 0xFFFF)
          else .ok { bs := bs, p := p, ents := ents, map := map, freqs := freqs }

/-- What the block asks of an ATTN_FWD's own fields (R182). -/
def fwdDirect (bs : List Byte) (p : AttnP) : List (Nat × Bool) :=
  [refField bs 24 (!p.bolt), refField bs 32 (!p.bolt), refField bs 40 (!p.part),
   (48, !(p.part && fieldOf bs 48 8 != 0))]

/-- Why an entry of a Bolt-mode list is skipped at dequeue (R565). -/
def State.entrySkips (s : State) (p : AttnP) (e : AttnEnt) : Bool :=
  let q := s.seqn e.krow
  q.st != .live || q.layers ≤ p.layer || (q.spec && e.qlen < q.nslot)
    || (!p.qpos && q.len < e.qlen - (if q.spec then q.nslot else 0))

/-- A Bolt-mode list that ends the whole descriptor (R205, R221, R227, R232, R241). -/
def State.boltListBad (s : State) (x : Desc) (p : AttnP) (ents : List AttnEnt) : Option Work :=
  let part := s.partOf x
  if s.seqTab.isNone || ents.any (fun e => !s.ownsSeq part e.krow) then some (.bad 0x03 0xFFFF)
  else if ents.any (fun e => (s.seqn e.krow).quar) then some (.bad 0x30 0xFFFE)
  else
    let pools := (x.views.map (fun w => w.pool)).map s.pool
    if pools.any Pool.quar || x.views.any (fun w => (w.reads p.layer).any (fun r => (s.pool r.1.pool).quar)) then
      some (.bad 0x7F 0)
    else if pools.any (fun q => q.hm1 + 1 != p.hkv || 32 * (q.dh + 1) != p.d || q.fmt != p.kc.src || q.fmt != p.vc.src)
        || (!pools.isEmpty && !(p.kc.sscale && p.vc.sscale)) then some (.bad 0x03 0xFFFF)
    else none

/-- The views a Bolt-mode ATTN_FWD takes when it is dequeued, and the entries it skips (R254, R565). -/
def State.attnViews (s : State) (x : Desc) : List View × List Nat :=
  match s.attnRead x false (fwdDirect x.bytes) with
  | .error _ => ([], [])
  | .ok i =>
    if !i.p.bolt then ([], [])
    else
      let skips := (i.ents.zipIdx.filter (fun e => s.entrySkips i.p e.1)).map Prod.snd
      let kept := (i.ents.zipIdx.filter (fun e => !skips.contains e.2)).map (fun e => e.1.krow)
      (kept.dedup.map s.viewOf, skips)

/-- The entries that run: each with its view where its keys come from a bolt; and the status that skips leave
(R253, R565). -/
def attnLive (x : Desc) (i : AttnIn) : List (AttnEnt × Option View) × Nat :=
  if !i.p.bolt then (i.ents.map (fun e => (e, none)), 0)
  else i.ents.zipIdx.foldl (fun acc e =>
    match x.views.find? (fun w => w.seq == e.1.krow) with
    | none => (acc.1, mergeStatus 0x03 acc.2)
    | some w =>
      if x.skipped.contains e.2 then (acc.1, mergeStatus 0x03 acc.2)
      else if w.lastst = 0x51 then (acc.1, mergeStatus 0x51 acc.2)
      else (acc.1 ++ [(e.1, some w)], acc.2)) ([], 0)

/-- The runs of one entry of an ATTN_FWD. -/
def AttnP.fwdRuns (p : AttnP) (x : Desc) (e : AttnEnt) : List Run :=
  let qw := p.hq * p.d
  let kw := p.hkv * p.d
  let cells := p.cells e
  tensorRuns (x.field 16 8) p.qs e.qrow e.qlen (elemBytes p.qc.src qw) false
    ++ (if p.bolt then [] else
        tensorRuns (x.field 24 8) p.ks e.krow e.klen (elemBytes p.kc.src kw) false
          ++ tensorRuns (x.field 32 8) p.vs e.krow e.klen (elemBytes p.vc.src kw) false)
    ++ (if p.part then cells.map (fun c => wrRun p.partref (partBytes p.d * c) (partBytes p.d))
        else tensorRuns (x.field 40 8) p.os e.qrow e.qlen (64 * rowUnits p.oc.dst qw) true)
    ++ (if x.field 48 8 = 0 then [] else cells.map (unitRun (x.field 48 8) 8))

/-- The key of a placement with a KSPLIT chunk (R126). -/
def chunkKey (key chunk : Nat) : Nat := key + chunk * 2 ^ 1040

/-- One entry performed: its operands, softmax and results. -/
def State.fwdEntry (s : State) (x : Desc) (i : AttnIn) (t : AttnTile) (acc : Store × FlagSet × FlagSet)
    (e : AttnEnt × Option View) : Store × FlagSet × FlagSet :=
  let p := i.p
  let seed := x.field 56 4
  let env := envOf p.sfu (s.recovering x.ctx)
  let key := s.placeKey x.ctx i.bs
  let (a, fl) := match e.2 with
    | none => s.denseSeq x i (x.field 16 8) (x.field 24 8) (x.field 32 8) seed e.1
    | some w => s.boltSeq x i seed e.1 w
  let c : SoftCtl :=
    { pre := p.pre, pfmt := p.pfmt, pscale := p.pscale, env := env, kb := t.kb,
      acc := { sr := bitsOf p.acc 0 2 == 2, seed := seed, core := 0, mvp := t.mvp, iovf := false } }
  let core := fun ch r h => Config.srCore (chunkKey key ch) (e.1.qrow + r) (h * p.d)
  let (parts, fa, fs) := seqParts p c t.r core a i.map
  if p.part then (s.putParts acc.1 x p e.1 parts, acc.2.1 ||| fl ||| fa, acc.2.2 ||| fs)
  else
    let (m, fo) := s.putFinished acc.1 x p env seed (x.field 40 8) (x.field 48 8) e.1 parts
    (m, acc.2.1 ||| fl ||| fa, acc.2.2 ||| fs ||| fo)

/-- ATTN_FWD (R180 to R211). -/
def State.attnWork (s : State) (x : Desc) : Work :=
  match s.attnRead x false (fwdDirect x.bytes) with
  | .error w => w
  | .ok i =>
    let p := i.p
    match (if p.bolt then s.boltListBad x p i.ents else none) with
    | some w => w
    | none =>
      let (live, skip) := attnLive x i
      let rows := (i.ents.map AttnEnt.qlen).sum
      if !p.part && 1 < rows && p.os < rowUnits p.oc.dst (p.hq * p.d) then .bad 0x03 0xFFFF
      else match s.boltUnread (live.filterMap Prod.snd) p.layer with
        | some w => w
        | none =>
          s.guarded x (live.flatMap (fun e => p.fwdRuns x e.1)) (fun _ =>
            let t := p.tile (i.ents.map AttnEnt.qlen)
            let lse := x.field 48 8
            let m := if lse = 0 then s.store else s.clearUnits s.store x lse 8 (live.flatMap (fun e => p.cells e.1))
            let (m, fa, fs) := live.foldl (s.fwdEntry x i t) (m, 0, 0)
            let uses := if p.part then [0x13] else [0x13, 0x19, 0x14]
            .done (mergeStatus skip (recoveryStatus (s.recovering x.ctx) uses)) fa fs m)

/-- ATTN_FWD (R180 to R211). -/
def execAttnFwd (c : RunCmd) (s : State) : Host.Outcome State Fault Refusal := .next (s.kernelDo c 0x01 State.attnWork)

end Sys2Proof.Machine
end

