-- ==== Sys2Proof/Machine/AttnGrad.lean ====
section
/-!
DEFINITION. MERGE (R210 to R213) and ATTN_BWD (R215 to R220).
-/

namespace Sys2Proof.Machine

/-! ### MERGE (R212, R213) -/

/-- The fields of a MERGE. -/
structure MergeDesc where
  rows : Nat
  d : Nat
  mode : Nat
  lse2 : Bool
  outPart : Bool
  arrays : Nat
  nmem : Nat
  member : Nat
  oconv : Nat
  sfu : Nat
  deriving DecidableEq, Repr

/-- The fields. -/
def mergeOf (bs : List Byte) : MergeDesc :=
  let b := byteOf bs 44
  { rows := fieldOf bs 40 4, d := 32 * (bitsOf b 0 3 + 1), mode := bitsOf b 3 2, lse2 := bitOf b 5,
    outPart := bitOf b 6, arrays := byteOf bs 45 + 1, nmem := fieldOf bs 46 2, member := fieldOf bs 48 2,
    oconv := fieldOf bs 50 2, sfu := fieldOf bs 52 4 }

/-- The mode finishes rows into O and LSE. -/
def MergeDesc.finishes (g : MergeDesc) : Bool := g.mode == 3 || (g.mode == 0 && !g.outPart)
/-- The store word of O. -/
def MergeDesc.oc (g : MergeDesc) : ConvWord := convOf g.oconv
/-- Bytes of DST: whole 64-byte units; O rows lie one row of whole units apart (log 38). -/
def MergeDesc.dstBytes (g : MergeDesc) : Nat :=
  if g.mode = 1 then 64 * ceilDiv (4 * g.rows * g.nmem) 64
  else if g.finishes then 64 * rowUnits g.oc.dst g.d * g.rows
  else partBytes g.d * g.rows

/-- What R141 and R183 ask of the control word at byte `off` of a descriptor. -/
def attnCtlChecks (off w : Nat) : List (Nat × Bool) :=
  let fl := bitsOf w 16 8
  [(off, bitsOf w 0 3 == 0 && bitsOf w 5 3 == 0), (off + 1, bitsOf w 8 8 == 0),
   (off + 2, fl == 0 || (16 ≤ fl && fl ≤ 149)), (off + 3, bitsOf w 24 8 == 0)]

/-- Direct checks of a MERGE, in byte order. -/
def mergeChecks (bs : List Byte) : List (Nat × Bool) :=
  let g := mergeOf bs
  let fold := g.mode == 0
  [refField bs 8 true, refField bs 16 true, (16, refAligned (fieldOf bs 16 8) 64),
   (if g.mode = 1 then refMaybe bs 24 else refField bs 24 (!fold)), refMaybe bs 32,
   (32, refAligned (fieldOf bs 32 8) 64), (44, fold || !g.outPart), reservedBits bs 44 7 1,
   (45, fold || g.arrays == 1), (46, if fold then g.nmem == 0 else 1 ≤ g.nmem && g.nmem ≤ 4096),
   (48, fold || g.member < g.nmem), (50, g.oc.src == 0)] ++ convChecks 50 g.oconv false
    ++ attnCtlChecks 52 g.sfu ++ reservedBytes bs 56 8

/-- References of a MERGE. -/
def mergeRefs (bs : List Byte) : List RefUse :=
  let g := mergeOf bs
  [useRd 8 (fieldOf bs 8 8) (partBytes g.d * g.rows * g.arrays), useWr 16 (fieldOf bs 16 8) g.dstBytes,
   useRd 24 (fieldOf bs 24 8) (if 2 ≤ g.mode then 4 * g.rows * g.nmem else 0),
   useWr 32 (fieldOf bs 32 8) (if g.finishes then 64 * ceilDiv (8 * g.rows) 64 else 0)]

/-- The partial that a record holds. -/
def partOfBytes (bs : List Byte) (d : Nat) : Part3 :=
  { m := fieldOf bs 0 4, l := fieldOf bs 4 4, o := (upTo d).map (fun j => fieldOf bs (64 + 4 * j) 4) }

/-- Records of an area. -/
def partsOfBytes (bs : List Byte) (d : Nat) : List Part3 := (pieces (partBytes d) bs).map (fun r => partOfBytes r d)

/-- The maximum of a row of the maxima vector, with MAX's flags (R213). -/
def rowMax : List Nat → Flagged
  | [] => (negInf, 0)
  | v :: vs => vs.foldl (fun a b => andThen a (fun m => maxF m b)) (v, 0)

/-- One row rescaled to the common maximum (R213). -/
def rescalePart (env : SfuEnv) (mm : Flagged) (p : Part3) : Part3 × FlagSet :=
  let al : Flagged := andThen mm (fun m =>
    if m = negInf then (0, 0) else andThen (subF .rne p.m m) (fun t => builtin env 0x13 t 0))
  let l := mulF .rne p.l al.1
  let (o, f) := mapFlags (fun v => mulF .rne v al.1) p.o
  ({ m := 0, l := l.1, o := o }, al.2 ||| l.2 ||| f)

/-- The output partials of a mode, one per row. -/
def MergeDesc.parts (g : MergeDesc) (env : SfuEnv) (src : List Part3) (maxv : List Nat) : List Part3 × FlagSet :=
  let row := fun r => slice maxv (r * g.nmem) ((r + 1) * g.nmem)
  mapFlags (fun r =>
    let p := src.getD r (Soft.start g.d).partial_
    match g.mode with
    | 0 => foldParts env ((upTo g.arrays).map (fun i => src.getD (i * g.rows + r) (Soft.start g.d).partial_))
    | 2 => rescalePart env (rowMax (row r)) p
    | 3 => let m := rowMax (row r)
      ({ p with m := m.1 }, m.2)
    | _ => (p, 0)) (upTo g.rows)

/-- The maxima vector of MAXSLOT (R213). -/
def MergeDesc.maxVector (g : MergeDesc) (src : List Part3) : List Byte :=
  padUnit ((upTo g.rows).flatMap (fun r => (upTo g.nmem).flatMap (fun i =>
    natLe 4 (if i = g.member then (src.getD r (Soft.start g.d).partial_).m else 0))))

/-- Finished rows of a MERGE stored (R201, R212); stochastic rounding takes seed 0 (DESIGN CHOICE, log 65). -/
def State.mergeFinish (s : State) (x : Desc) (g : MergeDesc) (env : SfuEnv) (parts : List Part3) : Store × FlagSet :=
  let fin := parts.map (finishRow env g.lse2)
  let outs := fin.zipIdx.map (fun f => storeRow g.oc true 0 f.2 f.1.1.o (g.oc.supplied (s.scaleDraw 6) f.2 g.d))
  let m := outs.zipIdx.foldl (fun m o =>
    s.storeRun m x (rowRun (x.field 16 8) (rowUnits g.oc.dst g.d) o.2 (64 * rowUnits g.oc.dst g.d) true)
      (padUnit (pack g.oc.dst o.1.codes))) s.store
  let lr := x.field 32 8
  let m := if lr = 0 then m
    else s.storeRun m x (wrRun lr 0 (64 * ceilDiv (8 * g.rows) 64)) (padUnit (fin.flatMap (fun f => lseBytes f.1)))
  (m, orFlags (fin.map (fun f => f.2)) ||| orFlags (outs.map RowOut.flags))

/-- MERGE (R210, R212, R213). -/
def State.mergeWork (s : State) (x : Desc) : Work :=
  let g := mergeOf x.bytes
  let sr := rdRun (x.field 8 8) 0 (partBytes g.d * g.rows * g.arrays)
  let mr := rdRun (x.field 24 8) 0 (if 2 ≤ g.mode then 4 * g.rows * g.nmem else 0)
  let dr := wrRun (x.field 16 8) 0 g.dstBytes
  let lr := wrRun (x.field 32 8) 0 (if g.finishes && x.field 32 8 != 0 then 64 * ceilDiv (8 * g.rows) 64 else 0)
  s.guarded x [sr, mr, dr, lr] (fun _ =>
    let env := envOf g.sfu (s.recovering x.ctx)
    let src := partsOfBytes (s.fetchRun s.store x sr) g.d
    let maxv := if 2 ≤ g.mode then f32List (s.fetchRun s.store x mr) else []
    let st := fun uses => recoveryStatus (s.recovering x.ctx) uses
    if g.mode = 1 then .done 0 0 0 (s.storeRun s.store x dr (g.maxVector src))
    else
      let (ps, f) := g.parts env src maxv
      if g.finishes then
        let (m, f') := s.mergeFinish x g env ps
        .done (st [0x13, 0x19, 0x14]) 0 (f ||| f') m
      else .done (st [0x13]) 0 f (s.storeRun s.store x dr (ps.flatMap Part3.bytes)))

/-- A MERGE of one mode performed. -/
def State.mergeMode (s : State) (c : RunCmd) (mode : Nat) : State :=
  match s.desc? c.d with
  | some x => if (mergeOf x.bytes).mode = mode then s.kernelDo c 0x07 State.mergeWork else s
  | none => s

/-- MERGE in FOLD mode (R213). -/
def execMergeFold (c : RunCmd) (s : State) : Host.Outcome State Fault Refusal := .next (s.mergeMode c 0)
/-- MERGE in MAXSLOT mode (R213). -/
def execMergeMaxslot (c : RunCmd) (s : State) : Host.Outcome State Fault Refusal := .next (s.mergeMode c 1)
/-- MERGE in RESCALE mode (R213). -/
def execMergeRescale (c : RunCmd) (s : State) : Host.Outcome State Fault Refusal := .next (s.mergeMode c 2)
/-- MERGE in FINISH mode (R213). -/
def execMergeFinish (c : RunCmd) (s : State) : Host.Outcome State Fault Refusal := .next (s.mergeMode c 3)

/-! ### ATTN_BWD (R215, R216) -/

/-- The fields of a backward tensor block. -/
structure Tens where
  q : Nat
  k : Nat
  v : Nat
  o : Nat
  dO : Nat
  lse : Nat
  dQ : Nat
  dK : Nat
  dV : Nat
  work : Nat
  doconv : Nat
  dqconv : Nat
  dkconv : Nat
  dvconv : Nat
  deriving DecidableEq, Repr

/-- The fields. -/
def tensOf (bs : List Byte) : Tens :=
  { q := fieldOf bs 0 8, k := fieldOf bs 8 8, v := fieldOf bs 16 8, o := fieldOf bs 24 8, dO := fieldOf bs 32 8,
    lse := fieldOf bs 40 8, dQ := fieldOf bs 48 8, dK := fieldOf bs 56 8, dV := fieldOf bs 64 8,
    work := fieldOf bs 72 8, doconv := fieldOf bs 80 2, dqconv := fieldOf bs 82 2, dkconv := fieldOf bs 84 2,
    dvconv := fieldOf bs 86 2 }

/-- What R216 and R564 ask of the block for the rows it stores. -/
def Tens.ok (t : Tens) (bs : List Byte) (p : AttnP) (qrows krows : Nat) : Bool :=
  let out := fun w stride width rows =>
    convOk w false && (convOf w).src == 0 && !(1 < rows && stride < rowUnits (convOf w).dst width)
  [t.q, t.k, t.v, t.o, t.dO, t.lse].all (fun r => refIs r true false)
    && [t.dQ, t.dK, t.dV, t.work].all (fun r => refIs r true true)
    && convOk t.doconv false && isFloatOperand (convOf t.doconv).dst
    && out t.dqconv p.qs (p.hq * p.d) qrows && out t.dkconv p.ks (p.hkv * p.d) krows
    && out t.dvconv p.vs (p.hkv * p.d) krows && zeroField bs 88 40

/-- Direct checks of an ATTN_BWD, in byte order. -/
def attnBwdChecks (bs : List Byte) : List (Nat × Bool) :=
  [refField bs 8 true, (8, refAligned (fieldOf bs 8 8) 64), refField bs 16 true, (16, refAligned (fieldOf bs 16 8) 64)]
    ++ reservedBytes bs 28 36

/-- References of an ATTN_BWD. -/
def State.attnBwdRefs (s : State) (bs : List Byte) : List RefUse :=
  let p := attnP (s.peekRef (fieldOf bs 8 8) 0 128)
  let t := tensOf (s.peekRef (fieldOf bs 16 8) 0 128)
  [useRd 8 (fieldOf bs 8 8) 128, useRd 16 (fieldOf bs 16 8) 128] ++ p.refs
    ++ [t.q, t.k, t.v, t.o, t.dO, t.lse].map (fun r => useRd 0xFFFF r 0)
    ++ [t.dQ, t.dK, t.dV].map (fun r => useWr 0xFFFF r 0)
    ++ [{ pos := 0xFFFF, ref := t.work, len := 4 * p.hq * p.lrows, rd := true, wr := true }]

/-! ### The passes (R217 to R219) -/

/-- A row as the backward phases see it: base-2 LSE, its flags, and D. -/
structure BwdRow where
  lse2 : Nat
  masked : Bool
  isNan : Bool
  dl : Nat
  deriving DecidableEq, Repr

/-- What a score gives: p and dS as they enter the array, with array and SFU flags (R218). -/
structure Cell where
  p : Value
  ds : Value
  fa : FlagSet
  fs : FlagSet
  deriving DecidableEq, Repr

/-- One (query, key) pair (R218): `row` and `col` number the pass's output (R124). -/
def bwdCell (c : SoftCtl) (row col : Nat) (q k dO v : List Value) (sees : Bool) (b : BwdRow) : Cell :=
  let s := dotFloat c.acc row col 0 none q k
  let dp := dotFloat c.acc row col 0 none dO v
  let p : Flagged := if !sees || b.masked then (0, 0)
    else if b.isNan then (nan32, 0)
    else andThen (andThen (mulF .rne (s.1.getD 0) c.pre) (fun t => subF .rne t b.lse2)) (fun t => builtin c.env 0x13 t 0)
  let u := subF .rne (dp.1.getD 0) b.dl
  let ds := mulF .rne p.1 u.1
  let ep := probOf c.pfmt 0 p.1
  let eds := probOf c.pfmt 0 ds.1
  { p := ep.1, ds := eds.1, fa := s.2 ||| dp.2, fs := p.2 ||| u.2 ||| ds.2 ||| ep.2 ||| eds.2 }

/-- A sequence of the backward pass: the operands, the output gradient and the rows' values, by row and head. -/
structure BwdSeq where
  a : AttnSeq
  k0 : Nat
  dO : List (List (List Value))
  rows : List (List BwdRow)
  deriving DecidableEq, Repr

/-- The row values of a (row, head). -/
def BwdSeq.row (b : BwdSeq) (r h : Nat) : BwdRow :=
  (b.rows.getD r []).getD h { lse2 := 0, masked := true, isNan := false, dl := 0 }

/-- Elements of a sum added from a pass, one per column (R219). -/
def addColumns (a : AccCtl) (row g : Nat) (acc : List (Option Nat)) (w : List Value) (cols : List (List Value)) :
    List (Option Nat) × FlagSet :=
  mapFlags (fun e : (Option Nat × List Value) × Nat =>
    addGroups a row (e.2 % 128) g e.1.1 (pieces 32 (w.zip e.1.2))) (acc.zip cols).zipIdx

/-- Sums of one output row, dV and dK of a key, or dQ of a query, with flags. -/
structure Sums where
  x : List (Option Nat)
  y : List (Option Nat)
  fa : FlagSet
  fs : FlagSet
  deriving DecidableEq, Repr

/-- No sum yet. -/
def Sums.start (d : Nat) : Sums := { x := List.replicate d none, y := List.replicate d none, fa := 0, fs := 0 }

/-- One key met by one query tile, its ordinal `t` among the tiles (R217, R219). -/
def keyTile (p : AttnP) (c : SoftCtl) (b : BwdSeq) (m : List Byte) (g j t : Nat) (cells : List (Nat × Nat)) (acc : Sums) :
    Sums :=
  let kv := (b.a.k.getD j []).getD g []
  let vv := (b.a.v.getD j []).getD g []
  let row := b.k0 + j
  let at_ := fun (l : List (List (List Value))) (x : Nat × Nat) => (l.getD x.1 []).getD x.2 []
  let cs := cells.zipIdx.map (fun e =>
    let x := e.1
    bwdCell c row (e.2 % 128) (at_ b.a.q x) kv (at_ b.dO x) vv ((b.a.sees p m x.1 x.2).getD j false) (b.row x.1 x.2))
  let dv := addColumns c.acc row (4 * t) acc.x (cs.map Cell.p) (turned p.d (cells.map (at_ b.dO)))
  let dk := addColumns c.acc row (4 * t) acc.y (cs.map Cell.ds) (turned p.d (cells.map (at_ b.a.q)))
  { x := dv.1, y := dk.1, fa := acc.fa ||| dv.2 ||| dk.2 ||| orFlags (cs.map Cell.fa),
    fs := acc.fs ||| orFlags (cs.map Cell.fs) }

/-- A row of +0 that fills a block beyond its sequence's keys (R208). -/
def fillKey (d : Nat) : List (List Value) := [List.replicate d (.fin false 0 0)]

/-- Flags of the products of one (row, head) with the +0 keys that fill a block (R208, R220); the SFU step of a fill
column raises none (DESIGN CHOICE, log 64). -/
def BwdSeq.fillFlags (b : BwdSeq) (a : AccCtl) (d row : Nat) (x : Nat × Nat) : FlagSet :=
  (scoresOf a row ((b.a.q.getD x.1 []).getD x.2 []) (fillKey d)).2
    ||| (scoresOf a row ((b.dO.getD x.1 []).getD x.2 []) (fillKey d)).2

/-- The key-side phase of one sequence and group: dV and dK sums of every key (R217). -/
def keySide (p : AttnP) (c : SoftCtl) (core : Nat → Nat) (b : BwdSeq) (m : List Byte) (g : Nat) : List Sums :=
  let ts := ((p.tiles 128 g b.a.rows.length).map packed).zipIdx
  (pieces 128 (upTo b.a.keys.length)).flatMap (fun blk =>
    let live := ts.filter (fun t => t.1.any (fun x => blk.any (fun j => (b.a.sees p m x.1 x.2).getD j false)))
    let fill := if blk.length < 128 then orFlags (live.flatMap (fun t => t.1.map (b.fillFlags c.acc p.d b.k0))) else 0
    blk.map (fun j => live.foldl (fun acc t =>
      keyTile p { c with acc := { c.acc with core := core (b.k0 + j) } } b m g j t.2 t.1 acc)
        { Sums.start p.d with fa := fill }))

/-- One query row met by one key block (R217, R219); its products with the +0 rows that fill the block may still raise
flags (R208, R220). -/
def rowBlock (p : AttnP) (c : SoftCtl) (b : BwdSeq) (m : List Byte) (g : Nat) (x : Nat × Nat) (acc : Sums)
    (blk : Nat × Nat) : Sums :=
  let row := b.a.row0 + x.1
  let js := (upTo (blk.2 - blk.1)).map (blk.1 + ·)
  let see := b.a.sees p m x.1 x.2
  let kAt := fun j => (b.a.k.getD j []).getD g []
  let cs := js.map (fun j => bwdCell c row ((j - blk.1) % 128) ((b.a.q.getD x.1 []).getD x.2 []) (kAt j)
    ((b.dO.getD x.1 []).getD x.2 []) ((b.a.v.getD j []).getD g []) (see.getD j false) (b.row x.1 x.2))
  let dq := addColumns c.acc row (blk.1 / 32) acc.x (cs.map Cell.ds) (turned p.d (js.map kAt))
  let fill := if js.length < c.kb then b.fillFlags c.acc p.d row x else 0
  { acc with x := dq.1, fa := acc.fa ||| dq.2 ||| fill ||| orFlags (cs.map Cell.fa),
             fs := acc.fs ||| orFlags (cs.map Cell.fs) }

/-- The query-side phase of one sequence and group: the sums of every (row, head) (R217). -/
def querySide (p : AttnP) (c : SoftCtl) (core : Nat → Nat → Nat) (b : BwdSeq) (m : List Byte) (g : Nat) :
    List ((Nat × Nat) × Sums) :=
  ((p.tiles 128 g b.a.rows.length).map packed).flatMap (fun t =>
    let live := (blocksOf c.kb 0 b.a.keys.length).filter (fun blk =>
      t.any (fun x => (slice (b.a.sees p m x.1 x.2) blk.1 blk.2).any id))
    t.map (fun x => (x, live.foldl
      (rowBlock p { c with acc := { c.acc with core := core (b.a.row0 + x.1) x.2 } } b m g x) (Sums.start p.d))))

/-- A gradient row from its sums: valid sums, +0 elsewhere (R133), scaled (R217). -/
def scaled (sigma : Option Nat) (l : List (Option Nat)) : List Nat × FlagSet :=
  mapFlags (fun v : Option Nat => match sigma with
    | some k => mulF .rne (v.getD 0) k
    | none => (v.getD 0, 0)) l

/-- A dQ row (R218). -/
def dqRow (sigma : Nat) (b : BwdRow) (l : List (Option Nat)) : List Nat × FlagSet :=
  if b.masked then (l.map (fun _ => 0), 0)
  else if b.isNan then (l.map (fun _ => nan32), 0)
  else scaled (some sigma) l

/-! ### A sequence's backward pass -/

/-- What a backward pass has read: the forward inputs and the tensor block. -/
structure BwdIn where
  i : AttnIn
  t : Tens
  tb : List Byte
  deriving DecidableEq, Repr

/-- The forward output as values of OCONV's target format (R216). -/
def State.outRows (s : State) (x : Desc) (i : BwdIn) (e : AttnEnt) : List (List (List Value)) :=
  let p := i.i.p
  let w := p.hq * p.d
  (tensorRuns i.t.o p.os e.qrow e.qlen (elemBytes p.oc.dst w) false).zipIdx.map (fun r =>
    let codes := unpack p.oc.dst w (s.fetchRun s.store x r.1)
    pieces p.d (valuesOf p.oc.dst codes
      (if isZ p.oc.dst && p.oc.dscale != 0 then some (unplacedScales (s.scaleDraw 6) (e.qrow + r.2) w) else none)))

/-- The row values of a sequence: LSE entries and D (R217, R218). -/
def State.bwdRows (s : State) (x : Desc) (i : BwdIn) (e : AttnEnt) (dO o : List (List (List Value))) :
    List (List BwdRow) × FlagSet × FlagSet :=
  let p := i.i.p
  let a : AccCtl := { sr := false, seed := 0, core := 0, mvp := false, iovf := false }
  let rs := (upTo e.qlen).map (fun r => (upTo p.hq).map (fun h =>
    let bs := s.fetchRun s.store x (rdRun i.t.lse (8 * (h * p.lrows + e.qrow + r)) 8)
    let v := fieldOf bs 0 4
    let l : Flagged := if p.lse2 then (v, 0) else mulF .rne v 0x3FB8AA3B
    let d := dotFloat a 0 0 0 none ((dO.getD r []).getD h []) ((o.getD r []).getD h [])
    (({ lse2 := l.1, masked := bitOf (byteOf bs 4) 0, isNan := bitOf (byteOf bs 4) 1, dl := d.1.getD 0 } : BwdRow),
     d.2, l.2)))
  (rs.map (fun r => r.map (fun c => c.1)), orFlags (rs.flatten.map (fun c => c.2.1)),
   orFlags (rs.flatten.map (fun c => c.2.2)))

/-- The runs of one entry of an ATTN_BWD. -/
def BwdIn.runs (i : BwdIn) (e : AttnEnt) : List Run :=
  let p := i.i.p
  let t := i.t
  let qw := p.hq * p.d
  let kw := p.hkv * p.d
  let cells := p.cells e
  tensorRuns t.q p.qs e.qrow e.qlen (elemBytes p.qc.src qw) false
    ++ tensorRuns t.k p.ks e.krow e.klen (elemBytes p.kc.src kw) false
    ++ tensorRuns t.v p.vs e.krow e.klen (elemBytes p.vc.src kw) false
    ++ tensorRuns t.o p.os e.qrow e.qlen (elemBytes p.oc.dst qw) false
    ++ tensorRuns t.dO p.os e.qrow e.qlen (elemBytes (convOf t.doconv).src qw) false
    ++ cells.map (fun c => rdRun t.lse (8 * c) 8) ++ cells.map (unitRun t.work 4)
    ++ tensorRuns t.dQ p.qs e.qrow e.qlen (64 * rowUnits (convOf t.dqconv).dst qw) true
    ++ tensorRuns t.dK p.ks e.krow e.klen (64 * rowUnits (convOf t.dkconv).dst kw) true
    ++ tensorRuns t.dV p.vs e.krow e.klen (64 * rowUnits (convOf t.dvconv).dst kw) true

/-- Gradient rows stored: the memories and the flags. -/
def State.putGrad (s : State) (x : Desc) (m : Store) (iovf : Bool) (ref stride r0 w seed plane : Nat) (rows : List (List Nat)) :
    Store × FlagSet :=
  let c := convOf w
  let outs := rows.zipIdx.map (fun r =>
    (r.2, storeRow c iovf seed (r0 + r.2) r.1 (c.supplied (s.scaleDraw plane) (r0 + r.2) r.1.length), r.1.length))
  (outs.foldl (fun m o => s.storeRun m x (rowRun ref stride (r0 + o.1) (64 * rowUnits c.dst o.2.2) true)
    (padUnit (pack c.dst o.2.1.codes))) m, orFlags (outs.map (fun o => o.2.1.flags)))

/-- One entry's three phases (R217); the query side takes the key blocks of R189 that are not narrow (DESIGN CHOICE,
log 64). -/
def State.bwdEntry (s : State) (x : Desc) (i : BwdIn) (acc : Store × FlagSet × FlagSet) (e : AttnEnt) :
    Store × FlagSet × FlagSet :=
  let p := i.i.p
  let t := i.t
  let seed := x.field 24 4
  let key := s.placeKey x.ctx i.i.bs
  let (a, f₀) := s.denseSeq x i.i t.q t.k t.v seed e
  let (dO, f₁) := s.attnRows x p [] t.dO p.os e.qrow e.qlen (p.hq * p.d) (convOf t.doconv) seed 8 none
  let (rows, f₂, g₀) := s.bwdRows x i e dO (s.outRows x i e)
  let b : BwdSeq := { a := a, k0 := e.krow, dO := dO, rows := rows }
  let c : SoftCtl :=
    { pre := p.pre, pfmt := p.pfmt, pscale := 0, env := envOf p.sfu (s.recovering x.ctx), kb := p.wideKb,
      acc := { sr := bitsOf p.acc 0 2 == 2, seed := seed, core := 0, mvp := false, iovf := false } }
  let ks := (upTo p.hkv).map (fun g => keySide p c (fun r => Config.srCore (chunkKey key 1) r (g * p.d)) b i.i.map g)
  let qs := (upTo p.hkv).flatMap (fun g =>
    querySide p c (fun r h => Config.srCore (chunkKey key 2) r (h * p.d)) b i.i.map g)
  let byKey := fun (f : Sums → List Nat) => (upTo e.klen).map (fun j => ks.flatMap (fun l => f (l.getD j (Sums.start p.d))))
  let dk := fun (z : Sums) => scaled (some p.sigma) z.y
  let dq := qs.map (fun z => (z.1, dqRow p.sigma (b.row z.1.1 z.1.2) z.2.x))
  let qrows := (upTo e.qlen).map (fun r => (upTo p.hq).flatMap (fun h =>
    match dq.find? (fun z => z.1 == (r, h)) with
    | some z => z.2.1
    | none => []))
  let m := s.putEntries acc.1 x t.work 4 ((upTo p.hq).flatMap (fun h => (upTo e.qlen).map (fun r =>
    (h * p.lrows + e.qrow + r, natLe 4 (b.row r h).dl))))
  let (m, h₀) := s.putGrad x m p.iovf t.dV p.vs e.krow t.dvconv seed 10 (byKey (fun z => (scaled none z.x).1))
  let (m, h₁) := s.putGrad x m p.iovf t.dK p.ks e.krow t.dkconv seed 11 (byKey (fun z => (dk z).1))
  let (m, h₂) := s.putGrad x m p.iovf t.dQ p.qs e.qrow t.dqconv seed 12 qrows
  let all := ks.flatten ++ qs.map Prod.snd
  (m, acc.2.1 ||| f₀ ||| f₁ ||| f₂ ||| orFlags (all.map Sums.fa),
   acc.2.2 ||| g₀ ||| h₀ ||| h₁ ||| h₂ ||| orFlags (all.map Sums.fs) ||| orFlags (ks.flatten.map (fun z => (dk z).2))
     ||| orFlags (dq.map (fun z => z.2.2)))

/-- ATTN_BWD (R215 to R220). -/
def State.attnBwdWork (s : State) (x : Desc) : Work :=
  match s.attnRead x true (fun _ => []) with
  | .error w => w
  | .ok i =>
    let tr := rdRun (x.field 16 8) 0 128
    s.guarded x [tr] (fun _ =>
      let tb := s.fetchRun s.store x tr
      let b : BwdIn := { i := i, t := tensOf tb, tb := tb }
      if !b.t.ok tb i.p (i.ents.map AttnEnt.qlen).sum (i.ents.map AttnEnt.klen).sum then .bad 0x03 0xFFFF
      else s.guarded x (i.ents.flatMap b.runs) (fun _ =>
        let m := s.clearUnits s.store x b.t.work 4 (i.ents.flatMap i.p.cells)
        let (m, fa, fs) := i.ents.foldl (s.bwdEntry x b) (m, 0, 0)
        .done (recoveryStatus (s.recovering x.ctx) [0x13]) fa fs m))

/-- ATTN_BWD (R215 to R220). -/
def execAttnBwd (c : RunCmd) (s : State) : Host.Outcome State Fault Refusal := .next (s.kernelDo c 0x02 State.attnBwdWork)

end Sys2Proof.Machine
end

