-- ==== Sys2Proof/Machine/BoltStep.lean ====
section
/-!
DEFINITION. Step admission and commit: BOLT_STEP, its atomic phase, BOLT_COMMIT, and the drops of LEAVING
sequences (R242 to R251, R256, R260 to R262).
-/

namespace Sys2Proof.Machine

/-! ### Requests (R243) -/

/-- A request entry. -/
structure Req where
  seq : Nat
  kind : Nat
  spec : Bool
  pin : Bool
  share : Bool
  ndraft : Nat
  nres : Nat
  parent : Nat
  pool : Nat
  nlayerM1 : Nat
  arg : Nat
  deriving DecidableEq, Repr

/-- The entry 16 bytes hold. -/
def reqOf (bs : List Byte) : Req :=
  let k := byteOf bs 2
  { seq := fieldOf bs 0 2, kind := bitsOf k 0 2, spec := bitOf k 2, pin := bitOf k 3, share := bitOf k 4,
    ndraft := byteOf bs 3, nres := fieldOf bs 4 4, parent := fieldOf bs 8 2, pool := bitsOf (byteOf bs 10) 0 4,
    nlayerM1 := byteOf bs 11, arg := fieldOf bs 12 4 }

/-- An entry that keeps R243's table. -/
def reqFormOk (bs : List Byte) : Bool :=
  let r := reqOf bs
  let run := r.kind == 1
  let join := r.kind == 2
  r.kind != 3 && bitsOf (byteOf bs 2) 5 3 == 0 && bitsOf (byteOf bs 10) 4 4 == 0
    && (!join || r.seq == 0) && (run || !r.spec) && (join || (!r.pin && !r.share))
    && (if r.spec then 1 ≤ r.ndraft && r.ndraft ≤ 64 && 1 ≤ r.nres else r.ndraft == 0)
    && r.nres ≤ 65536 && (r.share || r.parent == 0)
    && (if join then r.nlayerM1 ≤ 127 else r.pool == 0 && r.nlayerM1 == 0)
    && (if r.share then 1 ≤ r.arg else r.spec || r.arg == 0)

/-- A tree that keeps R256: PARENT bytes of `n` slots, zero beyond. -/
def treeOk (n : Nat) (t : List Byte) : Bool :=
  (upTo 64).all (fun i =>
    let p := byteOf t i
    if i < n then p == 0xFF || p < i else p == 0)

/-- Dmax. -/
def treeMax (t : List Nat) : Nat := (treeDepths t).foldl max 0

/-! ### Taking pages and blocks (R247 steps 2 and 3, R250, R256) -/

/-- What an admission counts: pages taken, shared references made, index blocks written (R251); and the pages it had to
copy whose headers are not what they must be (R230). -/
structure Tally where
  a : Nat
  shared : Nat
  b : Nat
  bad : List PageRef := []
  deriving DecidableEq, Repr

/-- Tallies added. -/
def Tally.add (x y : Tally) : Tally :=
  { a := x.a + y.a, shared := x.shared + y.shared, b := x.b + y.b, bad := x.bad ++ y.bad }

/-- A reservation of `nres` positions by a sequence, from its LEN (R247, R250, R256): `copies` are the layers
whose last page is copied. -/
structure Need where
  copies : List Nat
  fresh : Nat
  budget : Nat
  blocks : Nat
  reserve : Nat
  written : Nat
  deriving DecidableEq, Repr

/-- What a reservation needs; `tree` holds PARENT of a speculation. -/
def State.needOf (s : State) (q : Seq) (nres : Nat) (tree : Option (List Nat)) : Need :=
  let l := q.layers
  let p0 := pagesOf q.len
  let p1 := pagesOf (q.len + nres)
  let copies := if nres = 0 || q.len % 64 = 0 then [] else
    (upTo l).filter (fun i => match (q.pages.getD i [])[q.len / 64]? with
      | some r => 1 < (s.pool r.pool).refc r.page
      | none => false)
  let budget := match tree with
    | some t => pagesOf (q.len + nres + treeMax t) - p1
    | none => 0
  let grow := l * (boltBlocks p1 - boltBlocks p0)
  let reserve := if tree.isSome then l * (boltBlocks (p1 + budget) - boltBlocks p1) else 0
  let root := p1 != 0 && (p0 == 0 || boltDepth p0 < boltDepth p1)
  { copies := copies, fresh := p1 - p0, budget := budget, blocks := grow + (if tree.isSome then 2 else 0) + reserve,
    reserve := reserve,
    written := ((upTo l).map (fun i => boltWritten p0 p1 (if copies.contains i then [q.len / 64] else []))).sum
      + (if tree.isSome then 2 else 0) + reserve + (if root then 1 else 0) }

/-- Pages a need takes from the pool, for `l` layers. -/
def Need.pages (n : Need) (l : Nat) (spec : Bool) : Nat :=
  n.copies.length + l * n.fresh + (if spec then l * (1 + n.budget) else 0)

/-- A copy of a shared page for one sequence (R250): the positions below its LEN with their WMASK bits. -/
def State.copyPage (s : State) (n : Nat) (q : Seq) (layer : Nat) (old : PageRef) : State × PageRef :=
  let i := q.len / 64
  let keep := s.wmask old % 2 ^ (q.len - 64 * i)
  let rows := (maskOnes keep 64).map (fun k => (k, s.pageRow old k))
  let (s, r) := s.takePage q.pool n layer (64 * i) false
  let s := rows.foldl (fun s p =>
    (((s.pool r.pool).pieces p.1).zip p.2).foldl (fun s c => s.pageWrite r c.1.1 c.2) s) s
  (s.setWmask r keep, r)

/-- WMASK bits at and beyond LEN cleared in a page no longer shared, so that unwritten positions read as zero
(R230, R239; DEDUCED, log 36). -/
def State.clearAbove (s : State) (r : PageRef) (len : Nat) : State :=
  let w := s.wmask r
  let keep := w % 2 ^ (len % 64)
  if w = keep then s else s.setWmask r keep

/-- One layer's pages of a reservation: its last page copied or cleared, then the new pages in order. -/
def State.reserveLayer (s : State) (n : Nat) (q : Seq) (nres : Nat) (need : Need) (self : Option Did)
    (layer : Nat) : State × List PageRef :=
  let old := q.pages.getD layer []
  let i := q.len / 64
  let (s, have_) : State × List PageRef :=
    match old[i]? with
    | some r =>
      if need.copies.contains layer then
        let (s, c) := s.copyPage n q layer r
        (s.dropRef r self, old.set i c)
      else if nres != 0 && q.len % 64 != 0 then (s.clearAbove r q.len, old)
      else (s, old)
    | none => (s, old)
  (upTo need.fresh).foldl (fun acc k =>
    let (s, r) := acc.1.takePage q.pool n layer (64 * (pagesOf q.len + k)) false
    (s, acc.2 ++ [r])) (s, have_)

/-- Provisional pages and commit budget of a speculation, layer by layer (R256). -/
def State.reserveSpec (s : State) (n : Nat) (q : Seq) (need : Need) (len : Nat) : State × List Nat × List (List Nat) :=
  (upTo q.layers).foldl (fun acc layer =>
    let (s, pv) := acc.1.takePage q.pool n layer len true
    let (s, bud) := (upTo need.budget).foldl (fun (b : State × List Nat) k =>
      let (s, r) := b.1.takePage q.pool n layer (64 * (pagesOf len + k)) false
      (s, b.2 ++ [r.page])) (s, [])
    (s, acc.2.1 ++ [pv.page], acc.2.2 ++ [bud])) (s, [], [])

/-- The pages that a reservation copies and whose headers fail their check (R230). -/
def State.badCopies (s : State) (q : Seq) (need : Need) : List PageRef :=
  need.copies.filterMap (fun l => match (q.pages.getD l [])[q.len / 64]? with
    | some r => if s.headerOk r l (64 * (q.len / 64)) false then none else some r
    | none => none)

/-- A reservation taken from the home pool, or none where its stacks do not hold it (R247 step 2). -/
def State.reserve (s : State) (n : Nat) (q : Seq) (nres : Nat) (tree : Option (List Nat))
    (self : Option Did) : Option (State × Seq × Tally) :=
  let need := s.needOf q nres tree
  let p := s.pool q.pool
  let pages := need.pages q.layers tree.isSome
  let bad := s.badCopies q need
  if p.freeCount < pages || p.ifreeCount < need.blocks then none
  else
    let (s, blks) := s.takeBlocks q.pool need.blocks
    let (s, ls) := (upTo q.layers).foldl (fun (acc : State × List (List PageRef)) layer =>
      let (s, l) := acc.1.reserveLayer n q nres need self layer
      (s, acc.2 ++ [l])) (s, [])
    let len := q.len + nres
    let spec := if tree.isSome then 2 + need.reserve else 0
    let q' : Seq := { q with pages := ls, len := len, res := nres, admLen := len,
                             depth := max q.depth (boltDepth (pagesOf len)),
                             iblocks := q.iblocks ++ blks.drop spec,
                             iplaces := q.iplaces ++ growPlaces q.layers (pagesOf q.len) (pagesOf len),
                             bblocks := q.bblocks ++ blks.take spec }
    let t : Tally := { a := pages, shared := 0, b := need.written, bad := bad }
    match tree with
    | none => some (s, q', t)
    | some tr =>
      let (s, pv, bud) := s.reserveSpec n q need len
      some (s, { q' with spec := true, nslot := tr.length, tree := tr, prov := pv, budget := bud }, t)

/-! ### Decisions (R247 to R249) -/

/-- A result entry (R249). -/
def resultBytes (status seq len taken free : Nat) : List Byte :=
  natLe 1 status ++ natLe 1 0 ++ natLe 2 seq ++ natLe 4 len ++ natLe 4 taken ++ natLe 4 free

/-- One decided entry: its status, its result bytes, and the pages that it could not copy (R230). -/
structure Decided where
  status : Nat
  bytes : List Byte
  bad : List PageRef := []
  deriving DecidableEq, Repr

/-- What an entry reports for a sequence. -/
def State.decided (s : State) (status n pool taken : Nat) (assigned : Bool) : Decided :=
  { status := status,
    bytes := resultBytes status (if assigned then n else 0) (if assigned then (s.seqn n).len else 0) taken
      (s.pool pool).freeCount }

/-- LASTST and EPOCH of an admitted entry. -/
def Seq.noted (q : Seq) (status : Nat) : Seq := { q with lastst := status, epoch := q.epoch + 1 }

/-- One LEAVE, within what remains of the 8,192 references (R248). -/
def State.leave (s : State) (n lim : Nat) (self : Option Did) : State × Nat × Decided :=
  let q := s.seqn n
  let pool := q.pool
  if q.quar then
    let ds := (s.descs.filter (fun x => x.dequeued && s.ownsSeq (s.partOf x) n && some x.did != self)).map Desc.did
    let s := s.putSeq n (({ q with st := .leaving, waits := ds } : Seq).noted 0)
    let d := s.decided 0 n pool 0 true
    (s.settleSeqs, lim, d)
  else
    let (s, used) := if q.spec then s.closeSpec n lim self else (s, 0)
    let s := s.putSeq n (({ s.seqn n with st := .leaving } : Seq).noted 0)
    let (s, lim) := s.dropMany n self (lim - used)
    let d := s.decided 0 n pool 0 true
    let s := if (s.seqn n).bare then s else { s with dropping := s.dropping ++ [n] }
    (s.settleSeqs, lim, d)

/-- One RUN (R247 step 2). -/
def State.run (s : State) (r : Req) (tree : List Nat) (self : Option Did) : State × Decided :=
  let q := s.seqn r.seq
  match s.reserve r.seq q r.nres (if r.spec then some tree else none) self with
  | none =>
    let s := s.putSeq r.seq { q with res := 0, admLen := q.len, lastst := 0x51 }
    (s, s.decided 0x51 r.seq q.pool 0 true)
  | some (s, q', t) =>
    let s := s.putIndexed r.seq (q'.noted 0)
    (s, { s.decided 0 r.seq q.pool t.a true with bad := t.bad })

/-- The references a SHARE makes: the parent's pages below P, layer by layer, with whether one saturated. -/
def State.shareRefs (s : State) (parent layers p : Nat) : State × List (List PageRef) × Bool :=
  ((s.seqn parent).pages.take layers).foldl (fun acc l =>
    (l.take (pagesOf p)).foldl (fun (b : State × List (List PageRef) × Bool) r =>
      let (s, pin) := b.1.addRef r
      (s, b.2.1, b.2.2 || pin)) (acc.1, acc.2.1 ++ [l.take (pagesOf p)], acc.2.2)) (s, [], false)

/-- One JOIN into id `n`: the state, its status and tally, or none where it cannot be satisfied (R247 step 3,
R250). -/
def State.joinAs (s : State) (n : Nat) (r : Req) (self : Option Did) : Option (State × Nat × Tally) :=
  let layers := r.nlayerM1 + 1
  let p := if r.share then r.arg else 0
  let (s₁, pages, pin) : State × List (List PageRef) × Bool :=
    if r.share then s.shareRefs r.parent layers p else (s, List.replicate layers [], false)
  let shared := (pages.map List.length).sum
  let old := s.seqn n
  let dirs := 1 + layers * boltBlocks (pagesOf p)
  let (s₂, blks) := s₁.takeBlocks r.pool dirs
  let q : Seq := { Seq.reset with st := .live, pin := r.pin, pool := r.pool, len := p, nlayerM1 := r.nlayerM1,
                                  depth := boltDepth (pagesOf p), epoch := old.epoch,
                                  pages := pages, iblocks := blks, iplaces := growPlaces layers 0 (pagesOf p) }
  if (s.pool r.pool).ifreeCount < dirs then none
  else
    match s₂.reserve n q r.nres none self with
    | none => none
    | some (s₃, q', t) =>
      let st := if pin then 0x52 else 0
      let all := 1 + layers * boltBlocks (pagesOf q'.len)
      some (s₃.putIndexed n (q'.noted st), st, { a := t.a, shared := shared, b := all, bad := t.bad })

/-- The list of decided entries, in request order: entry `i` set. -/
def setDecided (ds : List Decided) (i : Nat) (d : Decided) : List Decided := ds.set i d

/-- The entries of a kind with their places. -/
def reqsOf (kind : Nat) (rs : List (Req × List Nat)) : List (Nat × Req × List Nat) :=
  (rs.zipIdx.filter (fun p => p.1.1.kind == kind)).map (fun p => (p.2, p.1.1, p.1.2))

/-- Joins in request order: `dead` are the pools whose later joins defer, `noId` says that no id is free. -/
def State.joins (s : State) (part : Nat) (self : Option Did) (dead : List Nat) (noId : Bool) :
    List (Nat × Req × List Nat) → List Decided → State × List Decided
  | [], ds => (s, ds)
  | (i, r, _) :: t, ds =>
    let defer := fun (s : State) (noId : Bool) =>
      s.joins part self (r.pool :: dead) noId t (setDecided ds i (s.decided 0x50 0 r.pool 0 false))
    if noId || dead.contains r.pool then defer s noId
    else match s.takeSeqId part ((s.part part).seqCntM1 + 1) with
      | (none, s) => defer s true
      | (some n, s) =>
        match s.joinAs n r self with
        | none => defer s false
        | some (s, st, t') => s.joins part self dead false t (setDecided ds i { s.decided st n r.pool t'.a true with bad := t'.bad })

/-- The atomic phase: leaves, then running sequences, then joins (R247), with each entry's result in request
order. -/
def State.decideReqs (s : State) (part : Nat) (self : Option Did) (rs : List (Req × List Nat)) : State × List Decided :=
  let ds := rs.map (fun _ => ({ status := 0, bytes := [] } : Decided))
  let (s, _, ds) := (reqsOf 0 rs).foldl (fun (acc : State × Nat × List Decided) p =>
    let (s, lim, d) := acc.1.leave p.2.1.seq acc.2.1 self
    (s, lim, setDecided acc.2.2 p.1 d)) (s, 8192, ds)
  let (s, ds) := (reqsOf 1 rs).foldl (fun (acc : State × List Decided) p =>
    let (s, d) := acc.1.run p.2.1 p.2.2 self
    (s, setDecided acc.2 p.1 d)) (s, ds)
  s.joins part self [] false (reqsOf 2 rs) ds

/-- A · S · B as if every RUN and JOIN were admitted, in request order (R245). -/
def State.tallyAll (s : State) (self : Option Did) (rs : List (Req × List Nat)) : Tally :=
  let wide : State := { s with pools := s.pools.map (fun p =>
    (p.1, { p.2 with npages := p.2.npages + 2 ^ 40, nidx := p.2.nidx + 2 ^ 40 })) }
  (rs.zipIdx.foldl (fun (acc : State × Tally) p =>
    let r := p.1.1
    if r.kind = 1 then
      let q := acc.1.seqn r.seq
      match acc.1.reserve r.seq q r.nres (if r.spec then some p.1.2 else none) self with
      | some (s, q', t) => (s.putSeq r.seq q', acc.2.add t)
      | none => acc
    else if r.kind = 2 then
      match acc.1.joinAs (Config.sequences + p.2) r self with
      | some (s, _, t) => (s, acc.2.add t)
      | none => acc
    else acc) (wide, { a := 0, shared := 0, b := 0 })).2

/-! ### BOLT_STEP (R242, R245, R246) -/

/-- Direct checks of a BOLT_STEP, in byte order. -/
def boltStepChecks (bs : List Byte) : List (Nat × Bool) :=
  let n := fieldOf bs 32 4
  [refField bs 8 true, (8, refAligned (fieldOf bs 8 8) 64), refField bs 16 true, refMaybe bs 24,
   (32, 1 ≤ n && n ≤ 4096)] ++ reservedBytes bs 36 28

/-- References of a BOLT_STEP. -/
def boltStepRefs (bs : List Byte) : List RefUse :=
  let n := fieldOf bs 32 4
  [useRd 8 (fieldOf bs 8 8) (16 * n), useWr 16 (fieldOf bs 16 8) (16 * n), useRd 24 (fieldOf bs 24 8) 64]

/-- The trees area run of an entry. -/
def treeRun (trees : Nat) (r : Req) : Run := rdRun trees (64 * r.arg) (if r.spec then 64 else 0)

/-- Sequences a step names: its entries and the parents of its joins. -/
def namedSeqs (rs : List Req) : List Nat :=
  ((rs.filter (fun r => r.kind != 2)).map Req.seq ++ (rs.filter (fun r => r.share)).map Req.parent).dedup

/-- The requests and trees that a prepared BOLT_STEP keeps. -/
def keptReqs (n : Nat) (kept : List Byte) : List (Req × List Nat) :=
  (upTo n).map (fun i =>
    let r := reqOf (blockBytes kept (16 * i) 16)
    (r, ((blockBytes kept (16 * n + 64 * i) 64).take r.ndraft).map BitVec.toNat))

/-- A sequence that a running loop owns (R284). -/
def State.loopOwned (s : State) (n : Nat) : Bool := s.loops.any (fun l => l.2.live && l.2.owned.contains n)

/-- What R245 asks of one entry; `lo` says that a loop issues the step, so its own sequences are allowed. A quarantined sequence
may be left whatever its damaged entry says of it (R241). -/
def State.reqValid (s : State) (part : Nat) (lo : Bool) (leaves : List Nat) (r : Req) : Bool :=
  if r.kind = 2 then
    let p := s.pool r.pool
    let par := s.seqn r.parent
    p.live && p.part == part && r.nres + (if r.share then r.arg else 0) ≤ 2 ^ 24
      && (!r.share || (par.st == .live && s.ownsSeq part r.parent && !leaves.contains r.parent
            && r.arg ≤ par.len && r.nlayerM1 ≤ par.nlayerM1
            && par.pages.all (fun l => l.all (fun g => (s.pool g.pool).sameClass p))
            && (s.pool par.pool).sameClass p))
  else
    let q := s.seqn r.seq
    s.ownsSeq part r.seq && (q.st == .live || (r.kind == 0 && q.quar && q.waits.isEmpty)) && (lo || !s.loopOwned r.seq)
      && (r.kind != 1 || (!q.pin && !q.spec && q.len + r.nres ≤ 2 ^ 24))

/-- Pools that an entry of a step works on: a LEAVE drops every reference of its sequence, a RUN takes from the home pool and
copies or clears the last page, and a SHARE adds references to its parent's prefix (R232). -/
def State.reqPools (s : State) (r : Req) : List Nat :=
  let q := s.seqn r.seq
  match r.kind with
  | 0 => if q.quar then [] else q.pool :: q.pagePools q.layers 0 (pagesOf q.len)
  | 1 => if q.quar then [] else q.pool :: q.pagePools q.layers (q.len / 64) (pagesOf q.len)
  | _ => r.pool :: (if r.share then (s.seqn r.parent).pagePools (r.nlayerM1 + 1) 0 (pagesOf r.arg) else [])

/-- A quarantined pool of a partition (R232). -/
def State.poolQuar (s : State) (part n : Nat) : Bool := (s.pool n).live && (s.pool n).part == part && (s.pool n).quar

/-- Why a step with these entries ends without a change, if it does (R227, R232, R241, R245). -/
def State.stepRefused (s : State) (part : Nat) (lo : Bool) (self : Option Did) (rs : List (Req × List Nat)) :
    Option (Nat × Nat) :=
  let reqs := rs.map Prod.fst
  let named := (reqs.filter (fun r => r.kind != 2)).map Req.seq
  let leaves := (reqs.filter (fun r => r.kind == 0)).map Req.seq
  let all := namedSeqs reqs
  let t := s.tallyAll self rs
  let quar := all.filter (fun n => (s.seqn n).quar && !(leaves.contains n))
  if s.seqTab.isNone then some (0x03, 0xFFFF)
  else if !quar.isEmpty && quar.all (fun n => s.ownsSeq part n) then some (0x30, 0xFFFE)
  else if reqs.any (fun r => (s.reqPools r).any (s.poolQuar part)) then some (0x7F, 0)
  else if !named.Nodup || !(reqs.all (s.reqValid part lo leaves))
      || 4096 < all.length + (reqs.filter (fun r => r.kind == 2)).length
      || 32000 < t.a + t.shared + 4 * t.b then some (0x03, 0xFFFF)
  else none

/-- Another unfinished admission or migration names one of these sequences (R246). -/
def State.stepBusy (s : State) (self : Did) (ns : List Nat) : Bool :=
  s.descs.any (fun x => x.did != self && (x.stepNames.any ns.contains
    || (x.opcode == 0x22 && x.st == .running && x.prog != 0 && ns.contains (x.field 10 2))))

/-- The preparation phase: lists read, entries cached, the whole validated; a step that needs more entries than the cache holds is
refused (R245, R246, R266). -/
def State.stepPrepare (s : State) (x : Desc) : State :=
  let n := x.field 32 4
  let rr := rdRun (x.field 8 8) 0 (16 * n)
  let wr := wrRun (x.field 16 8) 0 (16 * n)
  let trees := x.field 24 8
  match s.firstBad x [rr, wr] with
  | some (r, a) => s.conclude x (workOfAcc r a)
  | none =>
    let bs := s.fetchRun s.store x rr
    let ents := pieces 16 bs
    let reqs := ents.map reqOf
    if !ents.all reqFormOk then s.retire x 0x03 0xFFFF
    else if reqs.any Req.spec != (trees != 0) then s.retire x 0x03 24
    else
      let runs := reqs.map (treeRun trees)
      match s.firstBad x runs with
      | some (r, a) => s.conclude x (workOfAcc r a)
      | none =>
        let tb := (reqs.zip runs).map (fun p => blockBytes (if p.1.spec then s.fetchRun s.store x p.2 else []) 0 64)
        if !((reqs.zip tb).all (fun p => !p.1.spec || treeOk p.1.ndraft p.2)) then s.retire x 0x03 0xFFFF
        else
          let kept := bs ++ tb.flatten
          let rs := keptReqs n kept
          let need := (namedSeqs reqs).length + (reqs.filter (fun r => r.kind == 2)).length
          if Config.seqCacheEntries < need then s.retire x 0x03 0xFFFF
          else if s.stepBusy x.did (namedSeqs reqs)
              || !(s.cacheRoom need) then s
          else
            let s := s.cacheSeqs (namedSeqs reqs)
            match s.stepRefused (s.partOf x) false (some x.did) rs with
              | some (st, det) => s.retire x st det
              | none => ({ s with order := s.order + 1 }).setDesc { x with st := .prepared, kept := kept, prep := s.order }

/-- BOLT_STEP (R242, R245, R246): the preparation phase. -/
def State.boltStepCmd (s : State) (d : Did) : State :=
  (match s.running? d [0x20] with
    | some x => s.stepPrepare x
    | none => s)

/-- The largest status of the results (R249). -/
def worstOf (ds : List Decided) : Nat := (ds.map Decided.status).foldl max 0

/-- A lasting page mismatch logged (R230, R501). -/
def State.pageMismatch (s : State) (x : Desc) (r : PageRef) : State :=
  s.logEvent 0x07 2 6 0 (r.page + r.pool * 2 ^ 26) x.ctx x.tag

/-- The atomic phase of a prepared step and its results (R247, R249). A page that it had to copy and whose header lastingly
fails its check ends the descriptor in ECC_UNCORR, and nothing else changes (R230; DESIGN CHOICE, log 36). -/
def State.stepAtomic (s : State) (x : Desc) : State :=
  let rs := keptReqs (x.field 32 4) x.kept
  let (t, ds) := s.decideReqs (s.partOf x) (some x.did) rs
  match ds.flatMap Decided.bad with
  | r :: _ => (s.pageMismatch x r).descFault { x with kept := [] } 0x30
  | [] =>
    let wr := wrRun (x.field 16 8) 0 (16 * x.field 32 4)
    let t := t.withStore (t.storeRun t.store x wr (ds.flatMap Decided.bytes))
    t.retire { x with kept := [] } (worstOf ds) 0

/-- BOLT_ATOMIC_PHASE (R246, R247): phases run in the order in which preparation ended. -/
def execBoltAtomicPhase (d : Did) (s : State) : Host.Outcome State Fault Refusal :=
  .next (match s.desc? d with
    | some x =>
      if x.st == .prepared && x.opcode == 0x20 && s.serving
          && s.descs.all (fun y => !(y.st == .prepared && y.opcode == 0x20) || x.prep ≤ y.prep) then s.stepAtomic x
      else s
    | none => s)

/-! ### BOLT_COMMIT (R260, R261) -/

/-- Direct checks of a BOLT_COMMIT. -/
def boltCommitChecks (bs : List Byte) : List (Nat × Bool) :=
  let n := fieldOf bs 24 4
  [refField bs 8 true, (8, refAligned (fieldOf bs 8 8) 64), refField bs 16 true, (24, 1 ≤ n && n ≤ 4096)]
    ++ reservedBytes bs 28 36

/-- References of a BOLT_COMMIT. -/
def boltCommitRefs (bs : List Byte) : List RefUse :=
  let n := fieldOf bs 24 4
  [useRd 8 (fieldOf bs 8 8) (4 * n), useWr 16 (fieldOf bs 16 8) (16 * n)]

/-- The path of slots from the root to a leaf (R261). -/
def slotPath (tree : List Nat) : Nat → Nat → List Nat
  | 0, _ => []
  | fuel + 1, i => if i = 0xFF then [] else slotPath tree fuel (tree.getD i 0xFF) ++ [i]

/-- One slot row copied into position LEN + k of a layer, from a budget page where it opens one (R261). -/
def State.commitRow (s : State) (n : Nat) (slots : List Nat) (layer : Nat) (acc : List PageRef × List Nat)
    (k : Nat) : State × List PageRef × List Nat :=
  let q := s.seqn n
  let pos := q.len + k
  let row := s.pageRow { pool := q.pool, page := q.prov.getD layer 0 } (slots.getD k 0)
  let (l, bud) := acc
  match l[pos / 64]? with
  | some r => (s.putRow r (pos % 64) row, l, bud)
  | none => match bud with
    | b :: t =>
      let r : PageRef := { pool := q.pool, page := b }
      (s.putRow r (pos % 64) row, l ++ [r], t)
    | [] => (s, l, bud)

/-- One layer of a commit. -/
def State.commitLayer (s : State) (n : Nat) (slots : List Nat) (layer : Nat) : State × List PageRef × List Nat :=
  let q := s.seqn n
  (upTo slots.length).foldl (fun acc k => acc.1.commitRow n slots layer acc.2 k)
    (s, q.pages.getD layer [], q.budget.getD layer [])

/-- A commit of one sequence at a leaf: the accepted path copied, the rest of the speculation freed; the pages
returned (R261). -/
def State.commitSeq (s : State) (n leaf : Nat) (self : Option Did) : State × Nat :=
  let q := s.seqn n
  let slots := slotPath q.tree 64 leaf
  let (s, ls, bs) := (upTo q.layers).foldl (fun (acc : State × List (List PageRef) × List (List Nat)) layer =>
    let (s, l, b) := acc.1.commitLayer n slots layer
    (s, acc.2.1 ++ [l], acc.2.2 ++ [b])) (s, [], [])
  let len := q.len + slots.length
  let taken := q.layers * (boltBlocks (pagesOf len) - boltBlocks (pagesOf q.len))
  let keep := (q.bblocks.drop 2).take taken
  let s := s.putSeq n { q with pages := ls, budget := bs, len := len,
                               depth := max q.depth (boltDepth (pagesOf len)), iblocks := q.iblocks ++ keep,
                               iplaces := q.iplaces ++ growPlaces q.layers (pagesOf q.len) (pagesOf len),
                               bblocks := q.bblocks.take 2 ++ (q.bblocks.drop 2).drop taken }
  let (s, k) := s.closeSpec n (s.seqn n).specRefs.length self
  (s.putIndexed n (s.seqn n), k)

/-- The first provisional page that a commit reads whose header fails its check (R230, R262). -/
def State.badCommit (s : State) (es : List (Nat × Nat × Nat)) : Option PageRef :=
  es.findSome? (fun e =>
    let q := s.seqn e.1
    if q.spec && e.2.1 != 0xFF then
      ((upTo q.layers).map (fun l => (l, ({ pool := q.pool, page := q.prov.getD l 0 } : PageRef)))).findSome?
        (fun p => if s.headerOk p.2 p.1 q.len true then none else some p.2)
    else none)

/-- Commit entries: sequence, leaf, and the reserved byte. -/
def commitEnts (bs : List Byte) : List (Nat × Nat × Nat) :=
  (pieces 4 bs).map (fun e => (fieldOf e 0 2, byteOf e 2, byteOf e 3))

/-- Why a commit ends without a change, if it does (R227, R232, R241, R260, R284). -/
def State.commitRefused (s : State) (part : Nat) (lo : Bool) (es : List (Nat × Nat × Nat)) : Option (Nat × Nat) :=
  let ns := es.map Prod.fst
  if s.seqTab.isNone then some (0x03, 0xFFFF)
  else if ns.any (fun n => (s.seqn n).quar) && ns.all (fun n => s.ownsSeq part n) then some (0x30, 0xFFFE)
  else if ns.any (fun n =>
      let q := s.seqn n
      q.st == .live && s.ownsSeq part n
        && (q.pool :: (if q.spec then q.pagePools q.layers (q.len / 64) (pagesOf q.len) else [])).any (s.poolQuar part)) then
    some (0x7F, 0)
  else if !ns.Nodup || es.any (fun e => e.2.2 != 0 || !s.ownsSeq part e.1 || (s.seqn e.1).st != .live
      || (!lo && s.loopOwned e.1) || (e.2.1 != 0xFF && (s.seqn e.1).nslot ≤ e.2.1)) then some (0x03, 0xFFFF)
  else none

/-- Every entry of a commit, with its result. -/
def State.commitAll (s : State) (self : Option Did) (es : List (Nat × Nat × Nat)) : State × List Decided :=
  es.foldl (fun (acc : State × List Decided) e =>
    let s := acc.1
    let pool := (s.seqn e.1).pool
    if (s.seqn e.1).spec then
      let (s, k) := s.commitSeq e.1 e.2.1 self
      (s, acc.2 ++ [s.decided 0 e.1 pool k true])
    else (s, acc.2 ++ [s.decided 0x51 e.1 pool 0 true])) (s, [])

/-- A commit (R260, R261). -/
def State.commitWork (s : State) (x : Desc) : State :=
  let n := x.field 24 4
  let rr := rdRun (x.field 8 8) 0 (4 * n)
  let wr := wrRun (x.field 16 8) 0 (16 * n)
  match s.firstBad x [rr, wr] with
  | some (r, a) => s.conclude x (workOfAcc r a)
  | none =>
    let es := commitEnts (s.fetchRun s.store x rr)
    if s.stepBusy x.did (es.map Prod.fst) || !(s.cacheRoom es.length) then s
    else
      let s := s.cacheSeqs (es.map Prod.fst)
      match s.commitRefused (s.partOf x) false es, s.badCommit es with
      | some (st, det), _ => s.retire x st det
      | none, some r => (s.pageMismatch x r).descFault x 0x30
      | none, none =>
        let (s, ds) := s.commitAll (some x.did) es
        let s := s.withStore (s.storeRun s.store x wr (ds.flatMap Decided.bytes))
        s.retire x (worstOf ds) 0

/-- BOLT_COMMIT (R260, R261). -/
def State.boltCommitCmd (s : State) (d : Did) : State :=
  (match s.running? d [0x21] with
    | some x => s.commitWork x
    | none => s)

/-- LEAVE_REFERENCE_DROP (R248): one reference of the LEAVING sequence that is next in order. -/
def execLeaveReferenceDrop (seq : Nat) (s : State) : Host.Outcome State Fault Refusal :=
  .next (
    if s.dropping.head? = some seq && s.serving && s.cacheRoom 1 then
      let s := ((s.cacheSeq seq).dropOne seq none).1
      (if (s.seqn seq).bare then { s with dropping := s.dropping.drop 1 } else s).settleSeqs
    else s)

end Sys2Proof.Machine
end

