-- ==== Sys2Proof/Machine/BoltPool.lean ====
section
/-!
DEFINITION. BOLT_MIGRATE, BOLT_POOL, retired pages and the filling of the sequence-table cache (R221 to R241,
R263 to R265).
-/

namespace Sys2Proof.Machine

/-! ### BOLT_MIGRATE (R264, R265) -/

/-- Direct checks of a BOLT_MIGRATE. -/
def boltMigrateChecks (bs : List Byte) : List (Nat × Bool) :=
  let mode := bitsOf (byteOf bs 8) 0 2
  let io := mode == 1 || mode == 2
  [reservedBits bs 8 2 6, reservedBits bs 9 4 4,
   (16, fieldOf bs 16 4 % 64 == 0), refField bs 24 io, refField bs 32 true] ++ reservedBytes bs 40 24

/-- Layers that a migration covers. -/
def migrateLayers (q : Seq) (layer n : Nat) : List Nat :=
  (upTo (if n = 0 then q.layers - layer else n)).map (layer + ·)

/-- The pages that a migration covers, in order: layer and page index (R265). -/
def migratePages (q : Seq) (layer n pos npos : Nat) : List (Nat × Nat) :=
  (migrateLayers q layer n).flatMap (fun l => (upTo (pagesOf npos)).map (fun i => (l, pos / 64 + i)))

/-- The pages that a migration's descriptor covers, in order. -/
def Desc.migratePages (x : Desc) (q : Seq) : List (Nat × Nat) :=
  Machine.migratePages q (x.field 12 2) (x.field 14 2) (x.field 16 4) (x.field 20 4)

/-- References of a BOLT_MIGRATE. -/
def State.boltMigrateRefs (s : State) (bs : List Byte) : List RefUse :=
  let mode := bitsOf (byteOf bs 8) 0 2
  let q := s.seqn (fieldOf bs 10 2)
  let n := (migratePages q (fieldOf bs 12 2) (fieldOf bs 14 2) (fieldOf bs 16 4) (fieldOf bs 20 4)).length
  let len := n * (s.pool q.pool).psize
  [if mode == 2 then useRd 24 (fieldOf bs 24 8) len else useWr 24 (fieldOf bs 24 8) len,
   useWr 32 (fieldOf bs 32 8) 16]

/-- Why a migration ends without a change, if it does (R221, R227, R232, R241, R264, R284). -/
def State.migrateRefused (s : State) (x : Desc) : Option (Nat × Nat) :=
  let mode := bitsOf (x.field 8 1) 0 2
  let n := x.field 10 2
  let q := s.seqn n
  let part := s.partOf x
  let dp := s.pool (x.field 9 1 % 16)
  let pos := x.field 16 4
  let npos := x.field 20 4
  let layers := migrateLayers q (x.field 12 2) (x.field 14 2)
  if s.seqTab.isNone then some (0x03, 0xFFFF)
  else if !s.ownsSeq part n then some (0x03, 10)
  else if q.quar then some (0x30, 0xFFFE)
  else if q.st != .live then some (0x03, 10)
  else if (s.pool q.pool).quar || (mode == 0 && dp.live && dp.part == part && dp.quar)
      || (x.migratePages q).any (fun l => match (q.pages.getD l.1 [])[l.2]? with
        | some r => s.poolQuar part r.pool
        | none => false) then some (0x7F, 0)
  else if mode == 0 && !(dp.live && dp.part == part && dp.sameClass (s.pool q.pool)) then some (0x03, 9)
  else if (mode == 0 || mode == 2) && s.loopOwned n then some (0x03, 10)
  else if q.layers ≤ x.field 12 2 || layers.any (fun l => q.layers ≤ l) then some (0x03, 12)
  else if q.len < pos + npos || !(npos % 64 == 0 || pos + npos == q.len) then some (0x03, 20)
  else none

/-- A page's image as EXPORT writes it: unwritten positions as zero codes and scales (R265). -/
def State.pageImage (s : State) (r : PageRef) : List Byte :=
  let p := s.pool r.pool
  let raw := s.pageRead r 0 p.psize
  (upTo 64).foldl (fun img k =>
    ((p.pieces k).zip (s.pageRow r k)).foldl (fun img c =>
      img.take c.1.1 ++ c.2 ++ img.drop (c.1.1 + c.1.2)) img) raw

/-- The header of a page moved to another place: the same but for PAGE and POOL. -/
def State.rehome (s : State) (r : PageRef) (h : List Byte) : State :=
  s.pageWrite r ((s.pool r.pool).psize - 64) (h.take 24 ++ natLe 4 (r.page + r.pool * 2 ^ 26) ++ h.drop 28)

/-- How a migration went on one page: done, stopped with a status, or a lasting mismatch. -/
inductive PageStep where
  | ok (s : State)
  | stop (s : State) (status : Nat)
  | mismatch (s : State)
  deriving DecidableEq, Repr

/-- One page moved (R265). -/
def State.movePage (s : State) (x : Desc) (n layer i : Nat) (r : PageRef) : PageStep :=
  let q := s.seqn n
  let dst := x.field 9 1 % 16
  let p := s.pool r.pool
  if (s.pool dst).freeCount = 0 then .stop s 0x51
  else if !s.headerOk r layer (64 * i) false || !s.sealOk r then .mismatch (s.pageMismatch x r)
  else
    let img := s.pageRead r 0 p.psize
    let (s, c) := s.takePage dst n layer (64 * i) false
    let s := (s.pageWrite c 0 (img.take (p.psize - 64))).rehome c (img.drop (p.psize - 64))
    let s := s.dropRef r (some x.did)
    .ok (s.putIndexed n { q with pages := q.pages.modify layer (fun l => l.set i c) })

/-- One page image read into the positions that the latest admission reserved (R265). -/
def State.importPage (s : State) (n i : Nat) (r : PageRef) (img : List Byte) : PageStep :=
  let q := s.seqn n
  let p := s.pool r.pool
  let h := img.drop (p.psize - 64)
  if bitOf (byteOf h 18) 4 && fieldOf h 20 4 != imageCrc p img then .stop s 0x03
  else
    let ks := (maskOnes (fieldOf h 8 8) 64).filter (fun k =>
      q.admLen - q.res ≤ 64 * i + k && 64 * i + k < q.admLen)
    .ok (ks.foldl (fun s k => s.putRow r k ((p.pieces k).map (fun c => blockBytes img c.1 c.2))) s)

/-- One page of a migration; `at_` is its place in the HOST buffer. -/
def State.migratePage (s : State) (x : Desc) (n : Nat) (layer i at_ : Nat) : PageStep :=
  match ((s.seqn n).pages.getD layer [])[i]? with
  | none => .stop s 0x03
  | some r =>
    let p := s.pool r.pool
    match bitsOf (x.field 8 1) 0 2 with
    | 0 => s.movePage x n layer i r
    | 1 =>
      if !s.headerOk r layer (64 * i) false then .mismatch (s.pageMismatch x r)
      else .ok (s.withStore (s.storeRun s.store x (wrRun (x.field 24 8) (at_ * p.psize) p.psize) (s.pageImage r)))
    | 2 => s.importPage n i r (s.fetchRun s.store x (rdRun (x.field 24 8) (at_ * p.psize) p.psize))
    | _ =>
      let s := s.takeCvu
      if s.headerOk r layer (64 * i) false && s.sealOk r then .ok s else .mismatch (s.pageMismatch x r)

/-- The 64-byte units that one page of a migration moves: its image read, and but for CHECK written (R469). -/
def State.pageUnits (s : State) (x : Desc) : Nat :=
  (s.pool (s.seqn (x.field 10 2)).pool).psize / 64 * (if bitsOf (x.field 8 1) 0 2 = 3 then 1 else 2)

/-- The end of a migration that processed `k` pages: its result entry, then its record; a lasting mismatch tears the
context down (R230, R265). -/
def State.migrateEnd (s : State) (x : Desc) (k st : Nat) (bad : Bool) : State :=
  let n := x.field 10 2
  let d := s.decided st n (s.seqn n).pool k true
  let s := s.withStore (s.storeRun s.store x (wrRun (x.field 32 8) 0 16) d.bytes)
  if bad then s.descFault x 0x30 else s.retire x st (if st = 0x03 then 0xFFFF else 0)

/-- The next page of a migration, after which it may be preempted (R265); the last one ends it. -/
def State.migrateNext (s : State) (x : Desc) : State :=
  let n := x.field 10 2
  let ps := x.migratePages (s.seqn n)
  match ps[x.prog]? with
  | none => s.migrateEnd x x.prog 0 false
  | some (l, i) => match s.migratePage x n l i x.prog with
    | .stop s st => s.migrateEnd x x.prog st false
    | .mismatch s => s.migrateEnd x x.prog 0x30 true
    | .ok s =>
      if x.prog + 1 < ps.length then s.setDesc { x with prog := x.prog + 1 } else s.migrateEnd x (x.prog + 1) 0 false

/-- The next page of a migration cannot be reached, nor the one it moves to (R392). -/
def State.nextPageBad (s : State) (x : Desc) : Option (Run × Acc) :=
  let q := s.seqn (x.field 10 2)
  let dst := x.field 9 1 % 16
  let mode := bitsOf (x.field 8 1) 0 2
  match (x.migratePages q)[x.prog]?.bind (fun l => (q.pages.getD l.1 [])[l.2]?) with
  | none => none
  | some r => (s.firstBadPage (mode == 2) [r]).or
      (if mode = 0 then s.firstBadPage true ((s.pool dst).pop.toList.map (fun n => { pool := dst, page := n.1 })) else none)

/-- A migration's command: its checks before the first page, then one page (R264, R265). It waits while an admission or a
commit names the sequence, and while the cache has no room for its entry (R240). -/
def State.migrate (s : State) (x : Desc) : State :=
  let n := x.field 10 2
  if s.stepBusy x.did [n] || (x.prog = 0 && !(s.cacheRoom 1)) then s
  else
    let s := s.cacheSeq n
    let q := s.seqn n
    let mode := bitsOf (x.field 8 1) 0 2
    match (if x.prog = 0 then s.migrateRefused x else none) with
    | some (st, det) => s.retire x st det
    | none =>
      let host := x.field 24 8
      let len := (x.migratePages q).length * (s.pool q.pool).psize
      let io := if mode = 1 then [wrRun host 0 len] else if mode = 2 then [rdRun host 0 len] else []
      let res := wrRun (x.field 32 8) 0 16
      match (s.firstBad x (io ++ [res])).or (s.nextPageBad x) with
      | some (r, a) => s.conclude x (workOfAcc r a)
      | none =>
        if s.regulated (s.partOf x) (s.pageUnits x) then (s.takeUnits (s.partOf x) (s.pageUnits x)).migrateNext x else s

/-- A migration of one mode performed. -/
def State.migrateMode (s : State) (d : Did) (mode : Nat) : State :=
  match s.running? d [0x22] with
  | some x => if bitsOf (x.field 8 1) 0 2 = mode then s.migrate x else s
  | none => s

/-- BOLT_MIGRATE_MOVE (R265). -/
def State.boltMigrateMoveCmd (s : State) (d : Did) : State :=
  (s.migrateMode d 0)

/-- BOLT_MIGRATE_EXPORT (R265). -/
def State.boltMigrateExportCmd (s : State) (d : Did) : State :=
  (s.migrateMode d 1)

/-- BOLT_MIGRATE_IMPORT (R265). -/
def State.boltMigrateImportCmd (s : State) (d : Did) : State :=
  (s.migrateMode d 2)

/-- BOLT_MIGRATE_CHECK (R265). -/
def State.boltMigrateCheckCmd (s : State) (d : Did) : State :=
  (s.migrateMode d 3)

/-! ### BOLT_POOL (R225 to R227, R231, R232) -/

/-- OP of a BOLT_POOL. -/
def poolOp (bs : List Byte) : Nat := bitsOf (byteOf bs 8) 0 3

/-- Direct checks of a BOLT_POOL, in byte order: fields not used by an OP are zero (R225). -/
def boltPoolChecks (bs : List Byte) : List (Nat × Bool) :=
  let op := poolOp bs
  let create := op == 0
  let fmt := bitsOf (byteOf bs 10) 0 4
  let np := fieldOf bs 40 4
  let nx := fieldOf bs 44 4
  let p : Pool := { Pool.reset with fmt := fmt, psz := bitsOf (byteOf bs 10) 4 2, dh := bitsOf (byteOf bs 11) 0 3,
                                    hm1 := bitsOf (byteOf bs 12) 0 6 }
  [(8, decide (op ≤ 5)), reservedBits bs 8 3 5, (9, op ≤ 3 || bitsOf (byteOf bs 9) 0 4 == 0), reservedBits bs 9 4 4,
   (10, if create then fmt == 3 || fmt == 4 || fmt == 6 else fmt == 0),
   (10, create || bitsOf (byteOf bs 10) 4 2 == 0), reservedBits bs 10 6 2,
   (11, create || bitsOf (byteOf bs 11) 0 3 == 0), reservedBits bs 11 3 5,
   (12, create || bitsOf (byteOf bs 12) 0 6 == 0), reservedBits bs 12 6 2]
    ++ reservedBytes bs 13 3
    ++ [refField bs 16 (create || op == 4), refField bs 24 create, refField bs 32 create,
        (40, if create then 1 ≤ np && np ≤ 2 ^ 26 else np == 0), (44, if create then 1 ≤ nx && nx ≤ 2 ^ 26 else nx == 0),
        refField bs 48 (op == 3)]
    ++ reservedBytes bs 56 8 ++ [(0xFFFF, !create || p.classOk)]

/-- Bytes of the META range for NPAGES and NIDX (R226). -/
def metaBytes (np nx : Nat) : Nat := 64 * ceilDiv (4 * np) 64 + 64 * ceilDiv (2 * np) 64 + 4 * nx

/-- References of a BOLT_POOL. -/
def boltPoolRefs (bs : List Byte) : List RefUse :=
  let op := poolOp bs
  let np := fieldOf bs 40 4
  let rw := fun (pos ref len : Nat) => ({ pos := pos, ref := ref, len := len, rd := true, wr := true } : RefUse)
  match op with
  | 0 =>
    [rw 16 (fieldOf bs 16 8) (np * 32768 * 2 ^ bitsOf (byteOf bs 10) 4 2),
     rw 24 (fieldOf bs 24 8) (metaBytes np (fieldOf bs 44 4)), rw 32 (fieldOf bs 32 8) (512 * fieldOf bs 44 4)]
  | 4 => [rw 16 (fieldOf bs 16 8) (2 ^ 22)]
  | 3 => [useWr 48 (fieldOf bs 48 8) 64]
  | _ => []

/-- The resolved tier and address of a reference's first byte. -/
def Desc.resolved (x : Desc) (ref : Nat) : Nat × Nat :=
  match x.transAt (refHandle ref) with
  | some t => (t.tier, t.phys (refOffset ref))
  | none => (0, 0)

/-- CREATE (R225 to R227). -/
def State.poolCreate (s : State) (x : Desc) : State :=
  let n := x.field 9 1 % 16
  let data := x.field 16 8
  let p : Pool := { Pool.reset with
    live := true, part := s.partOf x, fmt := bitsOf (x.field 10 1) 0 4, psz := bitsOf (x.field 10 1) 4 2,
    dh := bitsOf (x.field 11 1) 0 3, hm1 := bitsOf (x.field 12 1) 0 6, npages := x.field 40 4, nidx := x.field 44 4,
    tier := (x.resolved data).1, data := (x.resolved data).2,
    handles := [refHandle data, refHandle (x.field 24 8), refHandle (x.field 32 8)],
    metaTier := (x.resolved (x.field 24 8)).1, metaAt := (x.resolved (x.field 24 8)).2,
    indexTier := (x.resolved (x.field 32 8)).1, indexAt := (x.resolved (x.field 32 8)).2 }
  if (s.pool n).live then (if (s.pool n).quar then s.retire x 0x7F 0 else s.retire x 0x03 9)
  else if (x.resolved data).2 % p.psize != 0 then s.retire x 0x03 16
  else if (x.resolved (x.field 32 8)).2 % 512 != 0 then s.retire x 0x03 32
  else (s.freshPool n p).retire x 0x00 0

/-- A sequence LIVE or LEAVING, not quarantined, with a page or an index block in a pool (R227). Its home pool holds
its directory until the sequence is FREE: a LEAVING one is read to the end of its readers (R235; DEDUCED, log 36). -/
def Seq.inPool (q : Seq) (n : Nat) : Bool :=
  q.st != .free && !q.quar && (q.pool == n || q.pages.any (fun l => l.any (fun r => r.pool == n)))

/-- An existing pool of the descriptor's partition: its number, or the status that ends the descriptor. -/
def State.poolNamed (s : State) (x : Desc) : Except (Nat × Nat) Nat :=
  let n := x.field 9 1 % 16
  let p := s.pool n
  if !p.live || p.part != s.partOf x then .error (0x03, 9)
  else if p.quar then .error (0x7F, 0)
  else .ok n

/-- A page or block of pool `n` waits for a descriptor in flight that may still use it, or the view of one names a page of it
(R235, R254, R267). -/
def State.poolInUse (s : State) (n : Nat) : Bool :=
  let p := s.pool n
  (p.retiring ++ p.iretiring).any (fun r => r.2.any (fun d => s.descs.any (fun y => y.did == d)))
    || s.descs.any (fun y => y.views.any (fun v =>
      v.pages.any (fun l => l.any (fun r => r.pool == n)) || (v.pool == n && !v.prov.isEmpty)))

/-- RESET or DESTROY (R227). It waits while a descriptor in flight may still use a page of the pool (R267; DESIGN CHOICE,
log 36). -/
def State.poolReset (s : State) (x : Desc) (destroy : Bool) : State :=
  match s.poolNamed x with
  | .error e => s.retire x e.1 e.2
  | .ok n =>
    if s.seqs.any (fun q => q.2.inPool n) then s.retire x 0x03 9
    else if s.poolInUse n then s
    else
      let s := s.freshPool n (s.pool n).emptied
      (if destroy then s.setPool n Pool.reset else s).retire x 0x00 0

/-- The balance of a pool (R232): no number twice on a stack, none there with references or RETIRING. -/
def Pool.balanced (p : Pool) : Bool :=
  p.fresh ≤ p.npages && p.ifresh ≤ p.nidx && p.free.all (fun n => n < p.fresh) && p.ifree.all (fun n => n < p.ifresh)
    && p.free.Nodup && p.ifree.Nodup && p.free.all (fun n => p.refc n == 0)
    && p.retiring.all (fun r => !p.free.contains r.1) && p.iretiring.all (fun r => !p.ifree.contains r.1)

/-- The QUERY status record (R231); LIVE counts no sequence that is leaving (DESIGN CHOICE, log 66). -/
def State.queryBytes (s : State) (n : Nat) : List Byte :=
  let p := s.pool n
  let live := (s.seqs.filter (fun q => q.2.st == .live && q.2.pool == n)).length
  natLe 4 p.npages ++ natLe 4 p.freeCount ++ natLe 4 (p.npages - p.freeCount) ++ natLe 4 p.retiring.length
    ++ natLe 4 p.pins.length ++ natLe 4 p.prov.length ++ natLe 4 p.nidx
    ++ natLe 4 p.ifreeCount ++ natLe 4 live ++ natLe 1 p.balanced.toNat ++ List.replicate 27 0

/-- QUERY (R231, R232): a pool found unbalanced is quarantined and logged, and the QUERY completes with
INTERNAL. -/
def State.poolQuery (s : State) (x : Desc) : State :=
  match s.poolNamed x with
  | .error e => s.retire x e.1 e.2
  | .ok n =>
    let r := wrRun (x.field 48 8) 0 64
    match s.firstBad x [r] with
    | some (r, a) => s.conclude x (workOfAcc r a)
    | none =>
      let ok := (s.pool n).balanced
      let s := s.withStore (s.storeRun s.store x r (s.queryBytes n))
      if ok then s.retire x 0x00 0
      else ((s.setPool n { s.pool n with quar := true }).logEvent 0x09 2 6 0 n x.ctx x.tag).retire x 0x7F 0

/-- SEQTAB (R227): once per block reset, from an administrative partition. -/
def State.poolSeqtab (s : State) (x : Desc) : State :=
  if s.seqTabUsed || !(s.part (s.partOf x)).admin then s.retire x 0x03 0xFFFF
  else
    ({ s with seqTab := some (x.resolved (x.field 16 8)), seqTabUsed := true } : State).retire x 0x00 0

/-- SYNC (R227). -/
def State.poolSync (s : State) (x : Desc) : State :=
  if s.seqTab.isNone then s.retire x 0x03 0xFFFF
  else (s.seqDirty.foldl State.writeBack s).retire x 0x00 0

/-- A BOLT_POOL of one OP performed. -/
def State.poolDo (s : State) (d : Did) (op : Nat) (act : State → Desc → State) : State :=
  match s.running? d [0x23] with
  | some x => if poolOp x.bytes = op then act s x else s
  | none => s

/-- BOLT_POOL_CREATE (R226). -/
def State.boltPoolCreateCmd (s : State) (d : Did) : State :=
  (s.poolDo d 0 State.poolCreate)

/-- BOLT_POOL_DESTROY (R227). -/
def State.boltPoolDestroyCmd (s : State) (d : Did) : State :=
  (s.poolDo d 1 (fun s x => s.poolReset x true))

/-- BOLT_POOL_RESET (R227). -/
def State.boltPoolResetCmd (s : State) (d : Did) : State :=
  (s.poolDo d 2 (fun s x => s.poolReset x false))

/-- BOLT_POOL_QUERY (R231, R232). -/
def State.boltPoolQueryCmd (s : State) (d : Did) : State :=
  (s.poolDo d 3 State.poolQuery)

/-- BOLT_POOL_SEQTAB (R227). -/
def State.boltPoolSeqtabCmd (s : State) (d : Did) : State :=
  (s.poolDo d 4 State.poolSeqtab)

/-- BOLT_POOL_SYNC (R227). -/
def State.boltPoolSyncCmd (s : State) (d : Did) : State :=
  (s.poolDo d 5 State.poolSync)

/-! ### Retired pages and cache fills (R235, R240, R241) -/

/-- The first entry of a number in a RETIRING list whose descriptors have all completed. -/
def State.retiredReady (s : State) (l : List (Nat × List Did)) (n : Nat) : Bool :=
  match l.find? (fun r => r.1 == n) with
  | some r => r.2.all (fun d => !(s.descs.any (fun y => y.did == d)))
  | none => false

/-- PAGE_RETIRE_PUSH (R235). -/
def execPageRetirePush (pool : Nat) (isIndex : Bool) (number : Nat) (s : State) :
    Host.Outcome State Fault Refusal :=
  .next (
    let p := s.pool pool
    if isIndex then
      if s.retiredReady p.iretiring number then
        s.putPool pool { p with iretiring := p.iretiring.eraseP (fun r => r.1 == number), ifree := number :: p.ifree }
      else s
    else if s.retiredReady p.retiring number then
      s.putPool pool { p with retiring := p.retiring.eraseP (fun r => r.1 == number), free := number :: p.free }
    else s)

/-- A fill whose repeated read passed: logged, and ECC_RETRIED for the descriptors in flight that name the sequence (R241, R480). -/
def State.fillRetried (s : State) (seq : Nat) : State :=
  let ds := (s.descs.filter (fun x => x.views.any (fun v => v.seq == seq))).map Desc.did
  ds.foldl (fun s d => s.noteStatus d 0x31 0xFFFE) ((s.logEvent 0x01 1 6 0 seq).noteRepeat 0x01 6 0 seq)

/-- SEQ_CACHE_FILL (R240, R241): `firstOk` says that the first read passed its ECRC; where the repeat passes
instead, the fill succeeds and the repeat is logged. -/
def execSeqCacheFill (seq : Nat) (firstOk : Bool) (s : State) : Host.Outcome State Fault Refusal :=
  .next (
    if s.seqTab.isSome && seq < Config.sequences && !(s.seqCache.contains seq) && s.cacheRoom 1 then
      let ok := s.entryIntact seq
      let s := s.cacheSeq seq
      if ok && !firstOk then s.fillRetried seq else s
    else s)

end Sys2Proof.Machine
end

