-- ==== Sys2Proof/Machine/Sem.lean ====
section
/-!
DEFINITION. Semaphore pairs and SEM_OP (R340, R370, R460).
-/

namespace Sys2Proof.Machine

/-- Semaphore pair `n` of a core. -/
def Core.pair (k : Core) (n : Nat) : SemPair := getAt SemPair.reset k.pairs n
/-- That pair made `v`. -/
def Core.setPair (k : Core) (n : Nat) (v : SemPair) : Core := { k with pairs := putAt SemPair.reset k.pairs n v }

/-- A count of a pair: the empty count, or the full count. -/
def SemPair.get (p : SemPair) (isEmpty : Bool) : Nat := if isEmpty then p.empty else p.full
/-- That count made `v`. -/
def SemPair.put (p : SemPair) (isEmpty : Bool) (v : Nat) : SemPair :=
  if isEmpty then { p with empty := v } else { p with full := v }

/-- An amount added to a count of a claimed pair; none where the pair is beyond the plan's claim or the count would
pass 2^32 − 1 (R348). -/
def Core.post (k : Core) (n : Nat) (isEmpty : Bool) (amount : Nat) : Option Core :=
  let p := k.pair n
  let v := p.get isEmpty + amount
  if p.claimed && v < 2 ^ 32 then some (k.setPair n (p.put isEmpty v)) else none

/-- The fields of a SEM_OP: WAIT, the empty count, pair, core, amount. -/
structure SemOp where
  wait : Bool
  isEmpty : Bool
  pair : Nat
  core : Nat
  amount : Nat
  deriving DecidableEq, Repr

/-- The fields (R460). -/
def semOpOf (bs : List Byte) : SemOp :=
  let b := byteOf bs 8
  { wait := bitOf b 0, isEmpty := bitOf b 1, pair := bitsOf (byteOf bs 9) 0 6, core := bitsOf (byteOf bs 10) 0 5,
    amount := fieldOf bs 12 2 }

/-- Direct checks of a SEM_OP, in byte order. -/
def State.semOpChecks (s : State) (ctx : Nat) (bs : List Byte) : List (Nat × Bool) :=
  let o := semOpOf bs
  [reservedBits bs 8 2 6, reservedBits bs 9 6 2, (10, (s.ctxCores ctx).contains o.core), reservedBits bs 10 5 3]
    ++ reservedBytes bs 11 1 ++ [(12, o.amount != 0)] ++ reservedBytes bs 14 50

/-- A dequeued SEM_OP acts on the kernel of its context that runs on CORE then; where none does, on the next (R460). -/
def State.semBound (s : State) (x : Desc) : Option Did :=
  if x.opcode = 0x48 && (s.kernel x.ctx).live && (s.core (semOpOf x.bytes).core).ctx == some x.ctx then some (s.kernel x.ctx).d
  else none

/-- The SEM_OPs of a context that wait for a kernel on one of these cores act on this one (R460). -/
def State.bindSems (s : State) (ctx : Nat) (cs : List Nat) (d : Did) : State :=
  { s with descs := s.descs.map (fun y =>
      if y.ctx == ctx && y.opcode == 0x48 && y.dequeued && y.semKernel.isNone && cs.contains (semOpOf y.bytes).core then
        { y with semKernel := some d }
      else y) }

/-- The kernel that a SEM_OP acts on runs on its core (R460). -/
def State.semTarget (s : State) (x : Desc) (o : SemOp) : Bool :=
  (s.kernel x.ctx).live && (s.core o.core).ctx == some x.ctx && x.semKernel == some (s.kernel x.ctx).d

/-- The kernel that a SEM_OP acts on has ended. -/
def State.semGone (s : State) (x : Desc) : Bool :=
  x.semKernel.isSome && !(((s.kernel x.ctx).live || (s.kernel x.ctx).paused) && x.semKernel == some (s.kernel x.ctx).d)

/-- SEM_OVERFLOW recorded against a SEM_OP (R460). -/
def State.semFault (s : State) (x : Desc) (core : Nat) : State := s.tearDown x.ctx 0x23 core core (some x.did)

/-- A POST performed; where the kernel that it acts on has ended it completes, and changes nothing (DESIGN CHOICE, log 67). -/
def State.semPost (s : State) (x : Desc) : State :=
  let o := semOpOf x.bytes
  if o.wait then s
  else if s.semGone x then s.retire x 0 0
  else if !s.semTarget x o then s
  else match (s.core o.core).post o.pair o.isEmpty o.amount with
    | some k => (s.setCore o.core k).retire x 0 0
    | none => s.semFault x o.core

/-- A WAIT performed: it completes when the count is large enough. -/
def State.semWait (s : State) (x : Desc) : State :=
  let o := semOpOf x.bytes
  let p := (s.core o.core).pair o.pair
  if !o.wait || !s.semTarget x o then s
  else if !p.claimed then s.semFault x o.core
  else if p.get o.isEmpty < o.amount then s
  else (s.setCore o.core ((s.core o.core).setPair o.pair (p.put o.isEmpty (p.get o.isEmpty - o.amount)))).retire x 0 0

/-- The WAITs of a context end with TIMEOUT when the kernel they act on ends (R460). -/
def State.endWaits (s : State) (ctx : Nat) : State :=
  (s.descs.filter (fun x => x.ctx == ctx && x.opcode == 0x48 && x.st == .running && (semOpOf x.bytes).wait
    && x.semKernel == some (s.kernel ctx).d)).foldl (fun s x => s.retire x 0x70 0) s

/-- SEM_OP POST (R460). -/
def execSemOpPost (d : Did) (s : State) : Host.Outcome State Fault Refusal :=
  .next (match s.running? d [0x48] with
    | some x => s.semPost x
    | none => s)

/-- SEM_OP WAIT (R460). -/
def execSemOpWait (d : Did) (s : State) : Host.Outcome State Fault Refusal :=
  .next (match s.running? d [0x48] with
    | some x => s.semWait x
    | none => s)

end Sys2Proof.Machine
end

