-- ==== Sys2Proof/Machine/Coll.lean ====
section
/-!
DEFINITION. The collective engine (R409 to R434).
-/

namespace Sys2Proof.Machine

/-! ### Shapes (R409, R410, R423) -/

/-- Element size of a collective's format. -/
def collSize (fmt : Nat) : Nat := if fmt = 2 then 2 else 4
/-- Fan-out of a stage. -/
def Group.f (g : Group) (s : Nat) : Nat := g.fan.getD s 1
/-- Members below a stage: the weight of its digit. -/
def Group.weight (g : Group) (s : Nat) : Nat := (g.fan.take s).foldl (· * ·) 1
/-- Digit `s` of a member index. -/
def Group.digit (g : Group) (i s : Nat) : Nat := i / g.weight s % g.f s
/-- This member's digit. -/
def Group.my (g : Group) (s : Nat) : Nat := g.digit g.myIdx s
/-- The member whose digits are this member's but for digit `s`, which is `d`. -/
def Group.peer (g : Group) (s d : Nat) : Nat := g.myIdx + g.weight s * d - g.weight s * g.my s
/-- The stages that are not skipped. -/
def Group.stages (g : Group) : List Nat := (upTo 4).filter (fun s => g.f s != 1)
/-- Capacity in elements. -/
def Group.e (g : Group) : Nat := g.cap / collSize g.fmt
/-- Elements E_s of a stage's block. -/
def Group.blk (g : Group) (s : Nat) : Nat := g.e / g.weight s
/-- First element of the block that this member holds before stage `s`. -/
def Group.start (g : Group) : Nat → Nat
  | 0 => 0
  | s + 1 => g.start s + g.my s * g.blk (s + 1)
/-- Chunk length in elements. -/
def Group.chunk (g : Group) : Nat := 2 ^ (g.lchunk - 2)
/-- Chunks per part of a stage. -/
def Group.chunks (g : Group) (s : Nat) : Nat := ceilDiv (g.blk (s + 1) * 4) (2 ^ g.lchunk)
/-- Elements of chunk `q` of a part. -/
def Group.chunkLen (g : Group) (s q : Nat) : Nat := min g.chunk (g.blk (s + 1) - q * g.chunk)
/-- Wire element size. -/
def Group.wire (g : Group) (s : Nat) (gather : Bool) : Nat :=
  if gather then collSize g.ofmt else if s = 0 then collSize g.fmt else 4

/-- `n` rounded up to 4 KiB. -/
def up4k (n : Nat) : Nat := 4096 * ceilDiv n 4096
/-- CTRL line of stage `s`, peer digit `d`, as an offset of a receive area. -/
def Group.ctrlAt (g : Group) (s d : Nat) : Nat := 64 * ((g.fan.take s).sum + d)
/-- Where the regions of a stage begin in a receive area. -/
def Group.recAt (g : Group) (s : Nat) : Nat :=
  up4k (64 * g.fan.sum)
    + ((g.stages.filter (· < s)).map (fun t => up4k (16 * g.f t * g.chunks t) + up4k (4 * g.blk t))).sum
/-- The data region of a stage. -/
def Group.dataAt (g : Group) (s : Nat) : Nat := g.recAt s + up4k (16 * g.f s * g.chunks s)
/-- Bytes of a receive area. -/
def Group.areaBytes (g : Group) : Nat := g.recAt 4
/-- The section of a stage's partial sums in the work area. -/
def Group.workAt (g : Group) (s : Nat) : Nat :=
  ((g.stages.filter (· < s)).map (fun t => up4k (4 * g.blk (t + 1)))).sum
/-- Bytes of a work area. -/
def Group.workBytes (g : Group) : Nat := g.workAt 4

/-- The peers of a stage, in increasing digit. -/
def Group.peers (g : Group) (st : Nat) : List Nat := (upTo (g.f st)).filter (· != g.my st)

/-! ### CTRL lines, records and status records (R419, R424, R425) -/

/-- Where this member's line stands in the area of its peer `i` at stage `st`. -/
def Group.lineAt (g : Group) (st i : Nat) : Nat := g.members.getD i 0 + g.ctrlAt st (g.my st)
/-- This member's line for its peer `i` at stage `st`, as it was last written (R425). -/
def State.ownLine (s : State) (g : Group) (st i : Nat) : List Byte := blockBytes (getAt [] s.collLines (g.lineAt st i)) 0 64
/-- The line that a peer of digit `d` writes in this member's area. -/
def State.peerLine (s : State) (g : Group) (st d : Nat) : List Byte := s.memAt (g.rxarea + g.ctrlAt st d) 64
/-- This member's line at a peer written whole (R425). -/
def State.putLine (s : State) (g : Group) (st i : Nat) (bs : List Byte) : State :=
  let l := blockBytes bs 0 64
  ({ s with collLines := putAt [] s.collLines (g.lineAt st i) l }).memPut (g.lineAt st i) l
/-- The lines of a group that is made: none has been written. -/
def State.clearLines (s : State) (g : Group) : State :=
  let as := g.stages.flatMap (fun st => (upTo g.nmem).map (g.lineAt st))
  { s with collLines := s.collLines.filter (fun l => !(as.contains l.1)) }
/-- A block with the bytes from `off` replaced. -/
def patch (bs : List Byte) (off : Nat) (v : List Byte) : List Byte := bs.take off ++ v ++ bs.drop (off + v.length)

/-- A chunk record (R424). -/
def chunkRecord (seq : Word) (chunk crc : Nat) (gather again : Bool) (st : Nat) : List Byte :=
  natLe 4 seq.toNat ++ natLe 4 chunk ++ natLe 4 crc ++ natLe 1 (gather.toNat + 2 * again.toNat) ++ natLe 1 st ++ natLe 2 0

/-- The check of a chunk (R426). -/
def Group.chunkCrc (g : Group) (seq : Word) (chunk sender st : Nat) (gather : Bool) (data : List Byte) : Nat :=
  crc32c (natLe 4 g.gtag.toNat ++ natLe 4 seq.toNat ++ natLe 4 chunk ++ natLe 2 sender ++ natLe 1 st
    ++ natLe 1 gather.toNat ++ data)

/-- A status record (R419). -/
def Group.statusBytes (g : Group) (n : Nat) (c : Coll) : List Byte :=
  natLe 4 c.seq.toNat ++ natLe 1 c.state ++ natLe 1 c.lflags.toNat ++ natLe 1 c.gflags.toNat ++ natLe 1 n
    ++ natLe 8 c.ldrop ++ natLe 8 c.gdrop ++ natLe 4 c.rcrc ++ natLe 4 g.gtag.toNat ++ List.replicate 32 0

/-- A descriptor's status record written. -/
def State.putStatus (s : State) (n : Nat) (c : Coll) : State :=
  match s.desc? c.d with
  | some x => s.withStore (s.storeRun s.store x (wrRun (x.field 32 8) 0 64) ((s.group n).statusBytes n c))
  | none => s

/-! ### CREATE and DESTROY (R414 to R418) -/

/-- Direct checks of a COLL_ALLREDUCE, in byte order. -/
def State.collChecks (s : State) (ctx : Nat) (bs : List Byte) : List (Nat × Bool) :=
  let op := bitsOf (byteOf bs 8) 0 2
  let post := op == 0 && bitOf (byteOf bs 10) 0
  [(8, op != 3), reservedBits bs 8 2 6, (9, op != 1 || byteOf bs 9 == 0), reservedBits bs 10 1 7]
    ++ reservedBytes bs 11 1
    ++ [if op = 2 then refMaybe bs 16 else refField bs 16 true, (16, op != 1 || refAligned (fieldOf bs 16 8) 64),
        refField bs 24 (op == 0), if op = 2 then refMaybe bs 32 else refField bs 32 true,
        (32, refAligned (fieldOf bs 32 8) 64), reservedBits bs 40 6 2,
        (41, !post || (s.ctxCores ctx).contains (bitsOf (byteOf bs 41) 0 5)), reservedBits bs 41 5 3]
    ++ reservedBytes bs 42 22

/-- The group a block describes, its members and areas not yet resolved. -/
def groupOf (bs : List Byte) : Group :=
  { Group.reset with
    st := .ready, gtag := BitVec.ofNat 32 (fieldOf bs 0 4), nmem := fieldOf bs 4 2, myIdx := fieldOf bs 6 2,
    channel := bitsOf (byteOf bs 8) 0 4, fmt := bitsOf (byteOf bs 9) 0 4, ofmt := bitsOf (byteOf bs 9) 4 4,
    iovf := bitOf (byteOf bs 10) 0, lchunk := bitsOf (byteOf bs 11) 0 5,
    fan := (upTo 4).map (fun i => fieldOf bs (12 + 2 * i) 2), cap := fieldOf bs 20 4, first := true }

/-- What R415 asks of a block. -/
def groupOk (bs : List Byte) : Bool :=
  let g := groupOf bs
  1 ≤ g.nmem && g.nmem ≤ 4096 && g.myIdx < g.nmem && bitsOf (byteOf bs 8) 4 4 == 0
    && [0, 2, 0xB].contains g.fmt && (g.ofmt == g.fmt || (g.fmt == 2 && g.ofmt == 0)) && bitsOf (byteOf bs 10) 1 7 == 0
    && (!g.iovf || g.fmt == 0xB) && 12 ≤ g.lchunk && g.lchunk ≤ 16 && bitsOf (byteOf bs 11) 5 3 == 0
    && g.fan.all (fun f => 1 ≤ f && f ≤ 4096) && g.weight 4 == g.nmem && g.cap % collSize g.fmt == 0
    && g.e % (g.nmem * 128) == 0 && g.e != 0
    && [24, 32, 40].all (fun o => refOk (fieldOf bs o 8) && fieldOf bs o 8 != 0)
    && refAligned (fieldOf bs 32 8) 4096 && refAligned (fieldOf bs 40 8) 4096 && zeroField bs 56 72

/-- References of a COLL_ALLREDUCE. -/
def State.collRefs (s : State) (bs : List Byte) : List RefUse :=
  let op := bitsOf (byteOf bs 8) 0 2
  let g := s.group (byteOf bs 9)
  let sr := fieldOf bs 16 8
  if op = 0 then
    [useRd 16 sr (min (fieldOf bs 12 4) g.cap), useWr 24 (fieldOf bs 24 8) (g.e * collSize g.ofmt),
     useWr 32 (fieldOf bs 32 8) 64]
  else if op = 1 then
    let blk := s.peekRef sr 0 128
    [useRd 16 sr 128, useWr 32 (fieldOf bs 32 8) 64, useRd 0xFFFF (fieldOf blk 24 8) (8 * fieldOf blk 4 2),
     { pos := 0xFFFF, ref := fieldOf blk 32 8, len := 0, rd := true, wr := true },
     { pos := 0xFFFF, ref := fieldOf blk 40 8, len := 0, rd := true, wr := true }]
  else []

/-- A range reference lies on this chip, in memory or the SS, with room and both permissions. -/
def State.areaOk (s : State) (x : Desc) (ref n : Nat) : Bool :=
  match x.transAt (refHandle ref) with
  | some t => t.covers (refOffset ref) n && t.rd && t.wr && (t.tier == 2 || s.localAddr (t.phys (refOffset ref)))
  | none => false

/-- A member-list entry that R416 allows; `me` says that it stands at MYIDX. -/
def State.memberOk (s : State) (part rx : Nat) (e : Nat) (me : Bool) : Bool :=
  let h := bitsOf e 16 14
  let r := s.range h
  bitsOf e 12 4 == 0 && bitsOf e 30 34 == 0 && r.st == .valid && r.part == part && r.rd && r.wr && r.tier != 2
    && bitsOf r.base 45 12 == bitsOf e 0 12
    && (!me || (bitsOf e 0 12 == s.mgmt.part.chip.toNat && h == refHandle rx && refOffset rx == 4096 * r.start))

/-- COLL_ALLREDUCE CREATE (R414). -/
def State.collCreate (s : State) (x : Desc) : State :=
  let br := rdRun (x.field 16 8) 0 128
  let sr := wrRun (x.field 32 8) 0 64
  match s.firstBad x [br, sr] with
  | some (r, a) => s.conclude x (workOfAcc r a)
  | none =>
    let bs := s.fetchRun s.store x br
    let g := groupOf bs
    let lr := rdRun (fieldOf bs 24 8) 0 (8 * g.nmem)
    if !groupOk bs then s.retire x 0x03 0xFFFF
    else match s.firstBad x [lr] with
      | some (r, a) => s.conclude x (workOfAcc r a)
      | none =>
        let es := (pieces 8 (s.fetchRun s.store x lr)).map leNat
        let rx := fieldOf bs 32 8
        let wk := fieldOf bs 40 8
        let part := s.partOf x
        if !(es.zipIdx.all (fun e => s.memberOk part rx e.1 (e.2 == g.myIdx)))
            || !s.areaOk x rx g.areaBytes || !s.areaOk x wk g.workBytes then s.retire x 0x03 0xFFFF
        else match (upTo 256).find? (fun n => (s.group n).st == .free) with
          | none => s.retire x 0x04 0
          | some n =>
            let base := fun (h : Nat) => (s.range h).base
            let wt := (x.transAt (refHandle wk)).getD (transOf 0 RangeEnt.reset)
            let g : Group := { g with
              part := part, members := es.map (fun e => base (bitsOf e 16 14)), rxarea := base (refHandle rx),
              work := wt.phys (refOffset wk), workTier := wt.tier }
            let s := (s.setGroup n g).clearLines g
            let blank : List Byte := List.replicate 7 0 ++ natLe 1 n ++ List.replicate 20 0 ++ natLe 4 g.gtag.toNat
              ++ List.replicate 32 0
            (s.withStore (s.storeRun s.store x sr blank)).retire x 0 0

/-- OP of a COLL_ALLREDUCE. -/
def collOp (x : Desc) : Nat := bitsOf (x.field 8 1) 0 2

/-- The group a descriptor names, where it is the partition's own. -/
def State.namedGroup (s : State) (x : Desc) : Option Group :=
  let g := s.group (x.field 9 1)
  if g.st == .free || g.part != s.partOf x then none else some g

/-- COLL_ALLREDUCE DESTROY (R417): it waits until no collective awaits its verdict, started or only dequeued. -/
def State.collDestroy (s : State) (x : Desc) : State :=
  match s.namedGroup x with
  | none => s.retire x 0x03 9
  | some g => if g.live.isEmpty && g.taken.all (fun t => (s.desc? t.1).isNone) then (s.setGroup (x.field 9 1) Group.reset).retire x 0 0 else s

/-! ### REDUCE (R410, R413, R418 to R421) -/

/-- A collective that has not reached local completion. -/
def Coll.exchanging (c : Coll) : Bool := c.state == 0

/-- The channel of a group is free for a descriptor: no other collective exchanges on it, and none dequeued
earlier, halted or not, waits for it (R421). -/
def State.channelFree (s : State) (x : Desc) (ch : Nat) : Bool :=
  s.groups.all (fun g => g.2.channel != ch || !g.2.live.any Coll.exchanging)
    && s.descs.all (fun y => !(y.opcode == 0x30 && collOp y == 0 && y.dequeued && y.order < x.order
      && (s.group (y.field 9 1)).channel == ch && !((s.group (y.field 9 1)).live.any (fun c => c.d == y.did))))

/-- A REDUCE may start: at most one earlier collective of the group still awaits its verdict, and none exchanges
(R420). -/
def Group.ready (g : Group) (d : Did) : Bool :=
  g.live.length ≤ 1 && !g.live.any Coll.exchanging && !g.live.any (fun c => c.d == d)

/-- Bytes of SRC that a REDUCE reads. -/
def Group.srcBytes (g : Group) (x : Desc) : Nat := min (x.field 12 4) g.cap

/-- A collective as it begins, under its sequence number. -/
def State.newColl (s : State) (g : Group) (x : Desc) (seq : Word) : Coll :=
  { seq := seq, d := x.did, stage := g.stages.headD 4, gather := false, round := 0, sent := false, got := [],
    asked := [], lflags := 0, ldrop := x.field 12 4 - g.cap, failed := false, retried := false, state := 0,
    voted := false, rcrc := 0, gflags := 0, gdrop := 0, noRecord := (s.ctx x.ctx).stopped }

/-- A dequeued REDUCE takes its group's number, and its status record says PENDING (R419, R420). -/
def State.collTake (s : State) (x : Desc) : State :=
  let n := x.field 9 1
  match s.namedGroup x with
  | none => s
  | some g =>
    if x.opcode != 0x30 || collOp x != 0 || g.st == .broken || x.field 12 4 % collSize g.fmt != 0
        || g.taken.any (fun t => t.1 == x.did) || g.live.any (fun c => c.d == x.did) then s
    else (s.setGroup n { g with seqNo := g.seqNo + 1, taken := g.taken ++ [(x.did, g.seqNo)] }).putStatus n (s.newColl g x g.seqNo)

/-- A REDUCE that does not start: in a context that was torn down it leaves no record (R433). -/
def State.collRetire (s : State) (x : Desc) (status detail : Nat) : State :=
  if (s.ctx x.ctx).stopped then s.removeDesc x.did else s.retire x status detail

/-- A COLL_ALLREDUCE REDUCE started (R410, R418 to R421). -/
def State.collStart (s : State) (x : Desc) : State :=
  let n := x.field 9 1
  let s := s.collTake x
  match s.namedGroup x with
  | none => s.collRetire x 0x03 9
  | some g =>
    if g.st == .broken then s.collRetire x 0x70 0
    else match g.taken.find? (fun t => t.1 == x.did) with
      | none => if g.live.any (fun c => c.d == x.did) then s else s.collRetire x 0x03 12
      | some t =>
        if !g.ready x.did || !s.channelFree x g.channel then s
        else match s.firstBad x [rdRun (x.field 16 8) 0 (g.srcBytes x), wrRun (x.field 24 8) 0 (g.e * collSize g.ofmt),
            wrRun (x.field 32 8) 0 64] with
          | some (r, .halt) => s.haltOn x r
          | some (r, a) => if (s.ctx x.ctx).stopped then s.removeDesc x.did else s.conclude x (workOfAcc r a)
          | none =>
            let c := s.newColl g x t.2
            (s.setGroup n { g with taken := g.taken.filter (fun t => t.1 != x.did), live := g.live ++ [c] }).putStatus n c

/-- Elements `a` to `a + n` of the contribution as codes of the group format; +0 past LEN (R413). -/
def State.contribution (s : State) (g : Group) (x : Desc) (a n : Nat) : List Nat :=
  let sz := collSize g.fmt
  let have_ := g.srcBytes x / sz
  let k := min n (have_ - a)
  (pieces sz (s.fetchRun s.store x (rdRun (x.field 16 8) (sz * a) (sz * k)))).map leNat ++ List.replicate (n - k) 0

/-- A wire code as a term of the sum. -/
def Group.term (g : Group) (w code : Nat) : Nat :=
  if g.fmt = 0xB || w = 4 then code else (valueToF32 .rne (decodeCode 2 code)).1

/-- The flags of decoding wire codes: INV for a signalling BF16 NaN (R53). -/
def Group.decodeFlags (g : Group) (codes : List Nat) : FlagSet :=
  if g.fmt = 2 then orFlags (codes.map (fun c => snanFlag (decodeCode 2 c))) else 0

/-- The stage below, where there is one. -/
def Group.below (g : Group) (st : Nat) : Option Nat := (g.stages.filter (· < st)).getLast?

/-- Codes of the member's block before stage `st`: elements `a` to `a + n` of it, from SRC or WORK; BF16 is
decoded past stage 0 (R412, R423). -/
def State.blockCodes (s : State) (g : Group) (x : Desc) (st a n : Nat) : List Nat :=
  match g.below st with
  | none => if st = 0 then s.contribution g x a n else (s.contribution g x a n).map (g.term (collSize g.fmt))
  | some t => (pieces 4 (s.store.read g.workTier (g.work + g.workAt t + 4 * a) (4 * n))).map leNat

/-- Codes of the result in DST, which the collective has written. -/
def State.resultBytes (s : State) (g : Group) (x : Desc) (a n : Nat) : List Byte :=
  let sz := collSize g.ofmt
  s.fetchRun s.store x (wrRun (x.field 24 8) (sz * a) (sz * n))

/-- Result bytes stored in DST. -/
def State.putResult (s : State) (g : Group) (x : Desc) (a : Nat) (bs : List Byte) : State :=
  s.withStore (s.storeRun s.store x (wrRun (x.field 24 8) (collSize g.ofmt * a) bs.length) bs)

/-- The bytes that chunk `q` holds for the peer of digit `d` (R427). -/
def State.chunkData (s : State) (g : Group) (x : Desc) (c : Coll) (d : Nat) : List Byte :=
  let n := g.chunkLen c.stage c.round
  if c.gather then s.resultBytes g x (g.start (c.stage + 1) + c.round * g.chunk) n
  else
    (s.blockCodes g x c.stage (d * g.blk (c.stage + 1) + c.round * g.chunk) n).flatMap (natLe (g.wire c.stage false))

/-! ### What its own accesses meet (R322, R392, R429, R485) -/

/-- Accesses of a collective: runs of its ranges, and places that it reads, by tier, address and length. -/
structure CollNeeds where
  runs : List Run
  places : List (Nat × Nat × Nat)
  deriving DecidableEq, Repr

/-- The accesses of two lists. -/
def CollNeeds.and (a b : CollNeeds) : CollNeeds := { runs := a.runs ++ b.runs, places := a.places ++ b.places }

/-- Elements of the block before stage `st` read. -/
def blockNeeds (g : Group) (x : Desc) (st a n : Nat) : CollNeeds :=
  let sz := collSize g.fmt
  match g.below st with
  | none => { runs := [rdRun (x.field 16 8) (sz * a) (sz * min n (g.srcBytes x / sz - a))], places := [] }
  | some t => { runs := [], places := [(g.workTier, g.work + g.workAt t + 4 * a, 4 * n)] }

/-- Elements of the result read or written. -/
def resultNeeds (s : State) (g : Group) (x : Desc) (a n : Nat) : CollNeeds :=
  let sz := collSize g.ofmt
  let r := wrRun (x.field 24 8) (sz * a) (sz * n)
  { runs := [r], places := match s.reach x r with
    | .ok tier p => [(tier, p, sz * n)]
    | _ => [] }

/-- What chunk `c.round` for the peer of digit `d` takes. -/
def chunkNeeds (s : State) (g : Group) (x : Desc) (c : Coll) (d : Nat) : CollNeeds :=
  let n := g.chunkLen c.stage c.round
  if c.gather then resultNeeds s g x (g.start (c.stage + 1) + c.round * g.chunk) n
  else blockNeeds g x c.stage (d * g.blk (c.stage + 1) + c.round * g.chunk) n

/-- What the use of a round takes: the digit's own part, or the parts of DST; and after the last chunk of the last stage its own
result. -/
def roundNeeds (g : Group) (x : Desc) (c : Coll) : CollNeeds :=
  let n := g.chunkLen c.stage c.round
  let part := g.blk (c.stage + 1)
  if c.gather then
    { runs := (g.peers c.stage).map (fun d =>
        wrRun (x.field 24 8) (collSize g.ofmt * (g.start c.stage + d * part + c.round * g.chunk)) (collSize g.ofmt * n)), places := [] }
  else
    let own := blockNeeds g x c.stage (g.my c.stage * part + c.round * g.chunk) n
    if c.round + 1 < g.chunks c.stage || (g.stages.getLast? != some c.stage) then own
    else own.and { runs := [wrRun (x.field 24 8) (collSize g.ofmt * g.start 4) (collSize g.ofmt * g.blk 4)],
                   places := [(g.workTier, g.work + g.workAt c.stage, 4 * (c.round * g.chunk))] }

/-- A collective ended without a verdict: its group is BROKEN. -/
def State.collBreak (s : State) (n : Nat) (d : Did) : State :=
  let g := s.group n
  s.setGroup n { g with live := g.live.filter (fun e => e.d != d), st := .broken }

/-- A collective's damaged row (R322, R485): its group breaks, and its context is torn down. -/
def State.collRowLost (s : State) (n : Nat) (x : Desc) (row : Nat) : State :=
  let s := s.collBreak n x.did
  if (s.ctx x.ctx).stopped then (s.logEvent 0x02 2 1 (row % 64) row x.ctx x.tag).removeDesc x.did else s.rowLost x row

/-- The work of a collective where its accesses are met; it halts on a range fault (R392), and ends where a range or a row is
gone (DESIGN CHOICE, log 44: its group is then BROKEN, as its peers find). -/
def State.collGuard (s : State) (n : Nat) (x : Desc) (w : CollNeeds) (work : Unit → State) : State :=
  if x.st != .running then s
  else match s.firstBad x w.runs with
    | some (r, .halt) => s.haltOn x r
    | some (_, .lost row) => s.collRowLost n x row
    | some (_, a) => (s.collBreak n x.did).collRetire x (if a == .stale then 0x11 else 0x03) (if a == .stale then 0 else 0xFFFF)
    | none => match w.places.findSome? (fun p => s.poisonedAt p.1 p.2.1 p.2.2) with
      | some row => s.collRowLost n x row
      | none => work ()

/-- The units of fabric traffic of `n` bytes in each of `k` chunks. -/
def chunkUnits (k n : Nat) : Nat := k * ceilDiv n 64

/-- A chunk and then its record sent to a peer (R424, R427). -/
def State.sendChunk (s : State) (g : Group) (x : Desc) (c : Coll) (again : Bool) (d : Nat) : State :=
  let st := c.stage
  let at_ := g.members.getD (g.peer st d) 0
  let data := s.chunkData g x c d
  let s := s.memPut (at_ + g.dataAt st + g.wire st c.gather * (g.my st * g.blk (st + 1) + c.round * g.chunk)) data
  s.memPut (at_ + g.recAt st + 16 * (c.round * g.f st + g.my st))
    (chunkRecord c.seq c.round (g.chunkCrc c.seq c.round g.myIdx st c.gather data) c.gather again st)

/-- A peer's line shows the previous use of its regions released (R427). -/
def State.released (s : State) (g : Group) (c : Coll) (d : Nat) : Bool :=
  let l := s.peerLine g c.stage d
  if c.gather then fieldOf l 0 4 == c.seq.toNat && byteOf l 4 == 1
  else g.first || (fieldOf l 0 4 == (c.seq - 1).toNat && byteOf l 4 == 2)

/-- A collective of a group replaced by a new value. -/
def Group.setColl (g : Group) (c : Coll) : Group :=
  { g with live := g.live.map (fun e => if e.d = c.d then c else e) }

/-- The exchanging collective of a group with its descriptor. -/
def State.exchange (s : State) (n : Nat) : Option (Coll × Desc) :=
  match (s.group n).live.find? Coll.exchanging with
  | some c => match s.desc? c.d with
    | some x => some (c, x)
    | none => none
  | none => none

/-! ### Sums and stage ends (R411, R412) -/

/-- One addition (R412). -/
def Group.add (g : Group) (a b : Nat) : Flagged :=
  if g.fmt = 0xB then fitInt 32 g.iovf (signedOf a 32 + signedOf b 32) else addF .rne a b

/-- The sum of an element over the digits in order (R411). -/
def Group.sum (g : Group) : List Nat → Flagged
  | [] => (0, 0)
  | v :: vs => vs.foldl (fun acc b =>
      let r := g.add acc.1 b
      (r.1, acc.2 ||| r.2)) (v, 0)

/-- Result codes from sums (R412). -/
def Group.results (g : Group) (vs : List Nat) : List Byte × FlagSet :=
  if g.fmt = 2 && g.ofmt = 2 then
    let (c, f) := mapFlags (fun v => convElem { convOf 0 with dst := 2 } true .rne 0 (f32Value v)) vs
    (c.flatMap (natLe 2), f)
  else (vs.flatMap (natLe 4), 0)

/-- Flags of the collective engine's arithmetic raised in its set and noted in the collective (R68, R412). -/
def State.collRaise (s : State) (c : Coll) (f : FlagSet) : State × Coll :=
  ({ s with collFlags := s.collFlags ||| f }, { c with lflags := c.lflags ||| f })

/-- This member's fully reduced elements written to DST, after the last stage (R410, R412). -/
def State.ownResult (s : State) (g : Group) (x : Desc) (c : Coll) : State × Coll :=
  let n := g.blk 4
  let (bs, f) := g.results (s.blockCodes g x 4 0 n)
  let f := if (g.below 4).isNone then f ||| g.decodeFlags (s.contribution g x 0 n) else f
  let (s, c) := s.collRaise c f
  (s.putResult g x (g.start 4) bs, c)

/-- The release of a stage's regions shown to its peers (R425, R427). -/
def State.releaseStage (s : State) (g : Group) (c : Coll) : State :=
  (g.peers c.stage).foldl (fun s d =>
    let i := g.peer c.stage d
    s.putLine g c.stage i (patch (s.ownLine g c.stage i) 0 (natLe 4 c.seq.toNat ++ natLe 1 (if c.gather then 2 else 1)))) s

/-- The exchange moves past a stage: to the next, to the gather, or to its end, stage 5 (R410). -/
def State.nextStage (s : State) (g : Group) (x : Desc) (c : Coll) : State × Coll :=
  let c := { c with round := 0, sent := false, got := [], asked := [] }
  if c.gather then (s, { c with stage := (g.below c.stage).getD 5 })
  else match (g.stages.filter (c.stage < ·)).head? with
    | some t => (s, { c with stage := t })
    | none =>
      let (s, c) := s.ownResult g x c
      (s, { c with gather := true, stage := g.stages.getLastD 5 })

/-- A round whose chunks are all sent and used: summed, or copied into DST (R411, R427). -/
def State.useRound (s : State) (g : Group) (x : Desc) (c : Coll) : State × Coll :=
  let st := c.stage
  let n := g.chunkLen st c.round
  let part := g.blk (st + 1)
  let w := g.wire st c.gather
  let got := fun d => s.memAt (g.rxarea + g.dataAt st + w * (d * part + c.round * g.chunk)) (w * n)
  if c.gather then
    ((g.peers st).foldl (fun s d => s.putResult g x (g.start st + d * part + c.round * g.chunk) (got d)) s, c)
  else
    let raw := (upTo (g.f st)).map (fun d =>
      if d = g.my st then s.blockCodes g x st (d * part + c.round * g.chunk) n else (pieces w (got d)).map leNat)
    let decoded :=
      if st = 0 then raw.flatten
      else if (g.below st).isSome then []
      else (upTo (g.f st)).flatMap (fun d => s.contribution g x (d * part + c.round * g.chunk) n)
    let (vs, f) := mapFlags g.sum (turned n (raw.map (·.map (g.term w))))
    let (s, c) := s.collRaise c (f ||| g.decodeFlags decoded)
    (s.withStore (s.store.write g.workTier (g.work + g.workAt st + 4 * (c.round * g.chunk)) (vs.flatMap (natLe 4))), c)

/-- The exchange moves on when its round is sent and every peer's chunk is used. -/
def State.advance (s : State) (n : Nat) (x : Desc) (c : Coll) : State :=
  let g := s.group n
  if !(c.sent && (g.peers c.stage).all c.got.contains) then s.setGroup n (g.setColl c)
  else
    let (s, c) := s.useRound g x c
    let (s, c) :=
      if c.round + 1 < g.chunks c.stage then (s, { c with round := c.round + 1, sent := false, got := [], asked := [] })
      else (s.releaseStage g c).nextStage g x c
    (s.setGroup n (g.setColl c)).raiseDesc c.d c.lflags

/-! ### The commands of the exchange (R427, R428, R430) -/

/-- A group of one member has no stage: its result is its own contribution. -/
def State.startAlone (s : State) (n : Nat) (d : Did) : State :=
  let g := s.group n
  match g.live.find? (fun c => c.d == d && c.stage == 4), s.desc? d with
  | some c, some x =>
    let (s, c) := s.ownResult g x c
    (s.setGroup n (g.setColl { c with gather := true, stage := 5 })).raiseDesc d c.lflags
  | _, _ => s

/-- COLL_ALLREDUCE REDUCE (R410). -/
def State.collReduceCmd (s : State) (d : Did) : State :=
  (match s.running? d [0x30] with
    | some x => if collOp x = 0 then (s.collStart x).startAlone (x.field 9 1) d else s
    | none => s)

/-- COLL_ALLREDUCE CREATE (R414). -/
def State.collCreateCmd (s : State) (d : Did) : State :=
  (match s.running? d [0x30] with
    | some x => if collOp x = 1 then s.collCreate x else s
    | none => s)

/-- COLL_ALLREDUCE DESTROY (R417). -/
def State.collDestroyCmd (s : State) (d : Did) : State :=
  (match s.running? d [0x30] with
    | some x => if collOp x = 2 then s.collDestroy x else s
    | none => s)

/-- A round sent to every peer once each shows its regions released (R427). -/
def State.collSend (s : State) (n : Nat) : State :=
  let g := s.group n
  match s.exchange n with
  | some (c, x) =>
    let units := chunkUnits (g.peers c.stage).length (g.wire c.stage c.gather * g.chunkLen c.stage c.round)
    if c.stage < 4 && !c.sent && (g.peers c.stage).all (s.released g c) && s.regulated g.part units then
      s.collGuard n x ((g.peers c.stage).foldl (fun w d => w.and (chunkNeeds s g x c d)) (roundNeeds g x c)) (fun _ =>
        ((g.peers c.stage).foldl (fun s d => s.sendChunk g x c false d) (s.takeUnits g.part units)).advance n x { c with sent := true })
    else s
  | none => s

/-- COLL_ROUND (R427). -/
def execCollRound (group : Nat) (s : State) : Host.Outcome State Fault Refusal :=
  .next (if s.serving then s.collSend group else s)

/-- The stage and digit at which a member is a peer of this one. -/
def Group.peerAt (g : Group) (i : Nat) : Option (Nat × Nat) :=
  match g.stages.filter (fun s => g.digit i s != g.my s) with
  | [s] => some (s, g.digit i s)
  | _ => none

/-- A record that the exchange expects: a first attempt, or a retransmission of a chunk that was asked for (R428). -/
def Coll.current (c : Coll) (r : List Byte) (again : Bool) : Bool :=
  fieldOf r 0 4 == c.seq.toNat && fieldOf r 4 4 == c.round && bitOf (byteOf r 12) 0 == c.gather
    && byteOf r 13 == c.stage && (!again || bitOf (byteOf r 12) 1)

/-- The request for a retransmission written into the sender's CTRL line (R428). -/
def State.askAgain (s : State) (g : Group) (c : Coll) (i : Nat) : State :=
  let l := s.ownLine g c.stage i
  s.putLine g c.stage i (patch l 8 (natLe 4 c.seq.toNat ++ natLe 4 c.round ++ natLe 1 c.gather.toNat
    ++ natLe 1 (byteOf l 17 + 1)))

/-- The poll of one peer's record returns (R428). -/
def State.collPoll (s : State) (n i : Nat) : State :=
  let g := s.group n
  match s.exchange n, g.peerAt i with
  | some (c, x), some (st, d) =>
    let r := s.memAt (g.rxarea + g.recAt st + 16 * (c.round * g.f st + d)) 16
    let again := c.asked.contains d
    let units := chunkUnits 1 (g.wire st c.gather * g.chunkLen st c.round)
    if st != c.stage || c.got.contains d || !c.current r again || !s.regulated g.part units then s
    else s.collGuard n x (roundNeeds g x c) (fun _ =>
      let s := s.takeUnits g.part units
      let w := g.wire st c.gather
      let data := s.memAt (g.rxarea + g.dataAt st + w * (d * g.blk (st + 1) + c.round * g.chunk)) (w * g.chunkLen st c.round)
      let place := g.gtag.toNat + i * 2 ^ 32 + c.round * 2 ^ 44
      if fieldOf r 8 4 == g.chunkCrc c.seq c.round i st c.gather data then
        let s := if again then (s.logEvent 0x0B 1 5 0 place x.ctx x.tag).noteRepeat 0x0B 5 0 place else s
        s.advance n x { c with got := c.got ++ [d], retried := c.retried || again }
      else if again then
        (s.logEvent 0x0B 2 5 0 place x.ctx x.tag).advance n x { c with got := c.got ++ [d], failed := true }
      else (s.askAgain g c i).setGroup n (g.setColl { c with asked := c.asked ++ [d] }))
  | _, _ => s

/-- COLL_POLL_RETURN (R428): `peer` is the sender's member index. -/
def execCollPollReturn (group peer : Nat) (s : State) : Host.Outcome State Fault Refusal :=
  .next (if s.serving then s.collPoll group peer else s)

/-- A chunk sent once more to a peer whose request has the sequence number `seen`, for the units it moves (R425, R428). -/
def State.resendChunk (s : State) (n i : Nat) (x : Desc) (c : Coll) (d seen : Nat) : State :=
  let g := s.group n
  let units := chunkUnits 1 (g.wire c.stage c.gather * g.chunkLen c.stage c.round)
  if !s.regulated g.part units then s
  else s.collGuard n x (chunkNeeds s g x c d) (fun _ =>
    ((s.takeUnits g.part units).sendChunk g x c true d).setGroup n { g with xseen := putAt 0 g.xseen i seen })

/-- A new retransmission request in a peer's CTRL line answered (R428). -/
def State.collResend (s : State) (n i : Nat) : State :=
  let g := s.group n
  match g.peerAt i with
  | some (st, d) =>
    let l := s.peerLine g st d
    match g.live.find? (fun c => c.seq.toNat == fieldOf l 8 4) with
    | some c => match s.desc? c.d with
      | some x =>
        if byteOf l 17 = getAt 0 g.xseen i || g.chunks st ≤ fieldOf l 12 4 then s
        else s.resendChunk n i x { c with stage := st, gather := bitOf (byteOf l 16) 0, round := fieldOf l 12 4 } d (byteOf l 17)
      | none => s
    | none => s
  | none => s

/-- COLL_RETRANSMIT (R428): `peer` is the requester's member index. -/
def execCollRetransmit (group peer : Nat) (s : State) : Host.Outcome State Fault Refusal :=
  .next (if s.serving then s.collResend group peer else s)

/-- A core whose pairs a context's kernel has: the core itself, or what the kernel that has yielded keeps of it (R471). -/
def State.pairCore (s : State) (ctx c : Nat) : Option Core :=
  if (s.core c).ctx == some ctx then some (s.core c)
  else if (s.kernel ctx).paused then ((s.kernel ctx).saved.find? (fun k => k.core == c)).map SavedCore.was
  else none

/-- That core made `v`. -/
def State.setPairCore (s : State) (ctx c : Nat) (v : Core) : State :=
  if (s.core c).ctx == some ctx then s.setCore c v
  else
    let k := s.kernel ctx
    s.setKernel ctx { k with saved := k.saved.map (fun w => if w.core = c then { w with was := v } else w) }

/-- The post of a collective on a pair (R430): SEM_OVERFLOW tears down the context whose kernel claims it (R348). -/
def State.postPair (s : State) (ctx c pair : Nat) : State :=
  match s.pairCore ctx c with
  | none => s
  | some k => match k.post pair false 1 with
    | some k => s.setPairCore ctx c k
    | none => if (k.pair pair).claimed then s.tearDown ctx 0x23 c c (some (s.kernel ctx).d) else s

/-- Local completion (R430). -/
def State.collLocal (s : State) (n : Nat) : State :=
  let g := s.group n
  match s.exchange n with
  | some (c, x) =>
    if c.stage != 5 then s
    else s.collGuard n x (resultNeeds s g x 0 g.e) (fun _ =>
      let c := { c with state := 1, rcrc := crc32c (s.resultBytes g x 0 g.e) }
      let s := (s.setGroup n { g.setColl c with first := false }).putStatus n c
      if bitOf (x.field 10 1) 0 then s.postPair x.ctx (bitsOf (x.field 41 1) 0 5) (bitsOf (x.field 40 1) 0 6) else s)
  | none => s

/-- COLL_LOCAL_COMPLETE (R430). -/
def execCollLocalComplete (group : Nat) (s : State) : Host.Outcome State Fault Refusal :=
  .next (if s.serving then s.collLocal group else s)

/-! ### Votes and verdicts (R431 to R433) -/

/-- A vote or verdict: its value, VFLAGS, VDROP. -/
structure Vote where
  ok : Bool
  flags : FlagSet
  drop : Nat
  deriving DecidableEq, Repr

/-- A vote that a peer's line shows for a collective. -/
def State.voteOf (s : State) (g : Group) (c : Coll) (st d : Nat) : Option Vote :=
  let l := s.peerLine g st d
  let v := byteOf l 29
  if fieldOf l 20 4 == c.seq.toNat && (v == 1 || v == 2) then
    some { ok := v == 1 && fieldOf l 24 4 == c.rcrc, flags := BitVec.ofNat 4 (byteOf l 28), drop := fieldOf l 32 8 }
  else none

/-- Votes combined. -/
def Vote.and (a b : Vote) : Vote :=
  { ok := a.ok && b.ok, flags := a.flags ||| b.flags, drop := (a.drop + b.drop) % 2 ^ 64 }

/-- A vote or verdict written into this member's line at a peer; `v` is VSTATE. -/
def State.putVote (s : State) (g : Group) (c : Coll) (st i v : Nat) (x : Vote) : State :=
  s.putLine g st i (patch (s.ownLine g st i) 20
    (natLe 4 c.seq.toNat ++ natLe 4 c.rcrc ++ natLe 1 x.flags.toNat ++ natLe 1 v ++ natLe 2 0 ++ natLe 8 x.drop))

/-- The stage at which this member passes its vote up; none for member 0. -/
def Group.voteStage (g : Group) : Option Nat := g.stages.find? (fun s => g.my s != 0)

/-- This member's vote combined with those of its subtree, once all are in (R431). -/
def State.subtree (s : State) (g : Group) (c : Coll) : Option Vote :=
  let own : Vote := { ok := !c.failed, flags := c.lflags, drop := c.ldrop }
  let below := match g.voteStage with
    | some t => g.stages.filter (· < t)
    | none => g.stages
  (below.flatMap (fun st => (g.peers st).map (fun d => (st, d)))).foldl (fun acc p =>
    match acc, s.voteOf g c p.1 p.2 with
    | some a, some v => some (a.and v)
    | _, _ => none) (some own)

/-- The vote of a collective past local completion: passed up, or decided by member 0 (R431). -/
def State.collCast (s : State) (n : Nat) : State :=
  let g := s.group n
  match g.live.find? (fun c => !c.exchanging && !c.voted) with
  | some c => match s.subtree g c with
    | some v => match g.voteStage with
      | some st =>
        (s.putVote g c st (g.peer st 0) (if v.ok then 1 else 2) v).setGroup n (g.setColl { c with voted := true })
      | none => s.setGroup n (g.setColl { c with
          voted := true, state := if v.ok then 2 else 3, gflags := v.flags, gdrop := v.drop })
    | none => s
  | none => s

/-- COLL_VOTE (R431). -/
def execCollVote (group : Nat) (s : State) : Host.Outcome State Fault Refusal :=
  .next (if s.serving then s.collCast group else s)

/-- The verdict of a collective, where it has arrived: member 0's own, or its digit-0 member's. -/
def State.verdictOf (s : State) (g : Group) (c : Coll) : Option Vote :=
  match g.voteStage with
  | none => if c.state = 2 || c.state = 3 then some { ok := c.state == 2, flags := c.gflags, drop := c.gdrop } else none
  | some st =>
    let l := s.peerLine g st 0
    let v := byteOf l 29
    if fieldOf l 20 4 == c.seq.toNat && (v == 3 || v == 4) then
      some { ok := v == 3, flags := BitVec.ofNat 4 (byteOf l 28), drop := fieldOf l 32 8 }
    else none

/-- The verdict passed down in decreasing stages (R431). -/
def State.passDown (s : State) (g : Group) (c : Coll) (v : Vote) : State :=
  let below := match g.voteStage with
    | some t => g.stages.filter (· < t)
    | none => g.stages
  below.reverse.foldl (fun s st => (g.peers st).foldl (fun s d =>
    s.putVote g c st (g.peer st d) (if v.ok then 3 else 4) v) s) s

/-- The pair that a tainted collective posted is marked (R432). -/
def State.markPair (s : State) (x : Desc) : State :=
  let core := bitsOf (x.field 41 1) 0 5
  let n := bitsOf (x.field 40 1) 0 6
  match (if bitOf (x.field 10 1) 0 then s.pairCore x.ctx core else none) with
  | none => s
  | some k =>
    let s := s.setPairCore x.ctx core (k.setPair n { k.pair n with marked := true })
    match (if (s.core core).ctx == some x.ctx then k.hold else none) with
    | some (.semw, st) => if bitsOf st.word.toNat 38 6 = n then s.endKernelOn core 0x40 else s
    | _ => s

/-- A collective that ended leaves its group; its descriptor is recorded unless its context was torn down (R433). -/
def State.collEnd (s : State) (n : Nat) (c : Coll) (x : Desc) (status : Nat) (flags : FlagSet) : State :=
  let g := s.group n
  let s := s.setGroup n { g with live := g.live.filter (fun e => e.d != c.d) }
  if c.noRecord then s.removeDesc c.d else s.retire { x with flags := flags } status (if status = 0x31 then 0xFFFE else 0)

/-- The verdict of the oldest collective that has voted, acted on (R431). -/
def State.collVerdict (s : State) (n : Nat) : State :=
  let g := s.group n
  match g.live.find? Coll.voted with
  | some c => match s.verdictOf g c, s.desc? c.d with
    | some v, some x =>
      let c := { c with state := if v.ok then 2 else 3, gflags := v.flags, gdrop := v.drop }
      let s := ((s.passDown g c v).setGroup n (g.setColl c)).putStatus n c
      let s := if v.ok then s else s.markPair x
      let st := if !v.ok then 0x40 else if c.gdrop != 0 then 0x41 else if c.retried then 0x31 else 0
      s.collEnd n c x st v.flags
    | _, _ => s
  | none => s

/-- COLL_VERDICT (R431). -/
def execCollVerdict (group : Nat) (s : State) : Host.Outcome State Fault Refusal :=
  .next (if s.serving then s.collVerdict group else s)

/-- A poll of a live collective of a group found nothing within 2 ms (R433). -/
def State.collLost (s : State) (p : PollLost) : State :=
  let n := p.group
  let g := s.group n
  match g.live[p.which]? with
  | some c => match s.desc? c.d with
    | some x =>
      let c := { c with state := 4 }
      let s := (s.setGroup n { g.setColl c with st := .broken }).putStatus n c
      s.collEnd n c x 0x70 x.flags
    | none => s.collBreak n c.d
  | none => s

/-- COLL_TIMEOUT (R433). -/
def execCollTimeout (p : PollLost) (s : State) : Host.Outcome State Fault Refusal :=
  .next (if s.serving then s.collLost p else s)

end Sys2Proof.Machine
end

