-- ==== Sys2Proof/Machine/Transfers.lean ====
section
/-!
DEFINITION. Transfer entries, and MOVE, CONVERT and TURN (R111, R112, R366 to R369, R564).
-/

namespace Sys2Proof.Machine

/-! ### Transfer entries (R366) -/

/-- The fields of a transfer entry. -/
structure Xfer where
  kind : Nat
  turn : Bool
  tcore : Nat
  win : Nat
  conv : Nat
  nx : Nat
  ny : Nat
  nz : Nat
  aref : Nat
  bref : Nat
  ay : Nat
  az : Nat
  yb : Nat
  zb : Nat
  ascl : Nat
  bscl : Nat
  deriving DecidableEq, Repr

/-- The entry a block of 64 bytes holds. -/
def xferOf (bs : List Byte) : Xfer :=
  { kind := bitsOf (byteOf bs 0) 0 2, turn := bitOf (byteOf bs 0) 2, tcore := bitsOf (byteOf bs 1) 0 5,
    win := bitsOf (byteOf bs 1) 5 2, conv := fieldOf bs 2 2, nx := fieldOf bs 4 4, ny := fieldOf bs 8 4,
    nz := fieldOf bs 12 4, aref := fieldOf bs 16 8, bref := fieldOf bs 24 8, ay := fieldOf bs 32 4,
    az := fieldOf bs 36 4, yb := fieldOf bs 40 4, zb := fieldOf bs 44 4, ascl := fieldOf bs 48 8,
    bscl := fieldOf bs 56 8 }

/-- Its conversion word. -/
def Xfer.word (e : Xfer) : ConvWord := convOf e.conv

/-- Rows of a destination plane and elements of a destination row (R367). -/
def Xfer.drows (e : Xfer) : Nat := if e.turn then e.nx else e.ny
/-- Elements of a destination row. -/
def Xfer.dcols (e : Xfer) : Nat := if e.turn then e.ny else e.nx

/-- What R366 asks of every entry's size and conversion, whatever its kind. -/
def Xfer.sizesOk (e : Xfer) (bs : List Byte) : Bool :=
  bitsOf (byteOf bs 0) 3 5 == 0 && !bitOf (byteOf bs 1) 7 && 1 ≤ e.nx && e.nx ≤ 2 ^ 24 && 1 ≤ e.ny && 1 ≤ e.nz

/-- Bytes of a source row of a copy; MOVE counts bytes. -/
def Xfer.srcBytes (e : Xfer) (move : Bool) : Nat := if move then e.nx else elemBytes e.word.src e.nx
/-- Bytes of a destination row, whole 64-byte units (R564). -/
def Xfer.dstBytes (e : Xfer) (move : Bool) : Nat :=
  64 * ceilDiv (if move then e.nx else elemBytes e.word.dst e.dcols) 64

/-- What R366, R367, R369 and R564 ask of the entry of a copy of opcode `op`. -/
def Xfer.copyOk (e : Xfer) (bs : List Byte) (op : Nat) : Bool :=
  let c := e.word
  e.sizesOk bs && e.kind == 2 && e.tcore == 0 && e.win == 0 && convOk e.conv (op != 0x10)
    && (op == 0x12) == e.turn && (op != 0x10 || e.conv == 0)
    && !(e.turn && c.sscale && c.dscale == 2)
    && refValid e.aref && refOk e.aref && refValid e.bref && refOk e.bref
    && refOk e.ascl && (e.ascl != 0) == c.sscale && refOk e.bscl && (e.bscl != 0) == (c.dscale != 0)
    && refAligned e.aref 64 && refAligned e.bref 64
    && !(1 < e.drows && 64 * e.yb < e.dstBytes (op == 0x10))

/-- Bytes that the A side spans from its OFFSET. -/
def Xfer.aspan (e : Xfer) (move : Bool) : Nat := 64 * (e.az * (e.nz - 1) + e.ay * (e.ny - 1)) + e.srcBytes move
/-- Bytes that the B side spans from its OFFSET. -/
def Xfer.bspan (e : Xfer) (move : Bool) : Nat :=
  64 * (e.zb * (e.nz - 1) + e.yb * (e.drows - 1)) + e.dstBytes move

/-- The planes and rows of a shape, in order: (plane, row). -/
def planeRows (nz ny : Nat) : List (Nat × Nat) := (upTo nz).flatMap (fun z => (upTo ny).map (fun y => (z, y)))

/-- Source row (z, y). -/
def Xfer.aRun (e : Xfer) (move : Bool) (p : Nat × Nat) : Run :=
  rdRun e.aref (64 * (e.az * p.1 + e.ay * p.2)) (e.srcBytes move)
/-- The scale bytes of source row (z, y) (R49). -/
def Xfer.aScaleRun (e : Xfer) (p : Nat × Nat) : Run :=
  rdRun e.ascl ((p.1 * e.ny + p.2) * scaleBytes e.nx) (scaleBytes e.nx)
/-- Destination row (z, y). -/
def Xfer.bRun (e : Xfer) (move : Bool) (p : Nat × Nat) : Run :=
  wrRun e.bref (64 * (e.zb * p.1 + e.yb * p.2)) (e.dstBytes move)
/-- The scale bytes of destination row (z, y): read where they are supplied, else written. -/
def Xfer.bScaleRun (e : Xfer) (p : Nat × Nat) : Run :=
  let n := scaleBytes e.dcols
  { ref := e.bscl, off := (p.1 * e.drows + p.2) * n, len := n, wr := e.word.dscale == 1 }

/-! ### Copies (R369) -/

/-- A handle of the DATA, META or INDEX range of a pool that exists (R226). -/
def State.boltHandle (s : State) (ref : Nat) : Bool :=
  refValid ref && s.pools.any (fun p => p.2.live && p.2.handles.contains (refHandle ref))

/-- Direct checks of a copy descriptor, in byte order. -/
def copyChecks (bs : List Byte) : List (Nat × Bool) :=
  let hs := fieldOf bs 24 8
  [refField bs 8 true, (8, refAligned (fieldOf bs 8 8) 64)] ++ reservedBytes bs 20 4
    ++ [refMaybe bs 24, (24, refAligned hs 64)] ++ reservedBytes bs 32 32

/-- References of a copy descriptor and its entry. -/
def State.copyRefs (s : State) (bs : List Byte) : List RefUse :=
  let move := byteOf bs 0 == 0x10
  let xr := fieldOf bs 8 8
  let e := xferOf (s.peekRef xr 0 64)
  [useRd 8 xr 64, useWr 24 (fieldOf bs 24 8) 320, useRd 0xFFFF e.aref (e.aspan move),
   useWr 0xFFFF e.bref (e.bspan move), useRd 0xFFFF e.ascl (e.nz * e.ny * scaleBytes e.nx),
   if e.word.dscale == 1 then useWr 0xFFFF e.bscl (e.nz * e.drows * scaleBytes e.dcols)
   else useRd 0xFFFF e.bscl (e.nz * e.drows * scaleBytes e.dcols)]

/-- The codes and decoded values of source row (z, y). -/
def State.copySource (s : State) (x : Desc) (e : Xfer) (p : Nat × Nat) : List Nat × List Value :=
  let c := e.word
  let codes := unpack c.src e.nx (s.fetchRun s.store x (e.aRun false p))
  let sc := if c.sscale then some (s.fetchRun s.store x (e.aScaleRun p)) else none
  (codes, valuesOf c.src codes sc)

/-- The destination rows of plane `z`, in order. -/
def State.copyPlane (s : State) (x : Desc) (e : Xfer) (iovf : Bool) (seed z : Nat) : List ((Nat × Nat) × RowOut) :=
  let c := e.word
  let src := (upTo e.ny).map (fun y => s.copySource x e (z, y))
  let codes := if e.turn then turned e.nx (src.map Prod.fst) else src.map Prod.fst
  let vals := if e.turn then turned e.nx (src.map Prod.snd) else src.map Prod.snd
  (codes.zip vals).zipIdx.map (fun p =>
    let at_ := (z, p.2)
    let row := z * e.drows + p.2
    if c.copies then
      (at_, { codes := p.1.1, scales := [], flags := 0, stored := p.1.1.map (decodeCode c.dst) })
    else
      (at_, convOut c iovf seed row p.1.2
        (if c.dscale = 2 then s.fetchRun s.store x (e.bScaleRun at_) else [])))

/-- A destination row stored with its computed scales. -/
def State.copyStore (s : State) (x : Desc) (e : Xfer) (m : Store) (p : (Nat × Nat) × RowOut) : Store :=
  let m := s.storeRun m x (e.bRun false p.1) (padUnit (pack e.word.dst p.2.codes))
  if e.word.dscale = 1 then s.storeRun m x (e.bScaleRun p.1) p.2.scales else m

/-- The runs of a copy. -/
def Xfer.copyRuns (e : Xfer) (move : Bool) (hslot : Nat) : List Run :=
  let c := e.word
  (planeRows e.nz e.ny).map (e.aRun move)
    ++ (if c.sscale then (planeRows e.nz e.ny).map e.aScaleRun else [])
    ++ (planeRows e.nz e.drows).map (e.bRun move)
    ++ (if c.dscale != 0 then (planeRows e.nz e.drows).map e.bScaleRun else [])
    ++ (if c.hist then [wrRun hslot 0 320] else [])

/-- The address intervals of source and destination, as resolved, intersect (R369). -/
def copyOverlaps (x : Desc) (e : Xfer) (move : Bool) : Bool :=
  match x.transAt (refHandle e.aref), x.transAt (refHandle e.bref) with
  | some a, some b =>
    let pa := a.phys (refOffset e.aref)
    let pb := b.phys (refOffset e.bref)
    (a.tier == 2) == (b.tier == 2) && pa < pb + e.bspan move && pb < pa + e.aspan move
  | _, _ => false

/-- A copy, its entry already read. -/
def State.copyEntry (s : State) (x : Desc) (e : Xfer) : Work :=
  let move := x.opcode == 0x10
  let seed := x.field 16 4
  let hslot := x.field 24 8
  s.guarded x (e.copyRuns move hslot) (fun _ =>
    if move then
      .done 0 0 0 ((planeRows e.nz e.ny).foldl (fun m p =>
        s.storeRun m x (e.bRun true p) (padUnit (s.fetchRun s.store x (e.aRun true p)))) s.store)
    else
      let rows := (upTo e.nz).flatMap (fun z => s.copyPlane x e true seed z)
      let m := rows.foldl (s.copyStore x e) s.store
      let fl := orFlags (rows.map (fun r => r.2.flags))
      let m := if e.word.hist then
          s.putHist m x hslot (Hist.zero.countAll (rows.flatMap (fun r => r.2.stored))) e.word.dst fl
        else m
      .done 0 fl 0 m)

/-- MOVE, CONVERT and TURN (R369). -/
def State.copyWork (s : State) (x : Desc) : Work :=
  let xr := rdRun (x.field 8 8) 0 64
  s.guarded x [xr] (fun _ =>
    let bs := s.fetchRun s.store x xr
    let e := xferOf bs
    let hslot := x.field 24 8
    if s.boltHandle (x.field 8 8) then .bad 0x03 8
    else if s.boltHandle hslot then .bad 0x03 24
    else if e.word.hist != (hslot != 0) then .bad 0x03 24
    else if !e.copyOk bs x.opcode
        || [e.aref, e.bref, e.ascl, e.bscl].any s.boltHandle
        || copyOverlaps x e (x.opcode == 0x10) then .bad 0x03 0xFFFF
    else s.copyEntry x e)

/-- The 64-byte units that a copy moves over the fabric, both sides counted (R469). -/
def State.copyUnits (s : State) (x : Desc) : Nat :=
  let e := xferOf (s.fetchRun s.store x (rdRun (x.field 8 8) 0 64))
  ((e.copyRuns (x.opcode == 0x10) (x.field 24 8)).map (fun r => match x.transAt (refHandle r.ref) with
    | some t => if t.tier = 2 then 0 else ceilDiv r.len 64
    | none => 0)).sum

/-- A copy concluded: what it has moved is taken from the bucket. -/
def State.concludeCopy (s : State) (x : Desc) (w : Work) : State :=
  match w with
  | .done .. => (s.takeUnits (s.partOf x) (s.copyUnits x)).concludeOwn x w
  | _ => s.concludeOwn x w

/-- A copy performed, once its partition's regulator admits its units. -/
def State.copyDesc (s : State) (c : RunCmd) (op : Nat) : State :=
  match s.running? c.d [op] with
  | some x => if s.regulated (s.partOf x) (s.copyUnits x) then s.readThen x c.reads State.copyWork State.concludeCopy else s
  | none => s

/-- MOVE (R42, R369). -/
def execMove (c : RunCmd) (s : State) : Host.Outcome State Fault Refusal := .next (s.copyDesc c 0x10)

/-- CONVERT (R369). -/
def execConvert (c : RunCmd) (s : State) : Host.Outcome State Fault Refusal := .next (s.copyDesc c 0x11)

/-- TURN (R111, R112, R367, R369). -/
def execTurn (c : RunCmd) (s : State) : Host.Outcome State Fault Refusal := .next (s.copyDesc c 0x12)

end Sys2Proof.Machine
end

