-- ==== Sys2Proof/Machine/Crc.lean ====
section
/-!
DEFINITION. CRC_SCAN (R435 to R446).
-/

namespace Sys2Proof.Machine

/-- The fields of a CRC_SCAN (R438). -/
structure CrcDesc where
  src : Nat
  out : Nat
  params : Nat
  len : Nat
  seq0 : Nat
  named : Nat
  load : Bool
  save : Bool
  final : Bool
  fold : Nat
  deriving DecidableEq, Repr

/-- The fields. -/
def crcDesc (bs : List Byte) : CrcDesc :=
  let b := byteOf bs 48
  { src := fieldOf bs 8 8, out := fieldOf bs 16 8, params := fieldOf bs 24 8, len := fieldOf bs 32 8,
    seq0 := fieldOf bs 40 8, named := bitsOf b 0 3, load := bitOf b 3, save := bitOf b 4, final := bitOf b 5,
    fold := bitsOf b 6 2 }

/-- Direct checks of a CRC_SCAN, in byte order. -/
def crcChecks (bs : List Byte) : List (Nat × Bool) :=
  let c := crcDesc bs
  [refField bs 8 true, refField bs 16 true, (16, refAligned c.out 64), refMaybe bs 24, (24, refAligned c.params 64),
   (24, c.named != 0 || c.params != 0), (32, decide (c.len ≤ 2 ^ 44)), (40, c.fold == 2 || c.seq0 == 0),
   (48, decide (c.named ≤ 5)), (48, c.save || c.final), (48, c.fold != 3)] ++ reservedBytes bs 49 15

/-- References of a CRC_SCAN. -/
def crcRefs (bs : List Byte) : List RefUse :=
  let c := crcDesc bs
  [useRd 8 c.src 0, { pos := 16, ref := c.out, len := 64, rd := c.load, wr := true }, useRd 24 c.params 64,
   useRd 32 c.src c.len]

/-- The parameters of a scan: the named set, or the parameter block (R437, R439). -/
def CrcDesc.algo (c : CrcDesc) (blk : List Byte) : CrcParams :=
  let b := byteOf blk 24
  (crcNamed c.named).getD
    { width := bitsOf b 0 6 + 1, poly := fieldOf blk 0 8, init := fieldOf blk 8 8, xorout := fieldOf blk 16 8,
      refin := bitOf b 6, refout := bitOf b 7 }

/-- Prefix bytes of a parameter block (R439). -/
def crcPrefix (blk : List Byte) : List Byte := blockBytes blk 32 (bitsOf (byteOf blk 25) 0 5)

/-- What R438 and R439 ask of a parameter block; a block that a named set does not need must bring a prefix. -/
def CrcDesc.blockOk (c : CrcDesc) (blk : List Byte) : Bool :=
  let plen := bitsOf (byteOf blk 25) 0 5
  let p := c.algo blk
  plen ≤ 16 && (!c.load || plen == 0) && bitsOf (byteOf blk 25) 5 3 == 0 && zeroField blk 26 6
    && zeroField blk 48 16
    && (if c.named = 0 then
          8 ≤ p.width && p.poly < 2 ^ p.width && p.init < 2 ^ p.width && p.xorout < 2 ^ p.width
        else zeroField blk 0 25)

/-- The fold value before data byte `fed` of the descriptor (R436). -/
def CrcDesc.foldBytes (c : CrcDesc) (count fed : Nat) : List Byte :=
  if count % 4096 != 0 then []
  else if c.fold = 1 then natLe 8 (refOffset c.src + fed)
  else if c.fold = 2 then natLe 8 ((c.seq0 + count / 4096) % 2 ^ 64)
  else []

/-- One data byte fed, its fold value before it (R436). -/
def CrcDesc.feedByte (c : CrcDesc) (p : CrcParams) (u : Scan) (b : Byte) : Scan :=
  { u with raw := crcFeed p ((c.foldBytes u.count u.fed).foldl (crcFeed p) u.raw) b, count := (u.count + 1) % 2 ^ 64,
           fed := u.fed + 1 }

/-- The state a scan starts from: the loaded record, or INIT and the prefix (R436, R440). `kept` is the parameter
block, then the scan record. -/
def CrcDesc.start (c : CrcDesc) (kept : List Byte) : Scan :=
  let blk := kept.take 64
  let p := c.algo blk
  if c.load then { raw := fieldOf kept 64 8 % 2 ^ p.width, count := fieldOf kept 72 8, fed := 0, whole := none, written := false }
  else { raw := (crcPrefix blk).foldl (crcFeed p) p.init, count := 0, fed := 0, whole := none, written := false }

/-- The next granule of a scan: up to 4,096 data bytes (R443, R444). -/
def CrcDesc.granule (c : CrcDesc) (u : Scan) : Run := rdRun c.src u.fed (min 4096 (c.len - u.fed))

/-- Granules of a scan run, each after its access is tested (R445): the run met, if one did not resolve, and the
state reached. -/
def State.scanRun (s : State) (x : Desc) (c : CrcDesc) (p : CrcParams) : Nat → Scan → Option (Run × Acc) × Scan
  | 0, u => (none, u)
  | n + 1, u =>
    let r := c.granule u
    if r.len = 0 then (none, u)
    else match s.firstBad x [r] with
      | some b => (some b, u)
      | none => s.scanRun x c p n ((s.fetchRun s.store x r).foldl (c.feedByte p) u)

/-- The scan record (R440). -/
def CrcDesc.record (c : CrcDesc) (p : CrcParams) (tag : Word) (raw count : Nat) : List Byte :=
  let head := natLe 8 (if c.save then raw else 0) ++ natLe 8 count
  head ++ natLe 8 (if c.final then crcFinal p raw else 0) ++ natLe 4 tag.toNat ++ natLe 1 (p.width - 1)
    ++ natLe 3 0 ++ natLe 4 (crc32c head) ++ natLe 28 0

/-- The running value over the scan's data as memory holds them now; none while they cannot be read. -/
def State.scanWhole (s : State) (x : Desc) (c : CrcDesc) (p : CrcParams) : Option Nat :=
  let r := rdRun c.src 0 c.len
  if (s.firstBad x [r]).isSome then none else some ((s.fetchRun s.store x r).foldl (c.feedByte p) (c.start x.kept)).raw

/-- A write to the scanned bytes is on its way. -/
def State.scanHit (s : State) (x : Desc) (c : CrcDesc) : Bool :=
  match s.access x (rdRun c.src 0 c.len) with
  | .ok tier a => tier != 2 &&
    (s.smalls.any (fun r => r.op == .wr && meets r.addr r.data.length a c.len)
      || s.ports.any (fun p => p.2.outs.any (fun o => o.2.any (fun r => r.isWrite && meets r.addr r.data.length a c.len))))
  | _ => false

/-- What a scan sees of writes to its bytes: they change, or a write is on its way (R446). -/
def State.scanSeen (s : State) (x : Desc) (c : CrcDesc) (p : CrcParams) (u : Scan) : Scan :=
  let now := s.scanWhole x c p
  { u with whole := now, written := u.written || s.scanHit x c || (u.whole.isSome && now.isSome && u.whole != now) }

/-- A scan ended: the record written and the descriptor retired. Where the scanned bytes were written while it ran, its
running value is free (R446; log 7). -/
def State.scanEnd (s : State) (x : Desc) (c : CrcDesc) (p : CrcParams) (u : Scan) : State :=
  match s.firstBad x [wrRun c.out 0 64] with
  | some (r, a) => s.concludeOwn { x with scan := some { u with whole := none } } (workOfAcc r a)
  | none =>
    let (n, s) := s.draw
    let raw := if u.written || (u.whole.isSome && u.whole != some u.raw) then (Config.scannedWhileWritten n).toNat % 2 ^ p.width
      else u.raw
    (s.withStore (s.storeRun s.store x (wrRun c.out 0 64) (c.record p x.tag raw u.count))).retire x 0 0

/-- A scan that goes on for some granules from a state, once its partition's regulator admits their units (R469). -/
def State.scanOn (s : State) (x : Desc) (granules : Nat) (u : Scan) : State :=
  let c := crcDesc x.bytes
  let p := c.algo (x.kept.take 64)
  let units := ceilDiv (min (4096 * granules) (c.len - u.fed)) 64
  if !s.regulated (s.partOf x) units then s.setDesc { x with scan := some u }
  else match s.scanRun x c p granules (s.scanSeen x c p u) with
    | (some (r, a), u) => s.concludeOwn { x with scan := some { u with whole := none } } (workOfAcc r a)
    | (none, u) =>
      let s := s.takeUnits (s.partOf x) units
      if u.fed < c.len then s.setDesc { x with scan := some u } else s.scanEnd x c p u

/-- The blocks that a scan reads before its data (R439, R440). -/
def CrcDesc.blocks (c : CrcDesc) : List Run :=
  (if c.params = 0 then [] else [rdRun c.params 0 64]) ++ (if c.load then [rdRun c.out 0 64] else [])

/-- A scan begun: the parameter block and the loaded record are read and checked (R438 to R440). -/
def State.scanStart (s : State) (x : Desc) (granules : Nat) : State :=
  let c := crcDesc x.bytes
  match s.firstBad x c.blocks with
  | some (r, a) => s.concludeOwn x (workOfAcc r a)
  | none =>
    let blk := if c.params = 0 then natLe 64 0 else s.fetchRun s.store x (rdRun c.params 0 64)
    let out := if c.load then s.fetchRun s.store x (rdRun c.out 0 64) else natLe 64 0
    if s.boltHandle c.src then s.retire x 0x03 8
    else if s.boltHandle c.out then s.retire x 0x03 16
    else if s.boltHandle c.params || (c.params != 0 && c.named != 0 && bitsOf (byteOf blk 25) 0 5 == 0) then
      s.retire x 0x03 24
    else if !c.blockOk blk || (c.load && fieldOf out 32 4 != crc32c (out.take 16)) then s.retire x 0x03 0xFFFF
    else
      let x := { x with kept := blk ++ out }
      s.scanOn x granules (c.start x.kept)

/-! ### The units (R19, R443) -/

/-- A scan is on a unit. -/
def State.onCvu (s : State) (d : Did) : Bool := (upTo 4).any (fun n => (s.cvuScan n).any (fun y => y.did == d))

/-- Scans dequeued before one that wait for a unit. -/
def State.scansAhead (s : State) (x : Desc) : Nat :=
  (s.descs.filter (fun y => y.opcode == 0x38 && y.st == .running && y.order < x.order && !s.onCvu y.did)).length

/-- The unit on which a scan runs now: its own, or the lowest idle one, unless earlier scans wait for all of those. -/
def State.cvuFor (s : State) (x : Desc) : Option Nat :=
  let idle := (upTo 4).filter (fun n => (s.cvuScan n).isNone)
  match (upTo 4).find? (fun n => (s.cvuScan n).any (fun y => y.did == x.did)) with
  | some n => some n
  | none => if s.scansAhead x < idle.length then idle.head? else none

/-- A scan on its unit; it waits where none is for it. -/
def State.scanOnCvu (s : State) (x : Desc) (act : Nat → State → State) : State :=
  match s.cvuFor x with
  | some n => act n { s with cvus := putAt none s.cvus n (some x.did) }
  | none => s

/-- What the parity check of the unit's registers met (R445, R480 to R485): a granule run again leaves ECC_RETRIED, a second
error ends the scan. The log names the unit, with 0 for its place (DESIGN CHOICE, log 57). -/
def State.unitChecked (s : State) (x : Desc) (n : Nat) (parity : UnitCheck) (act : State → Desc → State) : State :=
  match parity with
  | .clean => act s x
  | .retried =>
    let s := ((s.logEvent 0x01 1 4 n 0 x.ctx x.tag).noteRepeat 0x01 4 n 0).noteStatus x.did 0x31 0xFFFE
    match s.desc? x.did with
    | some x => act s x
    | none => s
  | .lasting => (s.logEvent 0x02 2 4 n 0 x.ctx x.tag).descFault x 0x30

/-- A scan's run on unit `n`, once the parity of the unit's registers and its reads are checked (R445). -/
def State.unitRun (s : State) (x : Desc) (n : Nat) (run : UnitRun) (act : State → Desc → State) : State :=
  s.unitChecked x n run.parity (fun s x => match s.readsMet x run.reads with
    | (true, t) => act t ((t.desc? x.did).getD x)
    | (false, t) => t)

/-- CRC_SCAN (R435 to R446): a scan that begins and runs for `run.granules` granules. -/
def execCrcScan (d : Did) (run : UnitRun) (s : State) : Host.Outcome State Fault Refusal :=
  .next (match s.running? d [0x38] with
    | some x =>
      if x.scan = none then s.scanOnCvu x (fun n s => s.unitRun x n run (fun s x => s.scanStart x run.granules)) else s
    | none => s)

/-- CRC_SCAN_RESUME (R376, R444): a saved scan goes on for `run.granules` granules, on any idle unit. -/
def execCrcScanResume (d : Did) (run : UnitRun) (s : State) : Host.Outcome State Fault Refusal :=
  .next (match s.running? d [0x38] with
    | some x => match x.scan with
      | some u => s.scanOnCvu x (fun n s => s.unitRun x n run (fun s x => s.scanOn x run.granules u))
      | none => s
    | none => s)

end Sys2Proof.Machine
end

