-- ==== Sys2Proof/Machine/Gemm.lean ====
section
/-!
DEFINITION. GEMM and CONV (R37, R77, R101 to R104, R113 to R128, R461 to R463).
-/

namespace Sys2Proof.Machine

/-- The parameter block of GEMM and CONV (R461). -/
structure MatParams where
  m : Nat
  n : Nat
  k : Nat
  aconv : Nat
  bconv : Nat
  cconv : Nat
  actl : Nat
  acc : Nat
  aturn : Bool
  bturn : Bool
  wlist : Bool
  init : Bool
  astride : Nat
  bstride : Nat
  cstride : Nat
  epi : EpiBlock
  w : Nat
  h : Nat
  t : Nat
  kshape : Bool
  pad : Nat
  deriving DecidableEq, Repr

/-- The fields of a block of 128 bytes. -/
def matParams (bs : List Byte) : MatParams :=
  let f := byteOf bs 20
  { m := fieldOf bs 0 4, n := fieldOf bs 4 4, k := fieldOf bs 8 4, aconv := fieldOf bs 12 2,
    bconv := fieldOf bs 14 2, cconv := fieldOf bs 16 2, actl := byteOf bs 18, acc := byteOf bs 19,
    aturn := bitOf f 0, bturn := bitOf f 1, wlist := bitOf f 2, init := bitOf f 3, astride := fieldOf bs 24 4,
    bstride := fieldOf bs 28 4, cstride := fieldOf bs 32 4, epi := epiBlock bs 36, w := fieldOf bs 56 2,
    h := fieldOf bs 58 2, t := fieldOf bs 60 2, kshape := bitOf (byteOf bs 62) 0, pad := (bitOf (byteOf bs 62) 1).toNat }

/-- Load words. -/
def MatParams.ca (p : MatParams) : ConvWord := convOf p.aconv
/-- The load word of B. -/
def MatParams.cb (p : MatParams) : ConvWord := convOf p.bconv
/-- The output word. -/
def MatParams.cc (p : MatParams) : ConvWord := convOf p.cconv
/-- Integer operands. -/
def MatParams.ints (p : MatParams) : Bool := isIntOperand p.ca.dst
/-- `iovf` (R123). -/
def MatParams.iovf (p : MatParams) : Bool := bitOf p.acc 2
/-- Elements of a contraction: K, or 9 · C taps of a CONV. -/
def MatParams.depth (p : MatParams) (conv : Bool) : Nat := if conv then 9 * p.k else p.k
/-- Rows of A: those of the output, or the pixels of a CONV (R461, R462). -/
def MatParams.aLines (p : MatParams) (conv : Bool) : Nat := if conv then p.t * p.h * p.w else p.m
/-- Rows of A as stored; a CONV's turned operands are stored as those of a GEMM are (DEDUCED, log 70). -/
def MatParams.aRows (p : MatParams) (conv : Bool) : Nat := if p.aturn then p.k else p.aLines conv
/-- Elements of a stored row of A. -/
def MatParams.aCols (p : MatParams) (conv : Bool) : Nat := if p.aturn then p.aLines conv else p.k
/-- Stored rows of B. -/
def MatParams.bRows (p : MatParams) (conv : Bool) : Nat := if p.bturn then p.depth conv else p.n
/-- Elements of a stored row of B. -/
def MatParams.bCols (p : MatParams) (conv : Bool) : Nat := if p.bturn then p.n else p.depth conv
/-- Output height and width of a CONV (R462). -/
def MatParams.outH (p : MatParams) : Nat := p.h + 2 * p.pad - 2
/-- Output width. -/
def MatParams.outW (p : MatParams) : Nat := p.w + 2 * p.pad - 2

/-- What R37, R54, R77, R88, R123, R461 to R463 and R564 ask of the block. Bytes 64 to 127, which R461's table does not list,
must be 0 (DESIGN CHOICE, log 54). -/
def MatParams.ok (p : MatParams) (bs : List Byte) (conv : Bool) (slotOk : Nat → Bool) : Bool :=
  let ia := isIntOperand p.ca.dst
  let ib := isIntOperand p.cb.dst
  let c := p.cc
  1 ≤ p.m && p.m ≤ 2 ^ 24 && 1 ≤ p.n && p.n ≤ 2 ^ 24 && 1 ≤ p.k && p.k ≤ 2 ^ 24
    && convOk p.aconv false && convOk p.bconv false && convOk p.cconv true
    && (isFloatOperand p.ca.dst || ia) && (isFloatOperand p.cb.dst || ib) && ia == ib
    && c.src == (if ia then 0xB else 0)
    && (actlChecks 0 p.actl p.ca.dst p.cb.dst false).all Prod.snd && (accChecks 0 p.acc ia).all Prod.snd
    && bitsOf (byteOf bs 20) 4 4 == 0 && zeroField bs 21 3 && zeroField bs 52 4
    && bitsOf (byteOf bs 62) 2 6 == 0 && zeroField bs 63 1 && zeroField bs 64 64
    && (p.epi.checks 0 slotOk).all Prod.snd
    && (!p.wlist || (!p.init && c.dscale == 0))
    && (p.wlist || !(1 < p.m && p.cstride < rowUnits c.dst p.n))
    && (if conv then 3 ≤ p.w && p.w ≤ 4096 && 3 ≤ p.h && p.h ≤ 4096 && 1 ≤ p.t && !p.init && !p.wlist
          && p.m == p.t * p.outH * p.outW
        else p.w == 0 && p.h == 0 && p.t == 0 && byteOf bs 62 == 0)

/-! ### Operands -/

/-- A stored matrix read and converted on load (R64, R76, R110): rows after any turn, with the load flags. Scales
of a source or supplied scales have no named plane (log 11). -/
def State.operand (s : State) (m : Store) (x : Desc) (ref stride rows cols : Nat) (turn : Bool) (c : ConvWord)
    (iovf : Bool) (seed plane : Nat) : List (List Value) × FlagSet :=
  let codes := (upTo rows).map (fun i =>
    unpack c.src cols (s.fetchRun m x (rowRun ref stride i (elemBytes c.src cols) false)))
  let vals := codes.zipIdx.map (fun p => valuesOf c.src p.1 (if c.sscale then some (unplacedScales (s.scaleDraw plane) p.2 cols) else none))
  let vals := if turn then turned cols vals else vals
  let n := if turn then rows else cols
  if c.copies then (vals, 0)
  else
    let r := vals.zipIdx.map (fun p =>
      convOut c iovf seed p.2 p.1 (c.supplied (s.scaleDraw (plane + 1)) p.2 n))
    (r.map RowOut.stored, orFlags (r.map RowOut.flags))

/-! ### Convolution (R101 to R103, R462) -/

/-- Channels of a block of the contraction (R101, R103): 64 in 8-bit KPAIR, else 32 (log 37). -/
def MatParams.chanBlock (p : MatParams) : Nat :=
  if max (widthClass p.ca.dst) (widthClass p.cb.dst) = 8 && bitsOf p.actl 0 2 != 2 then 64 else 32

/-- Twill mode runs the formats (R101, R344). -/
def MatParams.twill (p : MatParams) : Bool :=
  let c := max (widthClass p.ca.dst) (widthClass p.cb.dst)
  c == 16 || (c == 8 && bitsOf p.actl 0 2 != 2)

/-- The contraction of a convolution in order: channel block, dy, dx, channel (R103); each list is one
(block, dy, dx). -/
def MatParams.taps (p : MatParams) : List (List (Nat × Nat × Nat)) :=
  (pieces p.chanBlock (upTo p.k)).flatMap (fun blk =>
    (upTo 3).flatMap (fun dy => (upTo 3).map (fun dx => blk.map (fun c => (dy, dx, c)))))

/-- The pixel that tap (dy, dx) of output pixel `i` meets, or none outside the image (R102). -/
def MatParams.pixel (p : MatParams) (i dy dx : Nat) : Option Nat :=
  let f := i / (p.outH * p.outW)
  let y := i / p.outW % p.outH + dy
  let x := i % p.outW + dx
  if p.pad ≤ y && y < p.h + p.pad && p.pad ≤ x && x < p.w + p.pad then
    some ((f * p.h + (y - p.pad)) * p.w + (x - p.pad))
  else none

/-- The weft operands of output pixel `i`, one list per (block, dy, dx). -/
def MatParams.gather (p : MatParams) (a : List (List Value)) (i : Nat) : List (List Value) :=
  p.taps.map (fun tap => tap.map (fun q => match p.pixel i q.1 q.2.1 with
    | some j => (a.getD j []).getD q.2.2 (.fin false 0 0)
    | none => .fin false 0 0))

/-- The groups of a contraction (R115): 32 indices, or in twill mode 32 channels of one (dy, dx) (R103). -/
def MatParams.groups (p : MatParams) (conv : Bool) (x y : List Value) (weft : List (List Value)) :
    List (List (Value × Value)) :=
  if conv && p.twill then
    let rec go : List (List Value) → List Value → List (List (Value × Value))
      | [], _ => []
      | w :: ws, y => pieces 32 (w.zip y) ++ go ws (y.drop w.length)
    go weft y
  else pieces 32 (x.zip y)

/-! ### The product -/

/-- The accumulator of one output element (R113 to R128); `old` is the value INIT gives. -/
def MatParams.element (p : MatParams) (conv mvp : Bool) (key seed i j : Nat) (weft : List (List Value)) (y : List Value)
    (old : Option Nat) : Nat × FlagSet :=
  let gs := p.groups conv weft.flatten y weft
  let (v, f) :=
    if p.ints then addGroupsInt p.iovf old (gs.map (fun g => g.map (fun q => (intOf q.1, intOf q.2))))
    else addGroups { sr := bitsOf p.acc 0 2 == 2, seed := seed, core := Config.srCore key i j, mvp := mvp,
                     iovf := p.iovf } i (if mvp then j % 2048 else j % 128) 0 old gs
  (v.getD 0, f)

/-- One output row of accumulators. -/
def MatParams.row (p : MatParams) (conv : Bool) (key seed i : Nat) (a b : List (List Value)) (old : Option (List Nat)) :
    List Nat × FlagSet :=
  let weft := if conv then p.gather a i else [a.getD i []]
  let mvp := !(conv && p.twill) && p.m ≤ 4 && bitOf p.actl 2
  mapFlags (fun q : List Value × Nat => p.element conv mvp key seed i q.2 weft q.1 (old.map (fun o => o.getD q.2 0)))
    ((upTo p.n).map (fun j => (b.getD j [], j)))

/-- The descriptor's run of references (R390). -/
def matChecks (bs : List Byte) : List (Nat × Bool) :=
  [refField bs 8 true, (8, refAligned (fieldOf bs 8 8) 64), refField bs 16 true, refField bs 24 true,
   refField bs 32 true, refMaybe bs 40, (40, refAligned (fieldOf bs 40 8) 64)] ++ reservedBytes bs 52 12

/-- References of a GEMM or CONV. -/
def State.matRefs (s : State) (bs : List Byte) : List RefUse :=
  let conv := byteOf bs 0 == 0x04
  let p := matParams (s.peekRef (fieldOf bs 8 8) 0 128)
  let c := fieldOf bs 32 8
  [useRd 8 (fieldOf bs 8 8) 128,
   useRd 16 (fieldOf bs 16 8) (rowsExtent p.astride (p.aRows conv) (elemBytes p.ca.src (p.aCols conv))),
   useRd 24 (fieldOf bs 24 8) (rowsExtent p.bstride (p.bRows conv) (elemBytes p.cb.src (p.bCols conv))),
   (if p.wlist then useRd 32 c (8 * p.m)
    else { pos := 32, ref := c, len := rowsExtent p.cstride p.m (64 * rowUnits p.cc.dst p.n), rd := p.init, wr := true }),
   useWr 40 (fieldOf bs 40 8) 320, useRd 0xFFFF p.epi.vec (p.epi.extent p.n)]

/-- The runs of a product whose block holds. -/
def MatParams.runs (p : MatParams) (x : Desc) (conv : Bool) : List Run :=
  let c := x.field 32 8
  rowRuns (x.field 16 8) p.astride (p.aRows conv) (elemBytes p.ca.src (p.aCols conv)) false
    ++ rowRuns (x.field 24 8) p.bstride (p.bRows conv) (elemBytes p.cb.src (p.bCols conv)) false
    ++ (if p.wlist then [rdRun c 0 (8 * p.m)]
        else rowRuns c p.cstride p.m (64 * rowUnits p.cc.dst p.n) true)
    ++ (if p.init then rowRuns c p.cstride p.m (4 * p.n) false else [])
    ++ p.epi.runs p.n ++ (if p.cc.hist then [wrRun (x.field 40 8) 0 320] else [])

/-- The accumulators of every output row, with the array flags. -/
def State.matRows (s : State) (x : Desc) (p : MatParams) (conv : Bool) (key : Nat) : List (List Nat) × FlagSet :=
  let seed := x.field 48 4
  let (a, fa) := s.operand s.store x (x.field 16 8) p.astride (p.aRows conv) (p.aCols conv) p.aturn p.ca
    p.iovf seed 0
  let (b, fb) := s.operand s.store x (x.field 24 8) p.bstride (p.bRows conv) (p.bCols conv) p.bturn p.cb p.iovf seed 2
  let (rows, f) := mapFlags (fun i =>
    p.row conv key seed i a b (if p.init then
        some (f32List (s.fetchRun s.store x (rowRun (x.field 32 8) p.cstride i (4 * p.n) false))) else none))
    (upTo p.m)
  (rows, fa ||| fb ||| f)

/-- Output rows stored as a tensor with their histogram. -/
def State.matTensor (s : State) (x : Desc) (p : MatParams) (rows : List (List Nat)) (e : Epilogue) :
    Store × FlagSet :=
  let c := p.cc
  let outs := rows.zipIdx.map (fun r => e.outRow p.ints c p.iovf (x.field 48 4) r.2 (c.supplied (s.scaleDraw 4) r.2 p.n) r.1)
  let m := (outs.zipIdx).foldl (fun m o =>
    s.storeRun m x (rowRun (x.field 32 8) p.cstride o.2 (64 * rowUnits c.dst p.n) true) (padUnit (pack c.dst o.1.codes)))
    s.store
  let fl := orFlags (outs.map RowOut.flags)
  if c.hist then
    (s.putHist m x (x.field 40 8) (Hist.zero.countAll (outs.flatMap RowOut.stored)) c.dst
      (orFlags (outs.map RowOut.own)), fl)
  else (m, fl)

/-- Output rows sent to bolts (R252, R463): the FP32 results of the epilogue, encoded by the store path. -/
def State.matBolts (s : State) (x : Desc) (p : MatParams) (rows : List (List Nat)) (e : Epilogue)
    (ws : List WriteEnt) : Store × FlagSet × Nat :=
  let pats := rows.map (fun acc =>
    let (t, f₀) : List Nat × FlagSet := if p.ints then mapFlags (i32ToF32 e.env.mode) acc else (acc, 0)
    let (v, f₁) := mapFlags (fun q : Nat × Nat => e.apply q.2 q.1) t.zipIdx
    (v, f₀ ||| f₁))
  let o := s.writeRows x.views p.cc (x.field 48 4) 0 (ws.zip (pats.map Prod.fst))
  let m := if p.cc.hist then
      s.putHist o.state.store x (x.field 40 8) (Hist.zero.countAll o.stored) p.cc.dst o.flags
    else o.state.store
  (m, orFlags (pats.map Prod.snd) ||| o.flags, o.hint)

/-- Entries of the write list of a product whose parameter block is `p`. -/
def State.listEnts (s : State) (x : Desc) (p : MatParams) : List WriteEnt :=
  (pieces 8 (s.fetchRun s.store x (rdRun (x.field 32 8) 0 (8 * p.m)))).map (fun e => writeEnt (leNat e))

/-- A write list that ends the whole descriptor (R221, R227, R232, R241, R252). -/
def State.listBad (s : State) (x : Desc) (p : MatParams) (ws : List WriteEnt) : Option Work :=
  let own := fun (w : WriteEnt) => s.ownsSeq (s.partOf x) w.seq
  let pools := x.views.map View.pool ++ ws.filterMap (fun w => match writeTarget x.views w with
    | .ok r => some r.1.pool
    | .error _ => none)
  if s.seqTab.isNone || !ws.all own then some (.bad 0x03 0xFFFF)
  else if ws.any (fun w => (s.seqn w.seq).quar) then some (.bad 0x30 0xFFFE)
  else if pools.any (fun n => (s.pool n).quar) then some (.bad 0x7F 0)
  else if !s.writeListOk x.views p.cc p.n ws then some (.bad 0x03 0xFFFF)
  else (s.firstBadPage true (ws.filterMap (fun w => match writeTarget x.views w with
    | .ok r => some r.1
    | .error _ => none))).map (fun b => workOfAcc b.1 b.2)

/-- The sequences whose views a product takes at its dequeue: those its write list names (R254). -/
def State.listSeqs (s : State) (x : Desc) : List Nat :=
  let pr := rdRun (x.field 8 8) 0 128
  let p := matParams (s.fetchRun s.store x pr)
  if (s.firstBad x [pr]).isNone && p.wlist && (s.firstBad x [rdRun (x.field 32 8) 0 (8 * p.m)]).isNone then
    (((s.listEnts x p).map WriteEnt.seq).filter (s.ownsSeq (s.partOf x))).dedup
  else []

/-- The DETAIL with which a block ends its descriptor in BAD_DESC, where it does. -/
def State.matRefused (s : State) (x : Desc) (bs : List Byte) : Option Nat :=
  let p := matParams bs
  if p.cc.hist != (x.field 40 8 != 0) then some 40
  else if !p.ok bs (x.opcode == 0x04) (s.slotAssigned x.ctx) then some 0xFFFF
  else if !p.wlist && !refAligned (x.field 32 8) 64 then some 32
  else none

/-- GEMM and CONV (R461 to R463). -/
def State.matWork (s : State) (x : Desc) : Work :=
  let conv := x.opcode == 0x04
  let pr := rdRun (x.field 8 8) 0 128
  s.guarded x [pr] (fun _ =>
    let bs := s.fetchRun s.store x pr
    let p := matParams bs
    match s.matRefused x bs with
    | some det => .bad 0x03 det
    | none => s.guarded x (p.runs x conv) (fun _ =>
      let ws := if p.wlist then s.listEnts x p else []
      match (if p.wlist then s.listBad x p ws else none) with
      | some w => w
      | none =>
        let (rows, af) := s.matRows x p conv (s.placeKey x.ctx bs)
        let e := s.epilogue s.store x p.epi p.n
        let rec_ := recoveryStatus (s.recovering x.ctx) (actUses e.act e.image)
        if p.wlist then
          let (m, sf, st) := s.matBolts x p rows e ws
          .done (mergeStatus st rec_) af sf m
        else
          let (m, sf) := s.matTensor x p rows e
          .done rec_ af sf m))

/-- GEMM (R461, R463). -/
def execGemm (c : RunCmd) (s : State) : Host.Outcome State Fault Refusal := .next (s.kernelDo c 0x03 State.matWork)

/-- CONV (R461, R462). -/
def execConv (c : RunCmd) (s : State) : Host.Outcome State Fault Refusal := .next (s.kernelDo c 0x04 State.matWork)

end Sys2Proof.Machine
end

