-- ==== Sys2Proof/Machine/Maps.lean ====
section
/-!
DEFINITION. SFU_MAP and NORM (R154 to R160, R166 to R173).
-/

namespace Sys2Proof.Machine

/-! ### SFU_MAP (R159, R160) -/

/-- A value decoded to FP32 for the SFU: an FP32 source keeps its bits, others convert under FRND (R160). -/
def toSfu (mode : Rounding) (fmt code : Nat) (v : Value) (scaled : Bool) : Flagged :=
  if fmt = 0 && !scaled then (code, 0) else valueToF32 mode v

/-- A run of elements decoded to FP32 patterns. -/
def sfuLoad (mode : Rounding) (c : ConvWord) (codes : List Nat) (sup : List Byte) : List Nat × FlagSet :=
  let vals := valuesOf c.src codes (if c.sscale then some sup else none)
  mapFlags (fun p : Nat × Value => toSfu mode c.src p.1 p.2 c.sscale) (codes.zip vals)

/-- Direct checks of an SFU_MAP, in byte order. -/
def State.mapChecks (s : State) (ctx : Nat) (bs : List Byte) : List (Nat × Bool) :=
  let hs := fieldOf bs 56 8
  let w := fieldOf bs 28 2
  let e := epiBlock bs 32
  [refField bs 8 true, refField bs 16 true, (16, refAligned (fieldOf bs 16 8) 64), (24, fieldOf bs 24 4 != 0),
   (28, bitsOf w 0 4 != 8)] ++ convChecks 28 w true ++ reservedBytes bs 30 2
    ++ e.checks 32 (s.slotAssigned ctx)
    ++ [(48, fieldOf bs 48 4 != 0 || !(e.biasv || e.scalev)), refMaybe bs 56, (56, refAligned hs 64),
        (56, (hs != 0) == bitOf w 14)]

/-- References of an SFU_MAP. -/
def mapRefs (bs : List Byte) : List RefUse :=
  let c := convOf (fieldOf bs 28 2)
  let n := fieldOf bs 24 4
  [useRd 8 (fieldOf bs 8 8) (elemBytes c.src n), useWr 16 (fieldOf bs 16 8) (64 * rowUnits c.dst n),
   useRd 40 (epiBlock bs 32).vec ((epiBlock bs 32).extent (fieldOf bs 48 4)), useWr 56 (fieldOf bs 56 8) 320]

/-- SFU_MAP (R160). -/
def State.mapWork (s : State) (x : Desc) : Work :=
  let c := convOf (x.field 28 2)
  let n := x.field 24 4
  let b := epiBlock x.bytes 32
  let rl := x.field 48 4
  let src := rdRun (x.field 8 8) 0 (elemBytes c.src n)
  let dst := wrRun (x.field 16 8) 0 (64 * rowUnits c.dst n)
  let hs := x.field 56 8
  s.guarded x ([src, dst] ++ b.runs rl ++ (if c.hist then [wrRun hs 0 320] else [])) (fun _ =>
    let e := s.epilogue s.store x b rl
    let (u, f₀) := sfuLoad e.env.mode c (unpack c.src n (s.fetchRun s.store x src)) (unplacedScales (s.scaleDraw 0) 0 n)
    let o := e.outRow false c true (x.field 52 4) 0 (c.supplied (s.scaleDraw 1) 0 n) u
    let m := s.storeRun s.store x dst (padUnit (pack c.dst o.codes))
    let m := if c.hist then s.putHist m x hs (Hist.zero.countAll o.stored) c.dst o.own else m
    .done (recoveryStatus (s.recovering x.ctx) (actUses e.act e.image)) 0 (f₀ ||| o.flags) m)

/-- SFU_MAP (R160). -/
def execSfuMap (c : RunCmd) (s : State) : Host.Outcome State Fault Refusal := .next (s.kernelDo c 0x06 State.mapWork)

/-! ### Statistics (R166 to R169) -/

/-- A lane: count, mean and M2 as FP32 patterns. -/
structure Lane where
  n : Nat
  mean : Nat
  m2 : Nat
  deriving DecidableEq, Repr

/-- A lane before its first element. -/
def Lane.zero : Lane := { n := 0, mean := 0, m2 := 0 }

/-- An exact integer as FP32 (n ≤ 2^24 is exact). -/
def f32Nat (n : Nat) : Nat := (finToF32 .rne false n 0).1

/-- RNE of a quotient of exact integers (R168). -/
def ratio (a b : Nat) : Flagged := divMag .rne false a 0 b 0

/-- One element met by a lane (R167). -/
def Lane.update (v : SfuEnv) (acc : Lane × FlagSet) (x : Nat) : Lane × FlagSet :=
  let l := acc.1
  let n := l.n + 1
  let d := subF .rne x l.mean
  let mean := andThen (andThen d (fun d => builtin v 0x19 d (f32Nat n))) (fun q => addF .rne l.mean q)
  let m2 := andThen (andThen (subF .rne x mean.1) (fun e => mulF .rne d.1 e)) (fun p => addF .rne l.m2 p)
  ({ n := n, mean := mean.1, m2 := m2.1 }, acc.2 ||| mean.2 ||| m2.2)

/-- Lane `b` merged into lane `a` (R168). -/
def Lane.merge (a b : Lane) : Lane × FlagSet :=
  if b.n = 0 then (a, 0)
  else if a.n = 0 then (b, 0)
  else
    let n := a.n + b.n
    let wb := ratio b.n n
    let wab := ratio (a.n * b.n) n
    let d := subF .rne b.mean a.mean
    let mean := andThen (mulF .rne d.1 wb.1) (fun p => addF .rne a.mean p)
    let sq := andThen (mulF .rne d.1 d.1) (fun q => mulF .rne q wab.1)
    let m2 := andThen (addF .rne a.m2 b.m2) (fun s => addF .rne s sq.1)
    ({ n := n, mean := mean.1, m2 := m2.1 }, wb.2 ||| wab.2 ||| d.2 ||| mean.2 ||| sq.2 ||| m2.2)

/-- One level of merging: neighbours in pairs. -/
def mergeLevel : List Lane → List Lane × FlagSet
  | a :: b :: t =>
    let (m, f) := a.merge b
    let (r, g) := mergeLevel t
    (m :: r, f ||| g)
  | l => (l, 0)

/-- Seven levels (R168). -/
def mergeLanes : Nat → List Lane → List Lane × FlagSet
  | 0, l => (l, 0)
  | k + 1, l =>
    let (m, f) := mergeLevel l
    let (r, g) := mergeLanes k m
    (r, f ||| g)

/-- The statistic of an element sequence (R166 to R168): `v` evaluates DIV with RNE. -/
def statOf (v : SfuEnv) (xs : List Nat) : Lane × FlagSet :=
  let lanes := (upTo 128).map (fun i =>
    (xs.zipIdx.filter (fun p => p.2 % 128 == i)).foldl (fun acc p => Lane.update v acc p.1) (Lane.zero, 0))
  let (r, f) := mergeLanes 7 (lanes.map Prod.fst)
  (r.headD Lane.zero, orFlags (lanes.map Prod.snd) ||| f)

/-- The mean and rstd of a sequence (R169). -/
def finishStat (v : SfuEnv) (rms : Bool) (eps : Nat) (xs : List Nat) : (Nat × Nat) × FlagSet :=
  let (l, f) := statOf v xs
  let var := builtin v 0x19 l.m2 (f32Nat xs.length)
  let ms := if rms then andThen (mulF .rne l.mean l.mean) (fun q => addF .rne var.1 q) else (var.1, 0)
  let rstd := andThen (addF .rne ms.1 eps) (fun a => builtin v 0x11 a 0)
  ((l.mean, rstd.1), f ||| var.2 ||| ms.2 ||| rstd.2)

/-! ### NORM (R170 to R172) -/

/-- The fields of a NORM descriptor. -/
structure NormDesc where
  rows : Nat
  len : Nat
  conv : ConvWord
  kind : Nat
  stats : Bool
  affine : Bool
  eps : Nat
  aff : Nat
  chans : Nat
  groups : Nat
  ctl : Nat
  statref : Nat
  deriving DecidableEq, Repr

/-- The fields. -/
def normOf (bs : List Byte) : NormDesc :=
  let k := byteOf bs 34
  { rows := fieldOf bs 24 4, len := fieldOf bs 28 4, conv := convOf (fieldOf bs 32 2), kind := bitsOf k 0 2,
    stats := bitOf k 2, affine := bitOf k 3, eps := fieldOf bs 36 4, aff := fieldOf bs 40 8,
    chans := fieldOf bs 48 2, groups := fieldOf bs 50 2, ctl := fieldOf bs 52 4, statref := fieldOf bs 56 8 }

/-- An FP32 pattern that is finite and at least +0. -/
def finiteNonneg (c : Nat) : Bool := bitsOf c 23 8 != 255 && !bitOf c 31

/-- Direct checks of a NORM, in byte order. -/
def State.normChecks (s : State) (ctx : Nat) (bs : List Byte) : List (Nat × Bool) :=
  let n := normOf bs
  let g := n.kind == 2
  [refField bs 8 true, refField bs 16 true, (16, refAligned (fieldOf bs 16 8) 64), (24, n.rows != 0),
   (28, 1 ≤ n.len && n.len ≤ 2 ^ 24)] ++ convChecks 32 (fieldOf bs 32 2) n.stats
    ++ [(33, n.conv.rnd != 2), (34, n.kind != 3), reservedBits bs 34 4 4] ++ reservedBytes bs 35 1
    ++ [(36, finiteNonneg n.eps), (if n.affine then refField bs 40 true else refMaybe bs 40),
        (48, if g then n.chans != 0 && n.len % n.chans == 0 else n.chans == 0),
        (50, if g then n.groups != 0 && n.chans % n.groups == 0 else n.groups == 0)]
    ++ sfuCtlChecks 52 n.ctl true (s.slotAssigned ctx)
    ++ [refField bs 56 n.stats, (56, refAligned n.statref 64)]

/-- Affine values: C of γ, then C of β except for RMSNorm. -/
def NormDesc.c (n : NormDesc) : Nat := if n.kind = 2 then n.chans else n.len
/-- Bytes of AFF; an RMSNorm's holds γ alone (DESIGN CHOICE, log 62). -/
def NormDesc.affBytes (n : NormDesc) : Nat := if n.affine then 4 * n.c * (if n.kind = 1 then 1 else 2) else 0
/-- Statistics per row. -/
def NormDesc.perRow (n : NormDesc) : Nat := if n.kind = 2 then n.groups else 1
/-- Bytes of the statistics area. -/
def NormDesc.statBytes (n : NormDesc) : Nat := if n.stats then 8 * n.rows * n.perRow else 0
/-- Where the histogram slot begins past STATREF's OFFSET (R172). -/
def NormDesc.histOff (n : NormDesc) : Nat := 64 * ceilDiv n.statBytes 64
/-- Bytes from one row's start to the next: whole 64-byte units (DESIGN CHOICE, log 38). -/
def normPitch (fmt len : Nat) : Nat := rowUnits fmt len

/-- References of a NORM. -/
def normRefs (bs : List Byte) : List RefUse :=
  let n := normOf bs
  let sp := normPitch n.conv.src n.len
  let dp := normPitch n.conv.dst n.len
  [useRd 8 (fieldOf bs 8 8) (rowsExtent sp n.rows (elemBytes n.conv.src n.len)),
   useWr 16 (fieldOf bs 16 8) (rowsExtent dp n.rows (64 * dp)), useRd 40 n.aff n.affBytes,
   useWr 56 n.statref (if n.conv.hist then n.histOff + 320 else n.statBytes)]

/-- The element indices of each statistic of a row, in increasing order (R166, R171). -/
def NormDesc.members (n : NormDesc) : List (List Nat) :=
  if n.kind = 2 then
    (upTo n.groups).map (fun g => (upTo n.len).filter (fun e => e % n.chans * n.groups / n.chans == g))
  else [upTo n.len]

/-- The statistic of a row that an element uses. -/
def NormDesc.statIx (n : NormDesc) (e : Nat) : Nat := if n.kind = 2 then e % n.chans * n.groups / n.chans else 0

/-- One element of the apply pass (R170). -/
def NormDesc.apply (n : NormDesc) (mode : Rounding) (gam bet : List Nat) (st : Nat × Nat) (e x : Nat) : Flagged :=
  let c := if n.kind = 2 then e % n.chans else e
  let y := if n.kind = 1 then mulF mode x st.2 else andThen (subF mode x st.1) (fun d => mulF mode d st.2)
  let y := if n.affine then andThen y (fun y => mulF mode y (gam.getD c 0)) else y
  if n.affine && n.kind != 1 then andThen y (fun y => addF mode y (bet.getD c 0)) else y

/-- One row: the stored row, its statistics, the flags. -/
def NormDesc.row (n : NormDesc) (e : Epilogue) (gam bet : List Nat) (codes : List Nat) (sup dsup : List Byte)
    (y : Nat) : RowOut × List (Nat × Nat) × FlagSet :=
  let (xs, f₀) := sfuLoad e.env.mode n.conv codes sup
  let (sts, f₁) := mapFlags (fun ix => finishStat { e.env with frnd := 0 } (n.kind == 1) n.eps
    (ix.map (fun i => xs.getD i 0))) n.members
  let (vs, f₂) := mapFlags (fun q : Nat × Nat =>
    andThen (n.apply e.env.mode gam bet (sts.getD (n.statIx q.2) (0, 0)) q.2 q.1) e.actOn) xs.zipIdx
  let o := storeRow { n.conv with src := 0, sscale := false } true 0 y vs dsup
  (o, sts, f₀ ||| f₁ ||| f₂ ||| o.flags)

/-- NORM (R166 to R172). -/
def State.normWork (s : State) (x : Desc) : Work :=
  let n := normOf x.bytes
  let src := rowRuns (x.field 8 8) (normPitch n.conv.src n.len) n.rows (elemBytes n.conv.src n.len) false
  let dst := rowRuns (x.field 16 8) (normPitch n.conv.dst n.len) n.rows (64 * rowUnits n.conv.dst n.len) true
  let aff := rdRun n.aff 0 n.affBytes
  let stat := wrRun n.statref 0 n.statBytes
  let hist := wrRun n.statref n.histOff 320
  s.guarded x (src ++ dst ++ [aff, stat] ++ (if n.conv.hist then [hist] else [])) (fun _ =>
    let act := ctlAct n.ctl
    let e : Epilogue := { env := envOf n.ctl (s.recovering x.ctx), act := act, bias := none, scale := none,
                          image := s.actImage x.ctx act }
    let av := if n.affine then f32List (s.fetchRun s.store x aff) else []
    let rows := src.zipIdx.map (fun r =>
      n.row e (av.take n.c) (av.drop n.c) (unpack n.conv.src n.len (s.fetchRun s.store x r.1))
        (unplacedScales (s.scaleDraw 0) r.2 n.len) (n.conv.supplied (s.scaleDraw 1) r.2 n.len) r.2)
    let m := (rows.zip dst).foldl (fun m r => s.storeRun m x r.2 (padUnit (pack n.conv.dst r.1.1.codes))) s.store
    let m := if n.stats then
        s.storeRun m x stat (rows.flatMap (fun r => r.2.1.flatMap (fun t => natLe 4 t.1 ++ natLe 4 t.2)))
      else m
    let fl := orFlags (rows.map (fun r => r.1.flags))
    let m := if n.conv.hist then
        s.putHistAt m x hist (Hist.zero.countAll (rows.flatMap (fun r => r.1.stored))) n.conv.dst fl
      else m
    .done (recoveryStatus (s.recovering x.ctx) ([0x19, 0x11] ++ actUses act e.image)) 0
      (orFlags (rows.map (fun r => r.2.2))) m)

/-- NORM (R166 to R172). -/
def execNorm (c : RunCmd) (s : State) : Host.Outcome State Fault Refusal := .next (s.kernelDo c 0x05 State.normWork)

end Sys2Proof.Machine
end

