-- ==== Sys2Proof/Machine/Ranges.lean ====
section
/-!
DEFINITION. The Range Table: RANGE_SYNC, RANGE_RETIRE, ADVISE, range faults and the mirror sweep (R386 to R408).
-/

namespace Sys2Proof.Machine

/-! ### Mirror entries (R386, R387) -/

/-- The contents of a mirror entry; VAL is its state. -/
def mirrorEnt (bs : List Byte) : RangeEnt :=
  let t := byteOf bs 18
  { st := if bitOf t 6 then .valid else .invalid, was := .invalid, held := false,
    gen := BitVec.ofNat 16 (fieldOf bs 16 2), base := fieldOf bs 0 8, start := fieldOf bs 8 4, lenM1 := fieldOf bs 12 4,
    tier := bitsOf t 0 2, rd := bitOf t 2, wr := bitOf t 3, wt := bitOf t 4, res := bitOf t 5,
    part := bitsOf (byteOf bs 19) 0 3 }

/-- The mirror entry of a working entry, with its ECRC. -/
def mirrorBytes (e : RangeEnt) : List Byte :=
  let body := natLe 8 e.base ++ natLe 4 e.start ++ natLe 4 e.lenM1 ++ natLe 2 e.gen.toNat
    ++ natLe 1 (e.tier + 4 * e.rd.toNat + 8 * e.wr.toNat + 16 * e.wt.toNat + 32 * e.res.toNat
        + (if e.st = .invalid then 0 else 64))
    ++ natLe 1 e.part ++ natLe 8 0
  body ++ natLe 4 (crc32c body)

/-- The ECRC of a mirror entry holds. -/
def mirrorIntact (bs : List Byte) : Bool := fieldOf bs 28 4 == crc32c (blockBytes bs 0 28)

/-- An SS entry that R387 allows: local, resident, within bytes 1 MiB to 128 MiB. -/
def State.ssPlace (s : State) (base units : Nat) : Bool :=
  let a := base % 2 ^ 45
  s.localAddr base && 2 ^ 20 ≤ a && a + 4096 * units ≤ 2 ^ 27

/-- What R394 asks of one mirror or staging entry of a partition. -/
def State.mirrorOk (s : State) (part : Nat) (bs : List Byte) : Bool :=
  let e := mirrorEnt bs
  mirrorIntact bs && e.base % 4096 == 0 && e.base < 2 ^ 57 && e.start + e.lenM1 + 1 ≤ 2 ^ 32 && e.tier != 3
    && !bitOf (byteOf bs 18) 7 && bitsOf (byteOf bs 19) 3 5 == 0 && zeroField bs 20 8 && e.part == part
    && (!e.wt || s.localAddr e.base) && (e.tier != 2 || (s.ssPlace e.base (e.lenM1 + 1) && e.res))

/-- The mirror entry of a handle, as memory holds it. -/
def State.mirrorAt (s : State) (h : Nat) : List Byte := s.memAt (s.rangeBase + 32 * h) 32

/-- The working entry of a handle written to the mirror. -/
def State.putMirror (s : State) (h : Nat) : State := s.memPut (s.rangeBase + 32 * h) (mirrorBytes (s.range h))

/-- "Newer" (R394): 1 to 0x8000 generations on. -/
def newer (g old : BitVec 16) : Bool := let d := (g - old).toNat; 1 ≤ d && d ≤ 0x8000

/-- A handle that a partition's descriptors may name (R388): in the partition's handle range, and not in use by
another. -/
def State.ownsHandle (s : State) (part h : Nat) : Bool :=
  let p := s.part part
  p.hBase ≤ h && h ≤ p.hBase + p.hCntM1 && ((s.range h).st == .invalid || (s.range h).part == part)

/-- A handle of a Bolt pool's DATA, META or INDEX range (R226). -/
def State.boltRange (s : State) (h : Nat) : Bool := s.pools.any (fun p => p.2.live && p.2.handles.contains h)

/-! ### RANGE_SYNC (R393 to R395) -/

/-- Direct checks of a RANGE_SYNC, in byte order. -/
def rangeSyncChecks (bs : List Byte) : List (Nat × Bool) :=
  let isNew := bitOf (byteOf bs 8) 0
  let count := fieldOf bs 20 4
  [reservedBits bs 8 1 7] ++ reservedBytes bs 9 7 ++ [reservedBits bs 17 6 2] ++ reservedBytes bs 18 2
    ++ [(20, 1 ≤ count && count ≤ 16384)]
    ++ (if isNew then [refField bs 24 true, refField bs 32 true]
        else [(24, fieldOf bs 24 8 == 0), (32, fieldOf bs 32 8 == 0)])
    ++ reservedBytes bs 40 24

/-- References of a RANGE_SYNC. -/
def rangeSyncRefs (bs : List Byte) : List RefUse :=
  let count := fieldOf bs 20 4
  [useRd 24 (fieldOf bs 24 8) (32 * count), useWr 32 (fieldOf bs 32 8) (4 * count)]

/-- What the transition table of R394 makes of an entry. -/
inductive SyncKind where
  | keep | install | wait | res | refused
  deriving DecidableEq, Repr

/-- The table: working entry, mirror entry. -/
def syncKind (e m : RangeEnt) : SyncKind :=
  let same := decide ({ e with st := m.st, was := m.was, held := m.held, res := m.res } = m)
  if m.st = .invalid then (if e.st = .invalid then .keep else .refused)
  else if e.st = .valid then (if same then .res else .refused)
  else if !newer m.gen e.gen then .refused
  else if e.st = .retiring && !e.held then .wait
  else .install

/-- A fetched, undequeued descriptor holds a translation of a handle (R394). -/
def State.fetchedHolder (s : State) (h : Nat) : Bool :=
  s.descs.any (fun x => x.st == .fetched && x.trans.any (fun t => t.handle == h && !t.stale))

/-- An entry as a RANGE_SYNC UPDATE finds it now: applied, or left waiting (true): an install for the drain or, when
its GEN has wrapped, for older translations; a cleared RES for requests outstanding. None where it is refused. -/
def State.syncEntry (s : State) (h : Nat) : Option (State × Bool) :=
  let e := s.range h
  let m := mirrorEnt (s.mirrorAt h)
  match syncKind e m with
  | .refused => none
  | .keep => some (s, false)
  | .wait => some (s, true)
  | .install =>
    if m.gen.toNat < e.gen.toNat && s.fetchedHolder h then some (s, true) else some (s.setRange h m, false)
  | .res => some (s.setRange h { e with res := m.res }, !m.res && s.handleOuts h != 0)

/-- The handles an UPDATE names. -/
def syncHandles (bs : List Byte) : List Nat :=
  (upTo (fieldOf bs 20 4)).map (fun i => bitsOf (fieldOf bs 16 2) 0 14 + i)

/-- What an UPDATE still waits for, as it keeps it: handles to install, and with bit 15 handles whose cleared RES
waits for requests. -/
def keptHandles (kept : List Byte) : List Nat := (pieces 2 kept).map leNat

/-- One entry of an UPDATE performed: the state, what waits, and whether one was refused (R394). -/
def syncOne (part : Nat) (acc : State × List Nat × Bool) (h : Nat) : State × List Nat × Bool :=
  let s := acc.1
  if s.mirrorOk part (s.mirrorAt h) then
    match s.syncEntry h with
    | none => (s, acc.2.1, true)
    | some (t, true) =>
      (t, acc.2.1 ++ [if (s.range h).st = .valid then h + 2 ^ 15 else h], acc.2.2)
    | some (t, false) => (t, acc.2)
  else (s, acc.2.1, true)

/-- Entries of an UPDATE performed beside others that still wait; it completes when none waits, with RANGE_STALE
where one that waited is no longer allowed. -/
def State.syncMany (s : State) (x : Desc) (still hs : List Nat) : State :=
  let (s, waiting, stale) := hs.foldl (syncOne (s.partOf x)) (s, still, false)
  let x := { x with status := if stale then mergeStatus x.status 0x11 else x.status,
                    kept := waiting.flatMap (natLe 2) }
  if waiting.isEmpty then s.retire x 0 0 else s.setDesc x

/-- What an UPDATE keeps still waits: a drain that has not ended, or requests outstanding. -/
def State.stillWaits (s : State) (k : Nat) : Bool :=
  if 2 ^ 15 ≤ k then s.handleOuts (k - 2 ^ 15) != 0
  else (s.range k).st == .retiring && !(s.range k).held

/-- RANGE_SYNC UPDATE (R394): all entries are validated before any is changed; one that waits is judged again by a
later command of the descriptor, on the mirror entry read again. -/
def State.syncUpdate (s : State) (x : Desc) : State :=
  let part := s.partOf x
  let hs := syncHandles x.bytes
  if !x.kept.isEmpty then
    let ks := keptHandles x.kept
    s.syncMany x (ks.filter s.stillWaits) (ks.filter (fun k => k < 2 ^ 15 && !s.stillWaits k))
  else if !(hs.all (s.ownsHandle part)) then s.retire x 0x03 16
  else if !(hs.all (fun h => s.mirrorOk part (s.mirrorAt h)
      && syncKind (s.range h) (mirrorEnt (s.mirrorAt h)) != .refused)) then s.retire x 0x03 0xFFFF
  else s.syncMany x [] hs

/-- RANGE_SYNC_UPDATE (R394). -/
def execRangeSyncUpdate (d : Did) (s : State) : Host.Outcome State Fault Refusal :=
  .next (match s.running? d [0x40] with
    | some x => if bitOf (byteOf x.bytes 8) 0 then s else s.syncUpdate x
    | none => s)

/-- The lowest INVALID handle of `n` handles from `h` (R395, R399). -/
def State.lowestInvalid (s : State) : Nat → Nat → Option Nat
  | 0, _ => none
  | n + 1, h => if (s.range h).st = .invalid then some h else s.lowestInvalid n (h + 1)

/-- Staging entries installed in list order until no handle is free: the result words, and whether one found none
(R395). -/
def State.syncNew (s : State) (part : Nat) : List RangeEnt → State × List Byte × Bool
  | [] => (s, [], false)
  | m :: ms =>
    match s.lowestInvalid ((s.part part).hCntM1 + 1) (s.part part).hBase with
    | none => (s, (m :: ms).flatMap (fun _ => natLe 4 (0x04 * 2 ^ 24)), true)
    | some h =>
      let s := (s.setRange h { m with gen := (s.range h).gen + 1 }).putMirror h
      let (s, rs, full) := s.syncNew part ms
      (s, natLe 4 h ++ rs, full)

/-- RANGE_SYNC NEW performed. -/
def State.syncInstall (s : State) (x : Desc) : State :=
  let count := x.field 20 4
  let list := rdRun (x.field 24 8) 0 (32 * count)
  let result := wrRun (x.field 32 8) 0 (4 * count)
  match s.firstBad x [list, result] with
  | some (r, a) => s.concludeOwn x (workOfAcc r a)
  | none =>
    let es := pieces 32 (s.fetchRun s.store x list)
    if !(es.all (fun bs => s.mirrorOk (s.partOf x) bs && (mirrorEnt bs).st == .valid)) then
      s.retire x 0x03 0xFFFF
    else
      let (s, rs, full) := s.syncNew (s.partOf x) (es.map mirrorEnt)
      (s.withStore (s.storeRun s.store x result rs)).retire x (if full then 0x04 else 0) 0

/-- RANGE_SYNC_NEW (R395). -/
def execRangeSyncNew (d : Did) (s : State) : Host.Outcome State Fault Refusal :=
  .next (match s.running? d [0x40] with
    | some x => if bitOf (byteOf x.bytes 8) 0 then s.syncInstall x else s
    | none => s)

/-! ### RANGE_RETIRE (R396 to R399) -/

/-- HANDLE and GEN of a RANGE_RETIRE or ADVISE. -/
def Desc.handle (x : Desc) : Nat := bitsOf (x.field 16 2) 0 14
/-- GEN. -/
def Desc.gen (x : Desc) : BitVec 16 := BitVec.ofNat 16 (x.field 18 2)

/-- Direct checks of a RANGE_RETIRE, in byte order. -/
def rangeRetireChecks (bs : List Byte) : List (Nat × Bool) :=
  [reservedBits bs 8 1 7] ++ reservedBytes bs 9 7 ++ [reservedBits bs 17 6 2] ++ reservedBytes bs 20 44

/-- A fault's stream ended with a status: its descriptor retires and its kernel issues no more, or its loop ends (R377). -/
def State.endStream (s : State) (f : PFault) (status : Nat) : State :=
  match f.d with
  | none => s
  | some d => match s.desc? d, s.loopOf d with
    | some x, _ => (s.stopKernel x).retire x status 0
    | none, some n => ((s.noteLoop n status).cutLoop n).1
    | none, none => s

/-- Step 1 of R397: the entry becomes RETIRING, its halted streams end, and the descriptor waits. -/
def State.retireBegin (s : State) (x : Desc) : State :=
  let e := s.range x.handle
  let s := s.setRange x.handle { e with st := .retiring, was := e.st, held := e.st == .retiring && e.held }
  let s := (s.faults.filter (fun f => f.handle == x.handle && f.reason == 0)).foldl
    (fun s f => s.endStream f 0x11) s
  s.setDesc { x with st := .prepared }

/-- Step 3 of R397: each translation of the handle in a fetched descriptor is marked. -/
def State.markStale (s : State) (h : Nat) : State :=
  { s with descs := s.descs.map (fun y =>
      if y.st = .fetched then
        { y with trans := y.trans.map (fun t => if t.handle = h then { t with stale := true } else t) }
      else y) }

/-- An entry that a retire may take (R396); one held under HOLD may be retired again with END (R398). -/
def State.retirable (s : State) (x : Desc) : Bool :=
  let e := s.range x.handle
  e.gen == x.gen && (e.st == .valid || e.st == .quarantined
    || (e.st == .retiring && e.held && x.opcode == 0x41 && !bitOf (byteOf x.bytes 8) 0))

/-- RANGE_RETIRE (R396, R397 steps 1 and 2): RANGE_STALE comes before BAD_DESC (R466). -/
def execRangeRetire (d : Did) (s : State) : Host.Outcome State Fault Refusal :=
  .next (match s.running? d [0x41] with
    | some x =>
      if !s.retirable x then s.retire x 0x11 0
      else if !s.ownsHandle (s.partOf x) x.handle || s.boltRange x.handle then s.retire x 0x03 16
      else s.retireBegin x
    | none => s)

/-! ### ADVISE (R402 to R405) -/

/-- OP of an ADVISE. -/
def adviseOp (bs : List Byte) : Nat := bitsOf (byteOf bs 8) 0 2

/-- Direct checks of an ADVISE, in byte order. -/
def adviseChecks (bs : List Byte) : List (Nat × Bool) :=
  let op := adviseOp bs
  let dest := fieldOf bs 24 8
  let tier := bitsOf (byteOf bs 32) 0 2
  [reservedBits bs 8 2 6, reservedBits bs 9 2 6,
   (10, fieldOf bs 10 2 == 0 || (op == 3 && !bitOf (byteOf bs 9) 1))] ++ reservedBytes bs 12 4
    ++ [reservedBits bs 17 6 2,
        (20, op == 3 || newer (BitVec.ofNat 16 (fieldOf bs 20 2)) (BitVec.ofNat 16 (fieldOf bs 18 2)))]
    ++ reservedBytes bs 22 2
    ++ [(24, if op = 3 then dest == 0 else decide (dest % 4096 = 0 ∧ dest < 2 ^ 57)),
        (32, if op = 3 then true else if op = 1 then tier == 1 else tier == 0 || tier == 2),
        reservedBits bs 32 2 6] ++ reservedBytes bs 33 31

/-- DEST of an ADVISE that moves a range is a place its tier and permissions allow (R386, R387). -/
def State.destOk (s : State) (x : Desc) : Bool :=
  let e := s.range x.handle
  let dest := x.field 24 8
  (bitsOf (byteOf x.bytes 32) 0 2 != 2 || s.ssPlace dest (e.lenM1 + 1)) && (!e.wt || s.localAddr dest)

/-- A damaged SS row of the range that a move would read (R322, R485). -/
def State.moveLost (s : State) (x : Desc) : Option Nat :=
  let e := s.range x.handle
  s.poisonedAt e.tier e.base (4096 * (e.lenM1 + 1))

/-- The range copied to DEST, and its entry installed there under NEWGEN and written to the mirror (R404 steps 2 to
4). -/
def State.moveRange (s : State) (x : Desc) : State :=
  let e := s.range x.handle
  let dest := x.field 24 8
  let tier := bitsOf (byteOf x.bytes 32) 0 2
  let bytes := s.store.read e.tier e.base (4096 * (e.lenM1 + 1))
  let s := s.withStore (s.store.write tier dest bytes)
  let s := s.setRange x.handle
    { e with st := .valid, was := .invalid, held := false, base := dest, tier := tier, res := true,
             gen := BitVec.ofNat 16 (x.field 20 2) }
  s.putMirror x.handle

/-- The drain phase of a retire or of the retire in an ADVISE, and what follows it (R397 steps 3 to 5, R404). -/
def State.drainPhase (s : State) (x : Desc) : State :=
  let e := s.range x.handle
  if e.st != .retiring || e.gen != x.gen then s.retire x 0x11 0
  else
    let s := s.markStale x.handle
    if x.opcode = 0x42 then (match s.moveLost x with
      | some row => (s.unretire x).rowLost x row
      | none => (s.moveRange x).retire x 0 0)
    else if bitOf (byteOf x.bytes 8) 0 then (s.setRange x.handle { e with held := true }).retire x 0 0
    else (s.setRange x.handle { e with st := .invalid, was := .invalid, held := false }).retire x 0 0

/-- A prepared descriptor whose drain phase may begin: the use count of its generation is zero. -/
def State.drainable? (s : State) (d : Did) : Option Desc :=
  match s.desc? d with
  | some x =>
    if x.st == .prepared && s.serving && (x.opcode == 0x41 || (x.opcode == 0x42 && adviseOp x.bytes ≤ 1))
        && s.useCount x.handle x.gen == 0 then some x
    else none
  | none => none

/-- RETIRE_DRAIN_PHASE (R397). -/
def execRetireDrainPhase (d : Did) (s : State) : Host.Outcome State Fault Refusal :=
  .next (match s.drainable? d with
    | some x => s.drainPhase x
    | none => s)

/-- What ends an ADVISE that moves a range before anything changes: status and DETAIL, RANGE_STALE first (R388, R403, R405,
R466). -/
def State.adviseRefused (s : State) (x : Desc) : Option (Nat × Nat) :=
  let e := s.range x.handle
  let pre := adviseOp x.bytes == 2
  if e.gen != x.gen || !(e.st == .valid || (e.st == .quarantined && !pre)) then some (0x11, 0)
  else if !s.ownsHandle (s.partOf x) x.handle || s.boltRange x.handle then some (0x03, 16)
  else if !e.res || (pre && e.wr) then some (0x03, 16)
  else if !s.destOk x then some (0x03, 24)
  else none

/-- RESIDE and DEMOTE (R404): the retire begins, and where no use is left the move follows at once. -/
def State.adviseMove (s : State) (d : Did) (op : Nat) : State :=
  match s.running? d [0x42] with
  | some x =>
    if adviseOp x.bytes != op then s
    else match s.adviseRefused x with
      | some (st, det) => s.retire x st det
      | none =>
        let s := s.retireBegin x
        match s.drainable? d with
        | some x => s.drainPhase x
        | none => s
  | none => s

/-- ADVISE_RESIDE (R404). -/
def execAdviseReside (d : Did) (s : State) : Host.Outcome State Fault Refusal := .next (s.adviseMove d 0)

/-- ADVISE_DEMOTE (R404). -/
def execAdviseDemote (d : Did) (s : State) : Host.Outcome State Fault Refusal := .next (s.adviseMove d 1)

/-- ADVISE_PREFETCH (R405): the copy and the install at once; the record waits for the old generation. -/
def execAdvisePrefetch (d : Did) (s : State) : Host.Outcome State Fault Refusal :=
  .next (match s.running? d [0x42] with
    | some x =>
      if adviseOp x.bytes != 2 then s
      else match s.adviseRefused x with
        | some (st, det) => s.retire x st det
        | none => match s.moveLost x with
          | some row => s.rowLost x row
          | none => (s.moveRange x).setDesc { x with st := .prepared }
    | none => s)

/-- PREFETCH_OLD_GEN_DRAINED (R405). -/
def execPrefetchOldGenDrained (d : Did) (s : State) : Host.Outcome State Fault Refusal :=
  .next (match s.desc? d with
    | some x =>
      if x.st == .prepared && x.opcode == 0x42 && adviseOp x.bytes == 2 && s.serving
          && s.useCount x.handle x.gen == 0 then s.retire x 0 0
      else s
    | none => s)

/-! ### The mirror sweep (R406, R407) -/

/-- A fetched, unfinished RANGE_SYNC, RANGE_RETIRE or ADVISE names a handle (R406). -/
def namesHandle (x : Desc) (h : Nat) : Bool :=
  if x.opcode = 0x40 then !bitOf (byteOf x.bytes 8) 0 && (syncHandles x.bytes).contains h
  else (x.opcode == 0x41 || x.opcode == 0x42) && x.handle == h

/-- What one compare of a VALID entry finds: 0 nothing, 1 a mirror entry that fails its ECRC, else a number that
tells one difference from another. -/
def State.sweepFinds (s : State) (h : Nat) : Nat :=
  let e := s.range h
  let bs := s.mirrorAt h
  if e.st != .valid || s.descs.any (fun x => namesHandle x h) then 0
  else if !mirrorIntact bs then 1
  else if fieldOf bs 16 2 != e.gen.toNat || bs == mirrorBytes e then 0
  else 2 + leNat (bs ++ mirrorBytes e)

/-- An entry quarantined: fault record and log entry (R407). -/
def State.quarantineRange (s : State) (h reason : Nat) : State :=
  let e := s.range h
  let f : PFault :=
    { id := none, core := none, part := e.part, handle := h, gen := e.gen, reason := reason, isWrite := false, offset := 0,
      ctx := 0xFFFF, tag := 0, d := none }
  let s := s.setRange h { e with st := .quarantined }
  ({ s with faults := s.faults ++ [f] }).logEvent 0x0A 2 8 0 (h + reason * 2 ^ 16)

/-- One compare of the sweep (R406, R407). -/
def State.sweepOne (s : State) (h : Nat) : State :=
  let now := s.sweepFinds h
  let was := getAt 0 s.sweep h
  let s := { s with sweep := putAt 0 s.sweep h now }
  if now != 0 && now == was then s.quarantineRange h (if now = 1 then 2 else 1) else s

/-- A working entry whose SS row failed its code (R481, R498): reloaded from an intact mirror entry of its generation, or
quarantined. The log names the entry by its handle (DESIGN CHOICE, log 57). -/
def State.reloadEntry (s : State) (h : Nat) : State :=
  let e := s.range h
  let bs := s.mirrorAt h
  if e.st = .invalid then s
  else if mirrorIntact bs && fieldOf bs 16 2 == e.gen.toNat then
    let m := mirrorEnt bs
    ((s.setRange h { m with st := e.st, was := e.was, held := e.held }).logEvent 0x01 1 8 0 h).noteRepeat 0x01 8 0 h
  else s.quarantineRange h 2

/-- MIRROR_SWEEP (R406, R407): `r.damaged` where the working entry's SS row fails its code as the sweep reads it. -/
def execMirrorSweep (r : SweepRead) (s : State) : Host.Outcome State Fault Refusal :=
  .next (
    if r.handle < Config.rangeEntries && s.serving then if r.damaged then s.reloadEntry r.handle else s.sweepOne r.handle else s)

end Sys2Proof.Machine
end

