-- ==== Sys2Proof/Machine/Tables.lean ====
section
/-!
DEFINITION. Micro-program slots and seed tables: TABLE_LOAD, TABLE_SWAP and firmware's reload (R161 to R164, R174 to
R179).
-/

namespace Sys2Proof.Machine

/-- What CORE_MASK must satisfy: every named core belongs to a cluster of the context (R175). -/
def State.coreMaskChecks (s : State) (ctx off mask : Nat) : List (Nat × Bool) :=
  (maskOnes mask 32).map (fun c => (off + c / 8, (s.ctxCores ctx).contains c))

/-- Direct checks of a TABLE_LOAD, in byte order. -/
def State.tableLoadChecks (s : State) (ctx : Nat) (bs : List Byte) : List (Nat × Bool) :=
  [refField bs 8 true, (8, refAligned (fieldOf bs 8 8) 64)] ++ s.coreMaskChecks ctx 16 (fieldOf bs 16 4)
    ++ [reservedBits bs 20 6 2, (21, bitsOf (byteOf bs 21) 0 2 == 2), reservedBits bs 21 2 6] ++ reservedBytes bs 22 2
    ++ reservedBytes bs 28 36

/-- References of a TABLE_LOAD. -/
def tableLoadRefs (bs : List Byte) : List RefUse := [useRd 8 (fieldOf bs 8 8) 256]

/-- Direct checks of a TABLE_SWAP, in byte order. -/
def State.tableSwapChecks (s : State) (ctx : Nat) (bs : List Byte) : List (Nat × Bool) :=
  s.coreMaskChecks ctx 16 (fieldOf bs 16 4) ++ reservedBytes bs 20 44

/-- A slot that a context may load on a core: the loader assigned it to the context on the core's cluster (R161). -/
def State.slotMine (s : State) (ctx c slot : Nat) : Bool := ((s.core c).uprog slot).ctx == some ctx

/-- Slot `slot` of core `c` made `u`. -/
def State.setUprog (s : State) (c slot : Nat) (u : UProg) : State :=
  let k := s.core c
  s.setCore c { k with uprogs := putAt UProg.reset k.uprogs slot u }

/-- An image written to the inactive bank of a slot. -/
def State.loadSlot (s : State) (slot : Nat) (img : List Byte) (c : Nat) : State :=
  let u := (s.core c).uprog slot
  let u := if u.active then { u with bank0 := img } else { u with bank1 := img }
  s.setUprog c slot { u with loaded := true }

/-- An earlier TABLE_SWAP of a slot has not completed (R178). -/
def State.swapPending (s : State) (x : Desc) (slot : Nat) : Bool :=
  s.descs.any (fun y => y.ctx == x.ctx && y.opcode == 0x59 && y.dequeued && y.order < x.order
    && (y.field 8 8).testBit slot)

/-- A TABLE_LOAD performed (R175). -/
def State.tableLoad (s : State) (x : Desc) : State :=
  let slot := bitsOf (byteOf x.bytes 20) 0 6
  let cs := maskOnes (x.field 16 4) 32
  let r := rdRun (x.field 8 8) 0 256
  if s.swapPending x slot then s
  else match s.firstBad x [r] with
    | some (r, a) => s.concludeOwn x (workOfAcc r a)
    | none =>
      let img := s.fetchRun s.store x r
      if !(cs.all (fun c => s.slotMine x.ctx c slot)) then s.retire x 0x03 20
      else if crc32c img != x.field 24 4 || !microImageOk img then s.retire x 0x03 0xFFFF
      else (cs.foldl (State.loadSlot · slot img) s).retire x 0 0

/-- TABLE_LOAD (R175). -/
def execTableLoad (d : Did) (s : State) : Host.Outcome State Fault Refusal :=
  .next (match s.running? d [0x58] with
    | some x => s.tableLoad x
    | none => s)

/-- An earlier TABLE_SWAP of a slot of a core has yet to flip it: the load that it found is its own (R176). -/
def State.flipTaken (s : State) (x : Desc) (slot c : Nat) : Bool :=
  s.descs.any (fun y => y.ctx == x.ctx && y.opcode == 0x59 && y.st == .prepared && y.order < x.order
    && (y.field 8 8).testBit slot && (y.field 16 4).testBit c && !y.prog.testBit c)

/-- A slot that a context may swap on a core (R176). -/
def State.slotReady (s : State) (x : Desc) (slot c : Nat) : Bool :=
  let u := (s.core c).uprog slot
  u.ctx == some x.ctx && u.loaded && !s.flipTaken x slot c

/-- A TABLE_LOAD before a TABLE_SWAP in ring order that loads one of its slots and has not completed (R178). -/
def State.loadPending (s : State) (x : Desc) : Bool :=
  s.descs.any (fun y => y.ctx == x.ctx && y.opcode == 0x58 && y.dequeued && y.order < x.order
    && (x.field 8 8).testBit (bitsOf (byteOf y.bytes 20) 0 6))

/-- TABLE_SWAP (R176): validated as a whole, then it waits for the kernel boundary. -/
def execTableSwap (d : Did) (s : State) : Host.Outcome State Fault Refusal :=
  .next (match s.running? d [0x59] with
    | some x =>
      let cs := maskOnes (x.field 16 4) 32
      if s.loadPending x then s
      else match (maskOnes (x.field 8 8) 64).find? (fun k => !(cs.all (s.slotReady x k))) with
        | some k => s.retire x 0x03 (8 + k / 8)
        | none => s.setDesc { x with st := .prepared }
    | none => s)

/-- A slot's banks exchanged on a core (R176). -/
def State.flipSlot (s : State) (c slot : Nat) : State :=
  let u := (s.core c).uprog slot
  s.setUprog c slot { u with active := !u.active, loaded := false }

/-- SEED_TABLE_RELOAD (R149, R179): a core between kernels is at its boundary. -/
def execSeedTableReload (core fn : Nat) (s : State) : Host.Outcome State Fault Refusal :=
  .next (
    let k := s.core core
    if core < 32 && s.serving && (k.seedTab fn).recovery then
      let k := { k with seeds := putAt SeedTab.reset k.seeds fn { k.seedTab fn with loaded := true } }
      s.setCore core (if k.ctx = none then k.flipSeeds else k)
    else s)

end Sys2Proof.Machine
end

