-- ==== Sys2Proof/Machine/Fetch.lean ====
section
/-!
DEFINITION. What fetch checks of a descriptor of any opcode, and translation at submission (R384, R388 to R391,
R456).
-/

namespace Sys2Proof.Machine

/-- Direct checks of a LOOP, in byte order (R268, R269). -/
def loopChecks (bs : List Byte) : List (Nat × Bool) :=
  [refField bs 8 true, (8, refAligned (fieldOf bs 8 8) 64)] ++ reservedBytes bs 16 48

/-- Direct checks of a FENCE, in byte order (R459). -/
def fenceChecks (bs : List Byte) : List (Nat × Bool) := [reservedBits bs 8 1 7] ++ reservedBytes bs 9 55

/-- MODE CONTEXT of an ABORT (R475). -/
def abortContext (bs : List Byte) : Bool := bitOf (byteOf bs 8) 0
/-- RING of an ABORT. -/
def abortRing (bs : List Byte) : Nat := bitsOf (byteOf bs 9) 0 6
/-- CTXT of an ABORT. -/
def abortCtx (bs : List Byte) : Nat := fieldOf bs 10 2
/-- The target that an ABORT of mode ONE names. -/
def abortTarget (bs : List Byte) : Did := { ring := abortRing bs, index := BitVec.ofNat 32 (fieldOf bs 12 4) }

/-- Direct checks of an ABORT of a partition, in byte order (R475). -/
def State.abortChecks (s : State) (part : Nat) (bs : List Byte) : List (Nat × Bool) :=
  [reservedBits bs 8 1 7, reservedBits bs 9 6 2,
   (9, abortContext bs || (s.ctx (s.sub (abortRing bs)).ctx).part == part),
   (10, !abortContext bs || (abortCtx bs < 32 && (s.ctx (abortCtx bs)).part == part))] ++ reservedBytes bs 16 48

/-- The checks of a descriptor proper beyond its header, in byte order (R456). -/
def State.opChecks (s : State) (ctx : Nat) (bs : List Byte) : List (Nat × Bool) :=
  match byteOf bs 0 with
  | 0x00 => reservedBytes bs 8 56
  | 0x01 => attnFwdChecks bs
  | 0x02 => attnBwdChecks bs
  | 0x03 | 0x04 => matChecks bs
  | 0x05 => s.normChecks ctx bs
  | 0x06 => s.mapChecks ctx bs
  | 0x07 => mergeChecks bs
  | 0x10 | 0x11 | 0x12 => copyChecks bs
  | 0x20 => boltStepChecks bs
  | 0x21 => boltCommitChecks bs
  | 0x22 => boltMigrateChecks bs
  | 0x23 => boltPoolChecks bs
  | 0x30 => s.collChecks ctx bs
  | 0x38 => crcChecks bs
  | 0x40 => rangeSyncChecks bs
  | 0x41 => rangeRetireChecks bs
  | 0x42 => adviseChecks bs
  | 0x48 => s.semOpChecks ctx bs
  | 0x50 => loopChecks bs
  | 0x58 => s.tableLoadChecks ctx bs
  | 0x59 => s.tableSwapChecks ctx bs
  | 0x60 => fenceChecks bs
  | 0x7E => s.abortChecks (s.ctx ctx).part bs
  | _ => []

/-- The references of a descriptor and of the parameter blocks it names (R390). -/
def State.opRefs (s : State) (bs : List Byte) : List RefUse :=
  match byteOf bs 0 with
  | 0x01 => s.attnFwdRefs bs
  | 0x02 => s.attnBwdRefs bs
  | 0x03 | 0x04 => s.matRefs bs
  | 0x05 => normRefs bs
  | 0x06 => mapRefs bs
  | 0x07 => mergeRefs bs
  | 0x10 | 0x11 | 0x12 => s.copyRefs bs
  | 0x20 => boltStepRefs bs
  | 0x21 => boltCommitRefs bs
  | 0x22 => s.boltMigrateRefs bs
  | 0x23 => boltPoolRefs bs
  | 0x30 => s.collRefs bs
  | 0x38 => crcRefs bs
  | 0x40 => rangeSyncRefs bs
  | 0x50 => [useRd 8 (fieldOf bs 8 8) 128]
  | 0x58 => tableLoadRefs bs
  | _ => []

/-! ### Translation (R390, R391) -/

/-- The parameter block of an attention descriptor, read once (R183): at dequeue, or as it becomes resident (R377). -/
def State.takeBlock (s : State) (x : Desc) : Desc :=
  let r := rdRun (x.field 8 8) 0 128
  if (x.opcode = 0x01 ∨ x.opcode = 0x02) && x.kept.isEmpty && (s.firstBad x [r]).isNone then
    { x with kept := s.fetchRun s.store x r }
  else x

/-- The views that a descriptor takes once the block and list that name its sequences can be read: at dequeue, or as they
become resident (R254, R377). -/
def State.takeViews (s : State) (x : Desc) : Desc :=
  let x := s.takeBlock x
  if !x.views.isEmpty || !x.skipped.isEmpty then x
  else match x.opcode with
    | 0x01 => { x with views := (s.attnViews x).1, skipped := (s.attnViews x).2 }
    | 0x03 | 0x04 => { x with views := ((s.listSeqs x).filter (fun n => (s.seqn n).st == .live)).map s.viewOf }
    | _ => x

/-- A dequeued descriptor with its views, whose entries the cache holds as it takes them and whose READERS it raises (R240,
R254). -/
def State.openDesc (s : State) (x : Desc) : State :=
  let ns := (s.takeViews x).views.map View.seq
  let s := s.cacheSeqs ns
  let (x, s) := s.markClash (s.takeViews x)
  (s.setDesc x).dirtySeqs (x.views.map View.seq)

/-- The cache has room for the entries whose views a descriptor takes, one at a time (R240). -/
def State.viewRoom (s : State) (x : Desc) : Bool :=
  (s.takeViews x).views.all (fun w => s.seqCache.contains w.seq) || s.cacheRoom 1

/-- What resolving a descriptor's references gives: the translations, whether an entry is not in use or
quarantined, and whether a reference fails by its owner, bounds or permissions. -/
structure Resolved where
  trans : List Trans
  stale : Bool
  bad : Bool
  deriving DecidableEq, Repr

/-- A reference that fails. -/
def Resolved.fail (r : Resolved) : Resolved := { r with bad := true }

/-- A translation kept: in place of a marked one of its handle, or beside the others. -/
def keepTrans (ts : List Trans) (t : Trans) : List Trans := ts.filter (fun u => u.handle != t.handle) ++ [t]

/-- One reference resolved (R384, R388, R390, R391): a cached translation of the entry's generation is used, a VALID
entry is resolved, and a RETIRING one waits, marked for resolution at dequeue. -/
def State.resolveUse (s : State) (part : Nat) (r : Resolved) (u : RefUse) : Resolved :=
  if u.ref = 0 || !refOk u.ref then r
  else
    let h := refHandle u.ref
    let e := s.range h
    let t := match r.trans.find? (fun t => t.handle == h && !t.stale && t.gen == e.gen && e.st == .valid) with
      | some t => t
      | none => transOf h e
    if !s.ownsHandle part h then r.fail
    else match e.st with
      | .invalid | .quarantined => { r with stale := true }
      | .retiring => { r with trans := keepTrans r.trans { t with stale := true } }
      | .valid =>
        let r := { r with trans := keepTrans r.trans t }
        if t.covers (refOffset u.ref) u.len && (!u.rd || t.rd) && (!u.wr || t.wr) then r else r.fail

/-- A reference whose bytes can be read now. -/
def State.readableRef (s : State) (u : RefUse) : Bool :=
  let e := s.range (refHandle u.ref)
  u.ref == 0 || !u.rd || (e.st == .valid && e.res && e.rd && (transOf 0 e).covers (refOffset u.ref) u.len)

/-- Byte offsets of a descriptor's references to its parameter blocks, which hold further references (R390). -/
def blockFields : Nat → List Nat
  | 0x01 | 0x03 | 0x04 | 0x10 | 0x11 | 0x12 => [8]
  | 0x02 => [8, 16]
  | _ => []

/-- The references that can be resolved now: those that the blocks hold only where the blocks can be read. -/
def State.liveUses (s : State) (bs : List Byte) : List RefUse :=
  let us := s.opRefs bs
  let own := us.filter (fun u => u.pos != 0xFFFF)
  if (own.filter (fun u => (blockFields (byteOf bs 0)).contains u.pos)).all s.readableRef then us else own

/-- The handles that a descriptor names, by its translations and by what its blocks hold now (R391, R398). -/
def State.namedHandles (s : State) (x : Desc) : List Nat :=
  x.trans.map Trans.handle ++ ((s.liveUses x.bytes).filter (fun u => u.ref != 0 && refOk u.ref)).map (fun u => refHandle u.ref)

/-- A reference to a range of a pool in a descriptor that is no Bolt operation fails (R226; BAD_DESC for the opcodes that R226
does not name: DEDUCED, log 30). -/
def State.boltNamed (s : State) (bs : List Byte) (us : List RefUse) : Bool :=
  !(decide (0x20 ≤ byteOf bs 0) && decide (byteOf bs 0 ≤ 0x23)) && us.any (fun u => s.boltHandle u.ref)

/-- Every reference of a descriptor resolved, beside the translations it has. -/
def State.resolveAll (s : State) (part : Nat) (ts : List Trans) (bs : List Byte) : Resolved :=
  (s.liveUses bs).foldl (s.resolveUse part) { trans := ts, stale := false, bad := s.boltNamed bs (s.liveUses bs) }

/-- The references of a running descriptor whose handles it does not hold yet, resolved beside those it holds: what it
reads of a block only once the block is resident (R377, R390). -/
def State.resolveMissing (s : State) (part : Nat) (ts : List Trans) (bs : List Byte) : Resolved :=
  ((s.liveUses bs).filter (fun u => !(ts.any (fun t => t.handle == refHandle u.ref)))).foldl (s.resolveUse part)
    { trans := ts, stale := false, bad := s.boltNamed bs (s.liveUses bs) }

/-- The status and DETAIL that failed references give a descriptor, RANGE_STALE first (R390, R466). What a range allows
is no single field of the descriptor (R464; DEDUCED, log 30). -/
def Resolved.status (r : Resolved) : Option (Nat × Nat) :=
  if r.stale then some (0x11, 0)
  else if r.bad then some (0x03, 0xFFFF)
  else none

end Sys2Proof.Machine
end

