-- ==== Sys2Proof/Machine/Tiles.lean ====
section
/-!
DEFINITION. The shapes of array passes and the tiles that firmware chooses (R87, R99, R100, R189, R342, R344, R345).
-/

namespace Sys2Proof.Machine

/-- Strip depth, strips, operands per cell along the contraction and along the outputs (R83, R87, R99). -/
structure Geom where
  depth : Nat
  strips : Nat
  vk : Nat
  vn : Nat
  deriving DecidableEq, Repr

/-- The geometry of a pass: none for a pairing that its shape or its width class does not allow (R87, R99, R101). -/
def geomOf (shape pair cls : Nat) : Option Geom :=
  let v := if cls = 8 then 2 else 4
  let depth := if shape = 0 then 128 else if shape = 2 then 16 else 32
  let strips := if shape = 1 then 4 else if shape = 2 then 8 else 1
  if cls = 16 then (if pair = 0 && shape != 2 then some { depth := depth, strips := strips, vk := 1, vn := 1 } else none)
  else if pair = 1 && (shape != 3 || cls == 8) then some { depth := depth, strips := strips, vk := v, vn := 1 }
  else if pair = 2 && shape ≤ 1 then some { depth := depth, strips := strips, vk := 1, vn := v }
  else none

/-- Contraction operands of a weft row. -/
def Geom.k (g : Geom) : Nat := g.depth * g.vk
/-- Output slices (R99). -/
def Geom.slices (g : Geom) : Nat := g.strips * g.vn

/-- The tile of a product (R342): passes of a shape and a pairing, as PASS codes them (R333), or the MVP. T128x128x128 and
T256x128x64 are both FULL: `half` tells the second. -/
inductive Tile where
  | pass (shape pair : Nat) (half : Bool)
  | mvp
  deriving DecidableEq, Repr

/-- The pairings that the rule tries for a shape, in its order (R344). -/
def pairings (shape cls pair : Nat) : List Nat :=
  let ps := if cls = 16 then [0] else if pair = 1 then [1] else if pair = 2 then [2] else [1, 2]
  if shape = 2 then ps.filter (· == 1) else ps

/-- Weft rows of the tile of a shape (R342). -/
def tileRows (shape : Nat) (half : Bool) : Nat :=
  if shape = 0 then (if half then 256 else 128) else if shape = 1 then 64 else 16

/-- U of R100 for a shape's tile as a fraction: numerator and denominator. -/
def utilisation (m n k : Nat) (z6 : Bool) (shape : Nat) (half : Bool) (g : Geom) : Nat × Nat :=
  let l := if z6 then 128 else 64
  let pn := 128 * g.slices
  (min l (min m (tileRows shape half)) * k * n, l * (g.k * ceilDiv k g.k) * (pn * ceilDiv n pn))

/-- The candidates of the rule in its order, each with its U (R344). -/
def candidates (m n k cls : Nat) (z6 : Bool) (pair : Nat) : List (Tile × Nat × Nat) :=
  (if m ≤ 16 && cls != 16 then [2, 0, 1] else [0, 1]).flatMap (fun shape =>
    (pairings shape cls pair).filterMap (fun pr => (geomOf shape pr cls).map (fun g =>
      let half := shape == 0 && decide (2 * k ≤ g.k)
      (.pass shape pr half, utilisation m n k z6 shape half g))))

/-- The first candidate of the largest U (R344). -/
def bestTile : List (Tile × Nat × Nat) → Option (Tile × Nat × Nat)
  | [] => none
  | c :: cs => match bestTile cs with
    | some d => if c.2.1 * d.2.2 < d.2.1 * c.2.2 then some d else some c
    | none => some c

/-- The tile of a GEMM or CONV (R344): twill mode where it can run, the MVP for a thin product, else the best shape. -/
def MatParams.tile (p : MatParams) (conv : Bool) : Option Tile :=
  let cls := max (widthClass p.ca.dst) (widthClass p.cb.dst)
  if conv && p.twill then some (.pass 3 (if cls = 16 then 0 else 1) false)
  else if p.m ≤ 4 && bitOf p.actl 2 then some .mvp
  else (bestTile (candidates p.m p.n (p.depth conv) cls (p.cb.dst == 5) (bitsOf p.actl 0 2))).map Prod.fst

/-- The tile of the QK product, or of the PV product, of a forward attention over some query lengths (R189, R345). -/
def AttnP.passTile (p : AttnP) (qlens : List Nat) (pv : Bool) : Tile :=
  let t := p.tile qlens
  let cls := if pv then max (widthClass p.pfmt) (widthClass p.vc.dst) else max (widthClass p.qc.dst) (widthClass p.kc.dst)
  if t.mvp then .mvp
  else if pv then .pass 0 (if cls = 16 then 0 else 1) false
  else if t.r = 16 then (if cls = 16 then .pass 1 0 false else .pass 2 1 false)
  else .pass 0 (if cls = 16 then 0 else 2) false

end Sys2Proof.Machine
end

