-- ==== Sys2Proof/Machine/Kernel.lean ====
section
/-!
DEFINITION. A kernel on its cores: plans, areas and bank maps, KERNEL_START and KERNEL_END, and what the Piste
sequencer evaluates itself (R26 to R31, R81, R133, R296 to R304, R311, R315, R325, R326, R329 to R338, R375).
-/

namespace Sys2Proof.Machine

/-! ### The plan (R298, R304, R346) -/

/-- RDOWN of relative bank `b`. -/
def planRd (p : CorePlan) (b : Nat) : Nat := bitsOf (byteOf p.bankMap (2 * b)) 0 4
/-- WROWN of relative bank `b`. -/
def planWr (p : CorePlan) (b : Nat) : Nat := bitsOf (byteOf p.bankMap (2 * b)) 4 4
/-- CLASS of relative bank `b`: weight. -/
def planWeight (p : CorePlan) (b : Nat) : Bool := bitOf (byteOf p.bankMap (2 * b + 1)) 0
/-- PD of relative bank `b`. -/
def planPd (p : CorePlan) (b : Nat) : Bool := bitOf (byteOf p.bankMap (2 * b + 1)) 1

/-- A bank map that R298 and R299 allow for an area of `n` banks. -/
def bankMapOk (p : CorePlan) (n : Nat) : Bool :=
  (upTo 16).all (fun b =>
    if n ≤ b then fieldOf p.bankMap (2 * b) 2 == 0
    else planRd p b ≤ 6 && planWr p b ≤ 3 && bitsOf (byteOf p.bankMap (2 * b + 1)) 2 6 == 0
      && (!planPd p b || (planRd p b == 0 && planWr p b == 0)))

/-- Read codes that the banks of a region may grant, by KIND (R304). -/
def regionReaders : Nat → List Nat
  | 0 => [1, 2, 3]
  | 1 => [1]
  | 2 => [4, 5]
  | _ => []

/-- The relative banks that rows from `start` touch. -/
def banksOf (start rows : Nat) : List Nat := (upTo 16).filter (fun b => start < 512 * (b + 1) && 512 * b < start + rows)

/-- A region that R304 allows in an area of `n` banks. -/
def regionPlanOk (p : CorePlan) (n : Nat) (r : RegionPlan) : Bool :=
  let rows := r.nslot * r.slotRows
  r.kind ≤ 2 && 1 ≤ r.slotRows && r.slotRows ≤ 512 && 3 ≤ r.nslot && r.nslot ≤ 16 && r.start + rows ≤ 512 * n
    && (banksOf r.start rows).all (fun b => planWr p b == 1 && (regionReaders r.kind).contains (planRd p b))

/-! ### Step words (R331, R333 to R336) -/

/-- OP of a step word. -/
def stepOp (w : BitVec 128) : Nat := bitsOf w.toNat 0 8
/-- CMASK of a step word. -/
def stepMask (w : BitVec 128) : Nat := bitsOf w.toNat 8 4
/-- RPT of a step word. -/
def stepRpt (w : BitVec 128) : Nat := bitsOf w.toNat 16 16
/-- STRIDX of a step word. -/
def stepStridx (w : BitVec 128) : Nat := bitsOf w.toNat 32 6
/-- Operand bits [lo + n − 1 : lo] of a step word, counted from bit 38. -/
def stepArg (w : BitVec 128) (lo n : Nat) : Nat := bitsOf w.toNat (38 + lo) n
/-- Reserved bits of a step word with `n` operand bits are 0. -/
def stepReserved (w : BitVec 128) (n : Nat) : Bool := bitsOf w.toNat 12 4 == 0 && bitsOf w.toNat (38 + n) (90 - n) == 0

/-- Opcodes of R333, each with its operand bits. -/
def stepWidths : List (Nat × Nat) :=
  [(0x00, 0), (0x01, 0), (0x02, 12), (0x03, 12), (0x04, 50), (0x10, 51), (0x11, 0), (0x12, 28), (0x13, 4), (0x14, 22),
   (0x15, 38), (0x20, 34), (0x21, 35), (0x30, 42), (0x31, 38), (0x40, 23), (0x41, 28), (0x42, 3), (0x43, 3), (0x44, 61),
   (0x45, 2)]

/-- Opcodes of R333. -/
def stepOps : List Nat := stepWidths.map Prod.fst

/-- A word of an opcode of R333 whose reserved bits are 0 (R331). -/
def stepWordOk (w : BitVec 128) : Bool := stepWidths.any (fun p => p.1 == stepOp w && stepReserved w p.2)

/-- Word `q` of a region's current table; word 0 is the HEAD (R329). -/
def Piste.word (p : Piste) (q : Nat) : BitVec 128 := getAt 0 p.ring ((p.base + q) % 4096)
/-- The words of the current table. -/
def Piste.words (p : Piste) : List (BitVec 128) := (upTo p.len).map p.word
/-- A table written after the one before it (R329). -/
def Piste.place (p : Piste) (ws : List (BitVec 128)) : Piste :=
  { p.retired with
    ring := ws.zipIdx.foldl (fun r w => putAt 0 r ((p.retired.base + w.2) % 4096) w.1) p.ring, len := ws.length }
/-- NSTR of the HEAD. -/
def Piste.nstr (p : Piste) : Nat := stepArg (p.word 0) 12 6
/-- Indices of a table's steps after the stride entries. -/
def Piste.steps (p : Piste) : List Nat := (upTo p.len).filter (fun q => p.nstr < q)
/-- LEN of a LOOP or SKEIN word. -/
def bodyLen (w : BitVec 128) : Nat := stepArg w 0 12
/-- The cores of its cluster that CMASK of a word names. -/
def maskCores (cluster mask : Nat) : List Nat := (maskOnes mask 4).map (fun i => 4 * cluster + i)
/-- OR of the CMASKs of a table's steps (R332). -/
def coreSetOf (ws : List (BitVec 128)) : Nat := (ws.map stepMask).foldl (· ||| ·) 0
/-- The cores of a cluster that its table names (R332). -/
def Piste.coreSet (p : Piste) : Nat := coreSetOf (p.steps.map p.word)

/-- What the loader asks of a core's claims before a kernel starts (R346). -/
def corePlanOk (p : CorePlan) : Bool :=
  p.bankMap.length == 32 && p.banks ≤ 16 && p.amTiles ≤ 16 && p.pairs.length ≤ 64 && p.regions.length ≤ 8
    && (!bankMapOk p p.banks || p.regions.all (regionPlanOk p p.banks)) && p.slots.all (· < 64)

/-- The cores that a plan's tables name, by the words after their HEAD and stride entries. -/
def planCores (t : Nat × List (BitVec 128)) : List Nat :=
  maskCores t.1 (coreSetOf (t.2.drop (stepArg (t.2.headD 0) 12 6 + 1)))

/-- What the loader asks of a plan for the cores of a context (R346). -/
def planOk (p : Plan) (cores : List Nat) : Bool :=
  let cs := p.cores.map CorePlan.core
  p.cores.all corePlanOk && cs.all cores.contains && cs.dedup == cs && p.xfers.length ≤ 256
    && p.xfers.all (fun e => e.length == 64) && p.progs.all (fun i => i.image.length == 256 && microImageOk i.image && convOk i.conv false)
    && p.ss.length ≤ 8 && p.ss.all (fun r => decide (1 ≤ r.rows) && decide (r.rows ≤ 262144))
    && p.tables.all (fun t => 1 ≤ t.2.length && t.2.length ≤ 4096 && cores.contains (4 * t.1)
        && (planCores t).all cs.contains)
    && (p.tables.map Prod.fst).dedup == p.tables.map Prod.fst
    && p.skeins.all (fun k => cs.contains k.core && k.slot < 256)

/-- A plan that names a core or a table on a cluster that is not enabled (R3). -/
def State.planAbsent (s : State) (p : Plan) : Bool :=
  p.cores.any (fun c => !s.clusterOn (c.core / 4)) || p.tables.any (fun t => !s.clusterOn t.1)

/-- Micro-program slots that a plan claims and another context of the cluster holds (R161, R346). -/
def State.slotsTaken (s : State) (ctx : Nat) (p : Plan) : Bool :=
  p.cores.any (fun c => c.slots.any (fun n => (upTo 4).any (fun i =>
    let o := ((s.core (4 * (c.core / 4) + i)).uprog n).ctx
    o != none && o != some ctx)))

/-! ### Areas and banks (R300 to R303, R320, R324 to R326) -/

/-- The release of an area is complete: no bank of it has a write in flight (R303). -/
def Core.leftArea (k : Core) (a : Nat × Nat) : Bool := (banksOf a.1 a.2).all (fun b => (k.bank b).wtag == 0)

/-- A bank that no area holds and no release still keeps (R303). -/
def Core.bankFree (k : Core) (b : Nat) : Bool :=
  (k.bank b).wtag == 0 && k.areas.all (fun a => !a.2.used || 512 * (b + 1) ≤ a.2.base || a.2.base + a.2.bound ≤ 512 * b)
    && k.leaving.all (fun a => !(banksOf a.1 a.2).contains b || k.leftArea a)

/-- The first of `n` contiguous free banks of a core. -/
def Core.freeBanks (k : Core) (n : Nat) : Option Nat :=
  (upTo 17).find? (fun b => b + n ≤ 16 && (upTo n).all (fun i => k.bankFree (b + i)))

/-- A core that can give a context the area its plan needs (R303). -/
def Core.areaReady (k : Core) (ctx n : Nat) : Bool := (k.area ctx).used || (k.freeBanks n).isSome

/-- The area of a context assigned where it has none (R302). -/
def Core.assignArea (k : Core) (ctx n : Nat) : Core :=
  if (k.area ctx).used then k
  else
    let b := (k.freeBanks n).getD 0
    { k with areas := putAt Area.reset k.areas ctx { used := true, base := 512 * b, bound := 512 * n, clearing := true },
             leaving := k.leaving.filter (fun a => !k.leftArea a) }

/-- Banks of the area on which a context's next kernel runs (R300). -/
def Core.areaBanks (k : Core) (ctx n : Nat) : Nat := if (k.area ctx).used then (k.area ctx).bound / 512 else n

/-- A bank as a kernel start finds it under a map entry (R299, R320, R325, R326). -/
def Bank.start (b : Bank) (rd wr : Nat) (weight pd : Bool) : Bank :=
  { b with
    rdown := rd, wrown := wr, weight := weight,
    classClear := b.classClear || (b.weight != weight && (b.st == .on || b.st == .drain)),
    wake := !pd && (b.st == .isolating || b.st == .off),
    st := match b.st with
      | .on => if pd then .drain else .on
      | .drain => if pd then .drain else .on
      | .off => .off
      | .isolating => .isolating
      | st => if pd then .drain else st }

/-- Banks of a core in WAKE. -/
def Core.waking (k : Core) : Nat := ((upTo 16).filter (fun b => (k.bank b).st == .wake)).length

/-- The banks that are OFF and asked to wake begin to, the lowest first (log 58), while no more than four of the core are in WAKE
(R326, R523). -/
def Core.wakeBanks (k : Core) : Core :=
  (upTo 16).foldl (fun k b =>
    let v := k.bank b
    if v.st == .off && v.wake && k.waking < 4 then k.setBank b { v with st := .wake, wake := false } else k) k

/-- A plan's bank map put on the banks of the context's area. -/
def Core.mapBanks (k : Core) (ctx : Nat) (p : CorePlan) : Core :=
  let a := k.area ctx
  ((upTo (a.bound / 512)).foldl (fun k i =>
    let b := a.base / 512 + i
    k.setBank b ((k.bank b).start (planRd p i) (planWr p i) (planWeight p i) (planPd p i))) k).wakeBanks

/-- A map takes port code 3 or 6 from a bank that an open window of the context covers (R315). -/
def Core.mapClash (k : Core) (ctx : Nat) (p : CorePlan) : Bool :=
  k.wins.any (fun w => w.2.isOpen && w.2.ctx == ctx
    && (banksOf w.2.base w.2.bound).any (fun b => planWr p b != 3 || (w.2.rd && planRd p b != 6)))

/-! ### KERNEL_START (R81, R133, R299, R311, R329, R370, R375) -/

/-- A configured region controller (R301, R304). -/
def regionOf (ctx base : Nat) (r : RegionPlan) : Region :=
  { used := true, kind := r.kind, ctx := ctx, start := base + r.start, slotRows := r.slotRows, nslot := r.nslot,
    head := 0, tail := 0, slots := List.replicate r.nslot .empty, fill := List.replicate r.nslot 0,
    owner := List.replicate r.nslot none, turn := none }

/-- A table from a list of values. -/
def tableOf {α : Type} [DecidableEq α] (d : α) (l : List α) : Table α := l.zipIdx.foldl (fun t p => putAt d t p.2 p.1) []

/-- A skein that has not started (R18, R336). -/
def skeinOf (p : SkeinPlan) : Skein :=
  { Skein.reset with
    st := .unstarted, tiles := p.tiles, qrow := p.qrow, orow := p.orow, head := p.head, key := p.key, left := p.fills }

/-- A core at the start of a context's kernel: its area and bank map, cleared stationary sets and AM, its claims and its
skeins. -/
def Core.startKernel (k : Core) (ctx : Nat) (p : CorePlan) (skeins : List SkeinPlan) : Core :=
  let k := (k.assignArea ctx p.banks).mapBanks ctx p
  { k with
    act := Stationary.reset, shd := Stationary.reset, shdFull := false, amValid := [], amClaim := p.amTiles,
    pairs := tableOf SemPair.reset (p.pairs.map (fun e =>
      { full := 0, empty := e.toNat, init := e.toNat, claimed := true, marked := false })),
    regions := tableOf Region.reset (p.regions.map (regionOf ctx (k.area ctx).base)),
    lastTake := none, feed := [], posts := [], inPosts := [], ctx := some ctx, endIssued := false, queue := [], rep := 0, hold := none,
    streamAt := 0, streams := [],
    skeins := skeins.foldl (fun t v => putAt Skein.reset t v.slot (skeinOf v)) [] }

/-- Micro-program slot `n` assigned to a context on the four cores of a cluster (R161; log 15). -/
def State.assignSlot (s : State) (ctx cluster n : Nat) : State :=
  (upTo 4).foldl (fun s i =>
    let k := s.core (4 * cluster + i)
    s.setCore (4 * cluster + i) { k with uprogs := putAt UProg.reset k.uprogs n { k.uprog n with ctx := some ctx } }) s

/-- The lowest closed SS windows. -/
def State.freeSsWins (s : State) : List Nat := (upTo 128).filter (fun n => !(s.ssWin n).isOpen)

/-- The SS rows that a range of a plan resolves to: the first, or the outcome that ends the kernel (R311, R390). A window
opens over rows that are poisoned: only their reads are lost (R322, R323). -/
def State.ssExtent (s : State) (x : Desc) (r : SsRange) : Except Work Nat :=
  let run : Run := { ref := r.ref, off := 0, len := 512 * r.rows, wr := false }
  match s.reach x { run with wr := r.wr && !r.rd }, s.reach x { run with wr := r.wr } with
  | .ok 2 a, .ok _ _ => if a % 512 = 0 then .ok (a % 2 ^ 45 / 512) else .error (.bad 0x03 0xFFFF)
  | .ok _ _, .ok _ _ => .error (.bad 0x03 0xFFFF)
  | .ok _ _, a => .error (workOfAcc run a)
  | a, _ => .error (workOfAcc run a)

/-- An SS window opened for a range of the plan at its resolved rows (R310, R311). -/
def State.openSsWin (s : State) (x : Desc) (n : Nat) (cores : List Nat) (r : SsRange) : State :=
  match s.ssExtent x r with
  | .ok row =>
    s.setSsWin n { isOpen := true, rd := r.rd, wr := r.wr, ctx := x.ctx, base := row, bound := r.rows,
                   cores := BitVec.ofNat 32 ((cores.map (fun c => 2 ^ c)).sum), gen := (s.ssWin n).gen + 1 }
  | .error _ => s

/-- The sequence list, the block map and the frequencies of an attention block, as a kernel reads them (R184, R192, R196). -/
def State.kernelLists (s : State) (x : Desc) (p : AttnP) : List Byte :=
  s.fetchRun s.store x (rdRun p.seqlist 0 (16 * p.nseq)) ++ s.fetchRun s.store x (rdRun p.mapref 0 p.mapBytes)
    ++ s.fetchRun s.store x (rdRun p.ropetab 0 (if p.ropeQ || p.ropeK then 4 * p.np else 0))

/-- The parameter blocks and lists that a kernel reads at its start: none where its descriptor holds all (R183, R216, R252,
R461). -/
def State.kernelBlock (s : State) (x : Desc) : List Byte :=
  let b := fun (o : Nat) => s.fetchRun s.store x (rdRun (x.field o 8) 0 128)
  let own := if x.kept.isEmpty then b 8 else x.kept
  match x.opcode with
  | 0x01 => own ++ s.kernelLists x (attnP own)
  | 0x02 => own ++ b 16 ++ s.kernelLists x (attnP own)
  | 0x03 | 0x04 =>
    let p := matParams (b 8)
    b 8 ++ (if p.wlist then s.fetchRun s.store x (rdRun (x.field 32 8) 0 (8 * p.m)) else [])
  | _ => []

/-- What the checks of a kernel's parameter blocks end it with at its start, as where it runs as a whole (R36, R37, R51,
R54, R77, R88, R89, R123). -/
def State.blockRefused (s : State) (x : Desc) : Option Work :=
  match x.opcode with
  | 0x01 => match s.attnRead x false (fwdDirect x.bytes) with
    | .error w => some w
    | .ok i => if i.p.bolt then s.boltListBad x i.p i.ents else none
  | 0x02 => match s.attnRead x true (fun _ => []) with
    | .error w => some w
    | .ok i => match s.firstBad x [rdRun (x.field 16 8) 0 128] with
      | some (r, a) => some (workOfAcc r a)
      | none =>
        let tb := s.fetchRun s.store x (rdRun (x.field 16 8) 0 128)
        if (tensOf tb).ok tb i.p (i.ents.map AttnEnt.qlen).sum (i.ents.map AttnEnt.klen).sum then none
        else some (.bad 0x03 0xFFFF)
  | 0x03 | 0x04 => match s.firstBad x [rdRun (x.field 8 8) 0 128] with
    | some (r, a) => some (workOfAcc r a)
    | none =>
      let b := s.kernelBlock x
      let p := matParams b
      match s.matRefused x b with
      | some det => some (.bad 0x03 det)
      | none => if p.wlist then match s.firstBad x [rdRun (x.field 32 8) 0 (8 * p.m)] with
          | some (r, a) => some (workOfAcc r a)
          | none => s.listBad x p (s.listEnts x p)
        else none
  | _ => none

/-- Where a word of a cluster's table works (R124). -/
def planPlace (p : Plan) (cluster word : Nat) : StepPlace :=
  (p.places.find? (fun q => q.cluster == cluster && q.word == word)).getD
    { cluster := cluster, word := word, role := 0, row := [], group := [], fed := false }

/-- The tile of a kernel's product by role; none where no rule names one (R189, R344, R345). -/
def State.kernelTile (s : State) (x : Desc) (role : Nat) : Option Tile :=
  match x.opcode with
  | 0x01 => match s.attnRead x false (fwdDirect x.bytes) with
    | .ok i => some (i.p.passTile (i.ents.map AttnEnt.qlen) (role != 0))
    | .error _ => none
  | 0x03 | 0x04 => (matParams (s.kernelBlock x)).tile (x.opcode == 0x04)
  | _ => none

/-- A word of a table computes on a tile: a PASS of its shape and pairing, an MVP step on the MVP (R333, R342). -/
def onTile (w : BitVec 128) : Tile → Bool
  | .pass shape pair _ => stepOp w != 0x14 && stepOp w != 0x15
      && (stepOp w != 0x10 || (stepArg w 29 2 == shape && stepArg w 31 2 == pair))
  | .mvp => stepOp w != 0x10

/-- Depth of a Rink of stationary slots whose plan names none, by the tile it feeds (R342). -/
def rinkDepth : Tile → Nat
  | .pass 2 _ _ => 8
  | .pass 3 _ _ => 3
  | .pass _ _ _ => 4
  | .mvp => 6

/-- A plan whose Rinks without a depth have the default of the kernel's tile (R342). -/
def State.planDepths (s : State) (x : Desc) (p : Plan) : Plan :=
  match s.kernelTile x 0 with
  | some t =>
    { p with cores := p.cores.map (fun c =>
        { c with regions := c.regions.map (fun r => if r.kind = 0 && r.nslot = 0 then { r with nslot := rinkDepth t } else r) }) }
  | none => p

/-- Steps of a table's words after HEAD and stride entries, with their places (R329, R334). -/
def wordSteps (ws : List (BitVec 128)) : List (BitVec 128 × Nat) :=
  ws.zipIdx.filter (fun w => decide (stepArg (ws.headD 0) 12 6 < w.2))

/-- Issues of a word on a core it names: its own repeats times those of the LOOPs that hold it (R331, R335). -/
def wordIssues (ws : List (BitVec 128)) (w : BitVec 128 × Nat) : Nat :=
  ((wordSteps ws).filter (fun q => stepOp q.1 == 0x02 && decide (q.2 < w.2) && decide (w.2 ≤ q.2 + bodyLen q.1))).foldl
    (fun n q => n * (stepRpt q.1 + 1)) (stepRpt w.1 + 1)

/-- A table of an ATTN_FWD kernel holds its passes and SFU steps in its one SKEIN body (R203, R345). -/
def pipelineOk (ws : List (BitVec 128)) : Bool :=
  (wordSteps ws).all (fun w => !([0x10, 0x14, 0x15, 0x20].contains (stepOp w.1))
    || (wordSteps ws).any (fun q => stepOp q.1 == 0x03 && decide (q.2 < w.2) && decide (w.2 ≤ q.2 + bodyLen q.1)))

/-- QK passes of a narrow attention of the 16-bit class: d/32 per 512 keys, and two such groups per key block (R345). -/
def groupsOk (p : Plan) (t : Nat × List (BitVec 128)) (d : Nat) : Bool :=
  (upTo 4).all (fun i => (((wordSteps t.2).filter (fun w => stepOp w.1 == 0x10 && (stepMask w.1).testBit i
    && (planPlace p t.1 w.2).role == 0)).map (wordIssues t.2)).sum % (2 * (d / 32)) == 0)

/-- A table of attention holds what R345 asks. -/
def State.attnTableOk (s : State) (x : Desc) (p : Plan) (t : Nat × List (BitVec 128)) : Bool :=
  x.opcode != 0x01 || (pipelineOk t.2 && match s.kernelTile x 0 with
    | some (.pass 1 0 _) => groupsOk p t (attnP (s.kernelBlock x)).d
    | _ => true)

/-- The tables of a plan compute on the tiles that firmware chooses (R344, R345); kernels of NORM, SFU_MAP and MERGE have no
array formats, so their tables hold no array pass (R77, R346). -/
def State.planTiles (s : State) (x : Desc) (p : Plan) : Bool :=
  p.tables.all (fun t => s.attnTableOk x p t && (wordSteps t.2).all (fun w =>
    !([0x10, 0x14, 0x15].contains (stepOp w.1))
      || (!([0x05, 0x06, 0x07].contains x.opcode) && match s.kernelTile x (planPlace p t.1 w.2).role with
        | some tl => onTile w.1 tl
        | none => true)))

/-- Requests of a descriptor that are outstanding. -/
def State.descOuts (s : State) (d : Did) : Bool :=
  s.ports.any (fun p => p.2.outs.any (fun o => o.2.any (fun r => r.d == some d)))

/-- What a kernel start waits for: its turn, the cores, its areas and its SS windows, tables on the tiles that firmware
chooses, and the requests of an attempt that was discarded (R303, R311, R344, R375, R470, R483). -/
def State.startReady (s : State) (x : Desc) (p : Plan) : Bool :=
  s.kernelTurn x && !s.descOuts x.did && !(s.kernel x.ctx).live && s.turnFree x.ctx && s.clustersUp x.ctx
    && p.cores.all (fun c => (s.core c.core).ctx == none && (s.core c.core).areaReady x.ctx c.banks)
    && decide (p.ss.length ≤ s.freeSsWins.length)
    && ((s.kernel x.ctx).paused || (s.blockRefused x).isSome || s.planTiles x p)

/-- The first of a plan's SS ranges that does not resolve. -/
def State.ssRefused (s : State) (x : Desc) (p : Plan) : Option Work :=
  p.ss.findSome? (fun r => match s.ssExtent x r with
    | .ok _ => none
    | .error w => some w)

/-- A core's bank map and regions fit the area that the context holds there (R299, R301, R304). -/
def State.planFits (s : State) (ctx : Nat) (c : CorePlan) : Bool :=
  let n := (s.core c.core).areaBanks ctx c.banks
  decide (c.banks ≤ n) && bankMapOk c n && c.regions.all (regionPlanOk c n)

/-- The kernel placed on its cores, windows and tables. -/
def State.placeKernel (s : State) (x : Desc) (p : Plan) : State :=
  let wins := s.freeSsWins.take p.ss.length
  let cs := p.cores.map CorePlan.core
  let s := p.cores.foldl (fun s c =>
    s.setCore c.core ((s.core c.core).startKernel x.ctx c (p.skeins.filter (fun v => v.core == c.core)))) s
  let s := p.cores.foldl (fun s c => c.slots.foldl (fun s n => s.assignSlot x.ctx (c.core / 4) n) s) s
  let s := (wins.zip p.ss).foldl (fun s w => s.openSsWin x w.1 cs w.2) s
  let s := p.tables.foldl (fun s t => s.setPiste t.1 x.ctx ((s.pisteAt t.1 x.ctx).place t.2)) s
  s.setKernel x.ctx { Kernel.reset with live := true, d := x.did, plan := p, block := s.kernelBlock x, ssWins := wins }

/-- A descriptor whose kernel has yielded and resumes (R471). -/
def State.resuming (s : State) (x : Desc) : Bool := (s.kernel x.ctx).paused && (s.kernel x.ctx).d == x.did

/-- A core of a kernel that resumes: its pairs, its skeins, the steps after its SKEIN body and its array as they were (log 27). -/
def Core.resumed (k : Core) (l : List SavedCore) (c : Nat) : Core :=
  match l.find? (fun q => q.core == c) with
  | some q =>
    { k with pairs := q.was.pairs, skeins := q.was.skeins, endIssued := q.was.endIssued, queue := q.was.queue, rep := q.was.rep,
             am := q.was.am, amValid := q.was.amValid, act := q.was.act, shd := q.was.shd, shdFull := q.was.shdFull,
             mvp := q.was.mvp }
  | none => k

/-- A kernel that yielded goes on at its SKEIN body, on its cores and with its windows as its plan says (R471). -/
def State.resumeKernel (s : State) (x : Desc) : State :=
  let k := s.kernel x.ctx
  let p := k.plan
  let wins := s.freeSsWins.take p.ss.length
  let cs := p.cores.map CorePlan.core
  let s := p.cores.foldl (fun s c => s.setCore c.core (((s.core c.core).startKernel x.ctx c []).resumed k.saved c.core)) s
  let s := (wins.zip p.ss).foldl (fun s w => s.openSsWin x w.1 cs w.2) s
  s.setKernel x.ctx { k with live := true, paused := false, saved := [], ssWins := wins }

/-- A kernel started, or what ends it at its start. -/
def State.startKernel (s : State) (x : Desc) (p : Plan) : State :=
  match (if s.resuming x then none else s.blockRefused x), s.ssRefused x p with
  | some w, _ => s.conclude x w
  | none, some w => s.conclude x w
  | none, none =>
    if !(p.cores.all (s.planFits x.ctx)) then s.retire x 0x03 0xFFFF
    else match p.cores.find? (fun c => (s.core c.core).mapClash x.ctx c) with
      | some c => s.tearDown x.ctx 0x24 c.core c.core (some x.did)
      | none =>
        let s := (s.takeTurn x.ctx).kernelBoundary x.ctx true
        (if s.resuming x then s.resumeKernel x else s.placeKernel x p).bindSems x.ctx (p.cores.map CorePlan.core) x.did

/-- The plan on which a kernel starts: its own, where it resumes (R471). -/
def State.startPlan (s : State) (x : Desc) (plan : Plan) : Plan :=
  if s.resuming x then (s.kernel x.ctx).plan else s.planDepths x plan

/-- KERNEL_START (R375, R471): a plan that names a cluster that is not enabled ends its descriptor (R3). -/
def execKernelStart (d : Did) (plan : Plan) (s : State) : Host.Outcome State Fault Refusal :=
  .next (match s.running? d [0x01, 0x02, 0x03, 0x04, 0x05, 0x06, 0x07] with
    | some x =>
      let plan := s.startPlan x plan
      if s.kernelTurn x && !(s.kernel x.ctx).live && s.planAbsent plan then s.retire x 0x03 0xFFFF
      else if planOk plan (s.ctxCores x.ctx) && !s.slotsTaken x.ctx plan && s.startReady x plan then s.startKernel x plan
      else s
    | none => s)

/-! ### Places in a table (R331 to R337) -/

/-- The steps of one opcode whose body holds step `q`, outermost first. -/
def Piste.around (p : Piste) (op q : Nat) : List Nat :=
  p.steps.filter (fun j => stepOp (p.word j) == op && j < q && q ≤ j + bodyLen (p.word j))

/-- A body inside its table and its parents that holds none of the given opcodes (R335, R336). -/
def Piste.bodyOk (p : Piste) (q : Nat) (bars : List Nat) : Bool :=
  let n := bodyLen (p.word q)
  1 ≤ n && q + n < p.len
    && (p.around 0x02 q ++ p.around 0x03 q).all (fun j => q + n ≤ j + bodyLen (p.word j))
    && p.steps.all (fun j => !(q < j && j ≤ q + n && bars.contains (stepOp (p.word j))))

/-- A cursor past the ends of the LOOP bodies that hold it: back at a body's first word while the LOOP has runs left
(R335). -/
def Piste.settle (p : Piste) (c : Cursor) : Nat → Cursor
  | 0 => c
  | n + 1 => match c.frames.getLast? with
    | some (q, l) =>
      if c.pc ≤ q + bodyLen (p.word q) then c
      else if l < stepRpt (p.word q) then { pc := q + 1, frames := c.frames.dropLast ++ [(q, l + 1)] }
      else p.settle { c with frames := c.frames.dropLast } n
    | none => c

/-- The place after the word at a cursor. -/
def Piste.next (p : Piste) (c : Cursor) : Cursor := p.settle { c with pc := c.pc + 1 } 8

/-- The cursor in the body of the LOOP at its place. -/
def Cursor.enter (c : Cursor) : Cursor := { pc := c.pc + 1, frames := c.frames ++ [(c.pc, 0)] }

/-- The iteration counts L_0 to L_3 at a cursor (R334). -/
def Cursor.loops (c : Cursor) : List Nat := (upTo 4).map (fun k => (c.frames.map Prod.snd).getD k 0)

/-- Words from `lo` to `hi` hold a step of core `i` of the cluster. -/
def Piste.hasStep (p : Piste) (lo hi i : Nat) : Bool :=
  p.steps.any (fun q => decide (lo ≤ q) && decide (q ≤ hi) && (stepMask (p.word q)).testBit i)

/-- From a cursor in a SKEIN body that ends at `hi`, the place of the next step of core `i` of the cluster, or the body's
end: LOOPs are entered, and one without a step of the core is passed over (R336). -/
def Piste.seek (p : Piste) (i hi : Nat) (c : Cursor) : Nat → Cursor
  | 0 => c
  | n + 1 =>
    let w := p.word c.pc
    if hi < c.pc then c
    else if stepOp w = 0x02 then
      if p.hasStep (c.pc + 1) (c.pc + bodyLen w) i then p.seek i hi c.enter n
      else p.seek i hi (p.settle { c with pc := c.pc + bodyLen w + 1 } 8) n
    else if (stepMask w).testBit i then c
    else p.seek i hi (p.next c) n

/-- A context's kernel has a table on a cluster, and its descriptor is in flight. -/
def State.pisteDesc (s : State) (cluster ctx : Nat) : Option Desc :=
  let k := s.kernel ctx
  if cluster < 8 && ctx < 32 && s.serving && k.live && (s.pisteAt cluster ctx).len != 0 then s.desc? k.d else none

/-- A table stopped: the context is torn down with BAD_DESC (R331, R332). -/
def State.pisteStop (s : State) (x : Desc) : State := s.tearDown x.ctx 0x03 0xFF 0xFFFF (some x.did)

/-! ### Control cores (R25 to R32) -/

/-- Two resolved extents intersect. -/
def extentsMeet (x : Desc) (a b : RefUse) : Bool :=
  match x.transAt (refHandle a.ref), x.transAt (refHandle b.ref) with
  | some t, some u => t.tier == u.tier && meets (t.phys (refOffset a.ref)) a.len (u.phys (refOffset b.ref)) b.len
  | _, _ => false

/-- A kernel's output regions overlap its inputs (R31). -/
def State.overlaps (s : State) (x : Desc) : Bool :=
  let us := (s.opRefs x.bytes).filter (fun u => u.ref != 0)
  us.any (fun a => a.wr && us.any (fun b => b.rd && extentsMeet x a b))

/-- A kernel that a control core had in flight (R31): re-executed from the start, or its context is torn down. -/
def State.redoKernel (s : State) (ctx : Nat) : State :=
  match s.desc? (s.kernel ctx).d with
  | some x =>
    if s.overlaps x then s.tearDown ctx 0x7F 0xFF 0 (some x.did)
    else
      let s := (s.kernelCores ctx).foldl (fun s c => s.setCore c (((s.core c).keepFlags false).torn ctx)) s
      let s := (s.kernel ctx).ssWins.foldl (fun s n => s.setSsWin n (s.ssWin n).closed) s
      let s := (maskOnes (s.ctx ctx).clusters.toNat 8).foldl (fun s n => s.setPiste n ctx (s.pisteAt n ctx).retired) s
      let s := { s with faults := s.faults.filter (fun f => f.d != some x.did), dmaQ := s.dmaQ.filter (fun r => r.d != x.did) }
      (s.setDesc { x with flags := 0, st := .running }).setKernel ctx Kernel.reset
  | none => s

/-- A kernel that runs as a whole and is halted on a range fault is work in flight too (R31): it runs again, or its
context is torn down. -/
def State.redoHalted (s : State) (x : Desc) : State :=
  if s.overlaps x then s.tearDown x.ctx 0x7F 0xFF 0 (some x.did)
  else ({ s with faults := s.faults.filter (fun f => f.d != some x.did) } : State).setDesc { x with st := .running }

/-- A prepared BOLT_STEP is rolled back and runs again (R31). -/
def State.redoStep (s : State) (x : Desc) : State := s.setDesc { x with st := .running, kept := [], prep := 0 }

/-- A loop's step that is halted on a range fault runs again, or, where the kernel it halted in overlaps its inputs, its
context is torn down with INTERNAL in the loop's record (R31, R478). -/
def State.redoLoop (s : State) (n : Nat) : State :=
  let l := s.loopAt n
  if l.inStep then
    if !l.image.isEmpty && s.overlaps { l.desc with bytes := l.image } then
      (s.noteLoop n 0x7F).tearDown l.desc.ctx 0x7F 0xFF 0 (some l.d)
    else { s with faults := s.faults.filter (fun f => f.d != some l.d) }
  else s

/-- The work in flight of a context whose control core expired (R31). -/
def State.redoContext (s : State) (ctx : Nat) : State :=
  let s := if (s.kernel ctx).live || (s.kernel ctx).paused then s.redoKernel ctx else s
  let s := ((s.descs.filter (fun x => x.ctx == ctx && x.st == .halted && isKernelOp x.opcode)).map Desc.did).foldl
    (fun s d => match s.desc? d with
      | some x => s.redoHalted x
      | none => s) s
  let s := (s.descs.filter (fun x => x.ctx == ctx && x.st == .prepared && x.opcode == 0x20)).foldl State.redoStep s
  (s.ctxLoops ctx).foldl State.redoLoop s

/-- Control core `n` reset, checked and restarted, or out of service; its contexts pass on (R29 to R32). Where no other
control core is in service they stay with it (DESIGN CHOICE, log 50: R30 names only the next healthy one). -/
def State.ccoreExpiry (s : State) (n : Nat) (imemOk : Bool) : State :=
  let mine := (upTo 32).filter (fun c => (s.ctx c).enable && (s.ctx c).owner == n)
  let s := s.logEvent 0x0C (if imemOk then 1 else 2) 2 n (n + if imemOk then 0 else 2 ^ 63)
  let s := if imemOk then s.noteRepeat 0x0C 2 n n else s
  let s := s.setCcore n { inService := imemOk, restarted := imemOk }
  if (upTo 4).all (fun k => !(s.ccore k).inService) then s.enterFatal 4
  else
    mine.foldl (fun s c =>
      let next := (([1, 2, 3].map (fun i => (n + i) % 4)).find? (fun k => (s.ccore k).inService)).getD n
      (s.setCtx c { s.ctx c with owner := next, uTurn := false, uExpired := false }).redoContext c) s

/-! ### The sequencer (R330 to R336) -/

/-- A HEAD whose fields hold: no mask, no reserved bit here or in a stride entry (R334), TLEN and NSTR within the table, a
step on some core (R332). -/
def Piste.headOk (p : Piste) : Bool :=
  let w := p.word 0
  stepOp w == 0x04 && stepMask w == 0 && stepReserved w 50 && stepArg w 0 12 + 1 == p.len
    && p.nstr < p.len && p.coreSet != 0 && (upTo p.nstr).all (fun i => bitsOf (p.word (i + 1)).toNat 120 8 == 0)

/-- The CRC of a table's words is the HEAD's (R330). -/
def Piste.crcOk (p : Piste) : Bool :=
  stepArg (p.word 0) 18 32 == crc32c ((p.words.drop 1).flatMap (fun w => natLe 16 w.toNat))

/-- A table whose first check failed and whose regenerated copy passed (R28, R480). -/
def State.tableRetried (s : State) (x : Desc) : State :=
  ((s.logEvent 0x01 1 2 (s.ctx x.ctx).owner 0 x.ctx x.tag).noteRepeat 0x01 2 (s.ctx x.ctx).owner 0).noteStatus x.did 0x31 0xFFFE

/-- What the sequencer does at its place: it waits (for a command, or because nothing is left), stops the table, or
writes the word into the issue queues of these cores, the END with `last` (R331, R332, R337). -/
inductive SeqAct where
  | wait
  | stop
  | write (cores : List Nat) (last : Bool)
  deriving DecidableEq, Repr

/-- The word at the sequencer's place. -/
def Piste.here (p : Piste) : BitVec 128 := p.word p.cur.pc

/-- LOOP and SKEIN words wait for their commands; a HEAD, or an END or step that breaks R331, stops the table. The steps after
a SKEIN body are written while its skeins run: each core issues them after its own (R336, R337). -/
def Piste.act (p : Piste) (cluster : Nat) : SeqAct :=
  let w := p.here
  if !p.checked || p.done || p.len ≤ p.cur.pc then .wait
  else match stepOp w with
    | 0x01 => if stepMask w != 0 || !stepWordOk w then .stop else .write (maskCores cluster p.coreSet) true
    | 0x02 | 0x03 => .wait
    | 0x04 => .stop
    | _ => if stepMask w = 0 || !stepWordOk w then .stop else .write (maskCores cluster (stepMask w)) false

/-- Steps that an issue queue holds (R337). -/
def queueDepth : Nat := 16

/-- A step written into the issue queues of cores. -/
def State.enqueue (s : State) (cores : List Nat) (q : QStep) : State :=
  cores.foldl (fun s c => s.setCore c { s.core c with queue := (s.core c).queue ++ [q] }) s

/-- The sequencer goes on until it waits, a named core's queue is full, or the table stops (R337). -/
def State.feed (s : State) (cluster ctx : Nat) : Nat → State
  | 0 => s
  | n + 1 =>
    let p := s.pisteAt cluster ctx
    match s.pisteDesc cluster ctx, p.act cluster with
    | some x, .stop => s.pisteStop x
    | some _, .write cs last =>
      if cs.all (fun c => decide ((s.core c).queue.length < queueDepth)) then
        ((s.enqueue cs { word := p.cur.pc, loops := p.cur.loops, after := p.skein.isSome }).setPiste cluster ctx
          { p with cur := p.next p.cur, done := last }).feed cluster ctx n
      else s
    | _, _ => s

/-- Words that the sequencer can write at most before it waits: four full queues, and the ends of bodies. -/
def feedFuel : Nat := 128

/-- A check that failed twice. -/
def cmdFails : CmdCheck → Bool
  | .failed _ => true
  | _ => false

/-- The instruction memory passes its check when a control core's watchdog expires (R29). -/
def cmdImemOk : CmdCheck → Bool
  | .failed ok => ok
  | _ => true

/-- PISTE_HEAD (R28, R330, R332): the table checked, the sequencer goes on from the first step. A second mismatch is its control
core's watchdog expiring. -/
def execPisteHead (cluster ctx : Nat) (chk : CmdCheck) (s : State) : Host.Outcome State Fault Refusal :=
  .next (
    let p := s.pisteAt cluster ctx
    match s.pisteDesc cluster ctx with
    | some x =>
      if p.checked then s
      else if !p.crcOk || cmdFails chk then s.ccoreExpiry (s.ctx ctx).owner (cmdImemOk chk)
      else if !p.headOk then s.pisteStop x
      else
        let s := if chk = .matched then s else s.tableRetried x
        (s.setPiste cluster ctx { p with checked := true, cur := { pc := p.nstr + 1, frames := [] } }).feed cluster ctx feedFuel
    | none => s)

/-- The loop counts a step brings. -/
def stepLoops (st : Step) : List Nat := [st.l0, st.l1, st.l2, st.l3]

/-- The sequencer of a checked table stands at a step of an opcode that it evaluates itself. -/
def Piste.standsAt (p : Piste) (st : Step) (op : Nat) : Bool :=
  p.checked && !p.done && p.cur.pc < p.len && p.here == st.word && stepOp st.word == op
    && stepLoops st == p.cur.loops

/-- A LOOP word that R331 and R335 allow inside `level` others. -/
def Piste.loopOk (p : Piste) (q level : Nat) : Bool :=
  stepMask (p.word q) == 0 && stepReserved (p.word q) 12 && level < 4 && p.bodyOk q [0x01, 0x03, 0x04]

/-- PISTE_LOOP (R335): the sequencer enters the body with L_k = 0. -/
def execPisteLoop (cluster ctx : Nat) (st : Step) (s : State) : Host.Outcome State Fault Refusal :=
  .next (
    let p := s.pisteAt cluster ctx
    match s.pisteDesc cluster ctx with
    | some x =>
      if !p.standsAt st 0x02 then s
      else if !p.loopOk p.cur.pc p.cur.frames.length then s.pisteStop x
      else (s.setPiste cluster ctx { p with cur := p.cur.enter }).feed cluster ctx feedFuel
    | none => s)

/-- A SKEIN word that R331 and R336 allow: the only one so far, in no LOOP, its body's LOOPs whole and its other steps on
some core. -/
def Piste.skeinOk (p : Piste) (q : Nat) : Bool :=
  stepMask (p.word q) == 0 && stepReserved (p.word q) 12 && (p.around 0x02 q).isEmpty && p.bodyOk q [0x01, 0x03, 0x04]
    && p.steps.all (fun j => !(decide (j < q) && stepOp (p.word j) == 0x03)
      && (!(decide (q < j) && decide (j ≤ q + bodyLen (p.word q)))
        || (if stepOp (p.word j) = 0x02 then p.loopOk j (p.around 0x02 j).length else stepMask (p.word j) != 0)))

/-- PISTE_SKEIN (R336, R337): each core runs the body once per skein of its own; the sequencer goes on after the body. -/
def execPisteSkein (cluster ctx : Nat) (st : Step) (s : State) : Host.Outcome State Fault Refusal :=
  .next (
    let p := s.pisteAt cluster ctx
    match s.pisteDesc cluster ctx with
    | some x =>
      if !p.standsAt st 0x03 then s
      else if !p.skeinOk p.cur.pc then s.pisteStop x
      else
        let q := p.cur.pc
        (s.setPiste cluster ctx { p with skein := some q, cur := { pc := q + bodyLen (p.word q) + 1, frames := [] } }).feed
          cluster ctx feedFuel
    | none => s)

/-! ### Steps on a core (R331, R333, R336, R337, R339) -/

/-- What a step comes to: performed, its core's queue held, held because its stream halts, a first overflow, or its
descriptor ended otherwise. -/
inductive StepRes where
  | done (s : State)
  | hold (k : HoldKind)
  | halt (s : State)
  | fault (status : Nat)
  | over (s : State)
  deriving DecidableEq, Repr

/-- The running skein of a core, with its slot. -/
def Core.runningSkein (k : Core) : Option (Nat × Skein) := k.skeins.find? (fun p => p.2.st == .running)

/-- No skein of a core is left. -/
def Core.skeinsOver (k : Core) : Bool := k.skeins.all (fun p => p.2.st == .none)

/-- The step of a core's queue that may issue: one after the SKEIN body waits for the core's own skeins (R336, R337). -/
def Core.queueHead (k : Core) : Option QStep := k.queue.head?.filter (fun e => !e.after || k.skeinsOver)

/-- The skein whose step is at the head of a core. -/
def Core.actingSkein (k : Core) : Option Nat := if k.queueHead.isNone then k.runningSkein.map Prod.fst else none

/-- Words that a search in a SKEIN body can pass. -/
def seekFuel : Nat := 8192

/-- The place of a running skein's next step in the SKEIN body of its cluster's table. -/
def Piste.skeinPlace (p : Piste) (i q : Nat) (v : Skein) : Cursor := p.seek i (q + bodyLen (p.word q)) v.cur seekFuel

/-- A step that stands at the head of a core: its word, loop counts, issues it has had, and the skein it belongs to. -/
structure Head where
  word : Nat
  loops : List Nat
  rep : Nat
  skein : Option Skein
  deriving DecidableEq, Repr

/-- The first step of a core's queue that may issue, else the next step of its running skein (R336, R337). -/
def Core.head (k : Core) (c : Nat) (p : Piste) : Option Head :=
  match k.queueHead, p.skein, k.runningSkein with
  | some e, _, _ => some { word := e.word, loops := e.loops, rep := k.rep, skein := none }
  | none, some q, some (_, v) =>
    let cur := p.skeinPlace (c % 4) q v
    if cur.pc ≤ q + bodyLen (p.word q) then some { word := cur.pc, loops := cur.loops, rep := v.rep, skein := some v } else none
  | none, _, _ => none

/-- Base, own-repeat stride and loop strides of a place applied to the issue's indices. -/
def placeAt (l : List Nat) (i : Nat) (loops : List Nat) : Nat :=
  l.getD 0 0 + (((l.drop 1).zip (i :: loops)).map (fun p => p.1 * p.2)).sum

/-- The issue that the head of a core stands for: every field is the table's, the plan's or the skein's. -/
def Head.step (h : Head) (p : Piste) (l : StepPlace) : Step :=
  let w := p.word h.word
  { word := w, stride := if stepStridx w = 0 then 0 else p.word (stepStridx w), i := h.rep, l0 := h.loops.getD 0 0,
    l1 := h.loops.getD 1 0, l2 := h.loops.getD 2 0, l3 := h.loops.getD 3 0,
    qrow := (h.skein.map Skein.qrow).getD 0, atile := (h.skein.map Skein.tile).getD 0, head := (h.skein.map Skein.head).getD 0,
    key := (h.skein.map Skein.key).getD 0, rowBase := placeAt l.row h.rep h.loops + (h.skein.map Skein.orow).getD 0, group := placeAt l.group h.rep h.loops,
    ecc := .clean, parity := .clean }

/-- The step that a core issues next, without what its checks meet. -/
def State.headStep (s : State) (c : Nat) : Option Step :=
  match (s.core c).ctx with
  | some ctx =>
    let p := s.pisteAt (c / 4) ctx
    ((s.core c).head c p).map (fun h => h.step p (planPlace (s.kernel ctx).plan (c / 4) h.word))
  | none => none

/-- Where the step at the head of a core works; none where there is none. -/
def State.headPlace (s : State) (c : Nat) : Option StepPlace :=
  (s.core c).ctx.bind (fun ctx =>
    ((s.core c).head c (s.pisteAt (c / 4) ctx)).map (fun h => planPlace (s.kernel ctx).plan (c / 4) h.word))

/-- The role of the step at the head of a core (R189, R219). -/
def State.headRole (s : State) (c : Nat) : Nat := ((s.headPlace c).map StepPlace.role).getD 0

/-- The step at the head of a core takes its weft rows from the core's feeder queues (R139). -/
def State.headFed (s : State) (c : Nat) : Bool := (s.headPlace c).any StepPlace.fed

/-- A step without what its checks meet. -/
def plainStep (st : Step) : Step := { st with ecc := .clean, parity := .clean }

/-- The descriptor of the kernel for which a core issues a step now: the step is the one at the core's head. -/
def State.issuing (s : State) (c : Nat) (st : Step) : Option Desc :=
  let k := s.core c
  match k.ctx with
  | some ctx =>
    match s.pisteDesc (c / 4) ctx with
    | some x =>
      if c < 32 && (s.pisteAt (c / 4) ctx).checked && !k.endIssued
          && s.headStep c == some (plainStep st) then some x
      else none
    | none => none
  | none => none

/-- One issue of the step at a core's head done: after RPT + 1 of them the next step follows (R331). -/
def State.stepDone (s : State) (c : Nat) : State :=
  let k := { s.core c with hold := none, streamAt := 0 }
  match k.ctx with
  | none => s.setCore c k
  | some ctx =>
    let p := s.pisteAt (c / 4) ctx
    match k.queueHead, p.skein, k.runningSkein with
    | some e, _, _ =>
      if k.rep < stepRpt (p.word e.word) then s.setCore c { k with rep := k.rep + 1 }
      else (s.setCore c { k with queue := k.queue.drop 1, rep := 0 }).feed (c / 4) ctx feedFuel
    | none, some q, some (n, v) =>
      let cur := p.skeinPlace (c % 4) q v
      let v := if v.rep < stepRpt (p.word cur.pc) then { v with cur := cur, rep := v.rep + 1 }
        else { v with cur := p.next cur, rep := 0 }
      s.setCore c { k with skeins := putAt Skein.reset k.skeins n v }
    | none, _, _ => s.setCore c k

/-- A step of the array (R333): its holds and its feeders' bubbles are counted (R92, R95, R134, R540). -/
def State.arrayCycles (s : State) (c op : Nat) : State := if 0x10 ≤ op && op ≤ 0x15 then s.countBubbles c else s

/-- A step of an opcode with `width` operand bits issued on a core. -/
def State.issue (s : State) (c : Nat) (st : Step) (op width : Nat) (act : State → Desc → StepRes) : State :=
  match s.issuing c st with
  | some x =>
    if stepOp st.word != op then s
    else if !stepReserved st.word width then s.pisteStop x
    else match act s x with
      | .done t => (t.arrayCycles c op).stepDone c
      | .hold k => s.setCore c { s.core c with hold := some (k, st) }
      | .halt t => t.setCore c { t.core c with hold := some (.stream, st) }
      | .fault e => s.coreFault c e
      | .over t => t
  | none => s

/-- PISTE_NOP (R333); a reserved opcode stops the table here (R331). -/
def execPisteNop (core : Nat) (st : Step) (s : State) : Host.Outcome State Fault Refusal :=
  .next (match s.issuing core st with
    | some x => if stepOps.contains (stepOp st.word) then s.issue core st 0x00 0 (fun s _ => .done s) else s.pisteStop x
    | none => s)

/-- PISTE_END (R338): the END is the last step of a core's queue (R332). -/
def execPisteEnd (core : Nat) (st : Step) (s : State) : Host.Outcome State Fault Refusal :=
  .next (s.issue core st 0x01 0 (fun s _ => .done (s.setCore core { s.core core with endIssued := true })))

/-! ### KERNEL_END (R338, R460) -/

/-- Requests of a core's DMA that are outstanding. -/
def State.coreOuts (s : State) (c : Nat) (writes : Bool) : Bool :=
  s.ports.any (fun p => p.2.outs.any (fun o => match o.2 with
    | some r => r.core == c && (r.isWrite || !writes)
    | none => false))

/-- A core whose END has issued and whose work has retired (R338). -/
def State.coreEnded (s : State) (c : Nat) : Bool :=
  let k := s.core c
  k.endIssued && k.loomDue.isEmpty && k.posts.isEmpty && k.streams.isEmpty && !s.coreOuts c false

/-- The cores that a context's tables name. -/
def State.tableCores (s : State) (ctx : Nat) : List Nat :=
  (s.kernel ctx).plan.tables.flatMap (fun t => maskCores t.1 (s.pisteAt t.1 ctx).coreSet)

/-- A kernel that has ended: on every core its tables name, or its descriptor is gone. -/
def State.kernelOver (s : State) (ctx : Nat) : Bool :=
  let k := s.kernel ctx
  (k.live || k.paused) && (match s.desc? k.d with
    | some x => k.live && x.st == .running && k.plan.tables.all (fun t => (s.pisteAt t.1 ctx).checked) && !k.plan.tables.isEmpty
        && (s.tableCores ctx).all (fun c => (s.core c).ctx == some ctx && s.coreEnded c)
    | none => true)

/-- A core released at a kernel's end. -/
def Core.endKernel (k : Core) : Core :=
  { k.keepFlags true with
    regions := [], pairs := [], amClaim := 0, lastTake := none, feed := [], posts := [], inPosts := [], ctx := none,
    endIssued := false, queue := [], rep := 0, hold := none, streamAt := 0, streams := [], skeins := [] }.flipSeeds

/-- The histogram slot of a kernel's descriptor, where its output word asks for one, with the target's format (R75, R172,
R461). -/
def State.histSlot (s : State) (x : Desc) : Option (Run × Nat) :=
  let b := (s.kernel x.ctx).block
  match x.opcode with
  | 0x03 | 0x04 => let c := (matParams b).cc
    if c.hist then some (wrRun (x.field 40 8) 0 320, c.dst) else none
  | 0x05 => let n := normOf x.bytes
    if n.conv.hist then some (wrRun n.statref n.histOff 320, n.conv.dst) else none
  | 0x06 => let c := convOf (x.field 28 2)
    if c.hist then some (wrRun (x.field 56 8) 0 320, c.dst) else none
  | _ => none

/-- A kernel's histogram written before its completion record (R73 to R75). -/
def State.storeHist (s : State) (x : Desc) : State :=
  match s.histSlot x with
  | some (r, fmt) =>
    let k := s.kernel x.ctx
    s.withStore (s.putHistAt s.store x r { bins := k.bins, nans := k.nans, elems := k.elems } fmt k.hflags)
  | none => s

/-- The kernel of a context ended: waits end, cores, SS windows and tables are released, the descriptor retires, and
the clusters are at a kernel boundary. -/
def State.endKernel (s : State) (ctx : Nat) : State :=
  let k := s.kernel ctx
  let s := match s.desc? k.d with
    | some x => s.storeHist x
    | none => s
  let s := s.endWaits ctx
  let s := (s.kernelCores ctx).foldl (fun s c => s.setCore c (s.core c).endKernel) s
  let s := k.ssWins.foldl (fun s n => s.setSsWin n (s.ssWin n).closed) s
  let s := k.plan.tables.foldl (fun s t => s.setPiste t.1 ctx (s.pisteAt t.1 ctx).retired) s
  let s := s.setKernel ctx Kernel.reset
  let s := match s.desc? k.d with
    | some x => s.retire x 0 0
    | none => s
  s.kernelBoundary ctx (s.kernelReady ctx)

/-- What the store of a kernel's histogram meets at its end, where it does not resolve. -/
def State.histBad (s : State) (ctx : Nat) : Option (Desc × Run × Acc) :=
  match s.desc? (s.kernel ctx).d with
  | some x => match s.histSlot x with
    | some (r, _) => (s.firstBad x [r]).map (fun p => (x, p))
    | none => none
  | none => none

/-- KERNEL_END (R338). -/
def execKernelEnd (ctx : Nat) (s : State) : Host.Outcome State Fault Refusal :=
  .next (
    if ctx < 32 && s.serving && s.kernelOver ctx then match s.histBad ctx with
      | some (x, r, a) => s.conclude x (workOfAcc r a)
      | none => s.endKernel ctx
    else s)

end Sys2Proof.Machine
end

