-- ==== Sys2Proof/Machine/Tensors.lean ====
section
/-!
DEFINITION. The tensors that a kernel's descriptor names, and the sequences, rows and heads of its attention, as its steps
meet them (R64, R76, R115, R124, R183 to R191, R195, R216, R461).
-/

namespace Sys2Proof.Machine

/-! ### The attention of a kernel -/

/-- The attention that a kernel performs, from what it read at its start (R183, R184, R192, R196). -/
def State.kernelAttn (s : State) (x : Desc) : AttnIn :=
  let b := (s.kernel x.ctx).block
  let p := attnP b
  let l := b.drop (if x.opcode = 0x02 then 256 else 128)
  { bs := b.take 128, p := p, ents := (pieces 16 (l.take (16 * p.nseq))).map attnEnt,
    map := (l.drop (16 * p.nseq)).take p.mapBytes, freqs := f32List (l.drop (16 * p.nseq + p.mapBytes)) }

/-- The rows and keys of an entry with their positions (R191, R257). -/
def AttnIn.seqOf (i : AttnIn) (x : Desc) (e : AttnEnt) : AttnSeq :=
  let w := if i.p.bolt then x.views.find? (fun w => w.seq == e.krow) else none
  let (len, tree) : Nat × List Nat := match w with
    | some w => (w.len, w.tree.take w.nslot)
    | none => (e.klen, [])
  { row0 := e.qrow, rows := rowPositions i.p.qpos len e.qlen tree, keys := keyPositions len tree, tree := tree,
    q := [], k := [], v := [] }

/-- The entry whose query rows, or key rows, hold a row of a tensor. -/
def AttnIn.entAt (i : AttnIn) (key : Bool) (row : Nat) : Option AttnEnt :=
  i.ents.find? (fun e => if key then decide (e.krow ≤ row) && decide (row < e.krow + e.klen)
    else decide (e.qrow ≤ row) && decide (row < e.qrow + e.qlen))

/-- The position by which a row of Q, or of K, is rotated; none outside every sequence (R195). -/
def AttnIn.ropePos (i : AttnIn) (x : Desc) (key : Bool) (row : Nat) : Option Nat :=
  (i.entAt key row).map (fun e =>
    let a := i.seqOf x e
    if key then (a.keys.getD (row - e.krow) (0, none)).1 else (a.rows.getD (row - e.qrow) (0, none)).1)

/-- Heads of its group that a tile packs from a head on (R188): `r` rows in a tile. -/
def AttnP.packHeads (p : AttnP) (r head : Nat) : Nat := max 1 (min (min p.g r) (p.g - head % p.g))

/-- The products of attention whose output rows are query rows: forward QK and PV, backward S, dP and dQ (R189, R219). -/
def queryRows (op role : Nat) : Bool := op == 0x01 || (op == 0x02 && decide (4 ≤ role))

/-- The output row and the head of row `i` of a step's tile, packed position-major and head-minor where its rows are query
rows; on the key side a row is a key (R124, R188; log 61). -/
def State.tileRow (s : State) (x : Desc) (st : Step) (role i : Nat) : Nat × Nat :=
  let a := s.kernelAttn x
  if queryRows x.opcode role then
    let n := a.p.packHeads (if x.opcode = 0x01 then (a.p.tile (a.ents.map AttnEnt.qlen)).r else 128) st.head
    (st.rowBase + i / n, st.head + i % n)
  else (st.rowBase + i, st.head)

/-- Keys of a step's chunk: of its sequence, from the skein's first key on (R211). -/
def AttnIn.chunkKeys (i : AttnIn) (x : Desc) (st : Step) : Nat :=
  match i.entAt false st.rowBase with
  | some e =>
    let n := (i.seqOf x e).keys.length
    min n (if i.p.ksplit = 0 then n else st.key + i.p.ksplit) - st.key
  | none => 0

/-- Query cells over which a key-side product of a backward pass contracts: whole tiles of 128, and those of the last (R219). -/
def AttnIn.queryCells (i : AttnIn) (st : Step) : Nat :=
  match i.entAt true st.rowBase with
  | some e =>
    let ts := i.p.tiles 128 (st.head / i.p.g) e.qlen
    128 * (ts.length - 1) + ((ts.getLast?.map packed).getD []).length
  | none => 0

/-! ### Tensors on load (R64, R76) -/

/-- A tensor that a kernel loads: reference, stride in 64-byte units, bytes and elements of a row, its load word, and whether
its rows are rotated: as query rows (false) or as key rows. -/
structure Tensor where
  ref : Nat
  stride : Nat
  bytes : Nat
  width : Nat
  conv : ConvWord
  rope : Option Bool
  deriving DecidableEq, Repr

/-- A tensor of rows of `width` elements. -/
def tensorOf (ref stride width : Nat) (c : ConvWord) (rope : Option Bool) : Tensor :=
  { ref := ref, stride := stride, bytes := elemBytes c.src width, width := width, conv := c, rope := rope }

/-- The tensors that a kernel's descriptor names (R182, R216, R461). -/
def State.kernelTensors (s : State) (x : Desc) : List Tensor :=
  let b := (s.kernel x.ctx).block
  let p := attnP b
  let rope := fun (on key : Bool) => if on then some key else none
  match x.opcode with
  | 0x01 =>
    tensorOf (x.field 16 8) p.qs (p.hq * p.d) p.qc (rope p.ropeQ false)
      :: (if p.bolt then [] else
          [tensorOf (x.field 24 8) p.ks (p.hkv * p.d) p.kc (rope p.ropeK true),
           tensorOf (x.field 32 8) p.vs (p.hkv * p.d) p.vc none])
  | 0x02 =>
    let t := tensOf (b.drop 128)
    [tensorOf t.q p.qs (p.hq * p.d) p.qc (rope p.ropeQ false), tensorOf t.k p.ks (p.hkv * p.d) p.kc (rope p.ropeK true),
     tensorOf t.v p.vs (p.hkv * p.d) p.vc none, tensorOf t.dO p.os (p.hq * p.d) (convOf t.doconv) none]
  | 0x03 | 0x04 =>
    let m := matParams b
    let conv := x.opcode == 0x04
    [tensorOf (x.field 16 8) m.astride (m.aCols conv) m.ca none, tensorOf (x.field 24 8) m.bstride (m.bCols conv) m.cb none]
  | _ => []

/-- The row of a tensor, and the byte in the row, where a run begins. -/
def Tensor.place (t : Tensor) (r : Run) : Option (Nat × Nat) :=
  let o := r.start - refOffset t.ref
  let row := if t.stride = 0 then 0 else o / (64 * t.stride)
  if refHandle t.ref = refHandle r.ref ∧ refOffset t.ref ≤ r.start ∧ o - 64 * t.stride * row < t.bytes then
    some (row, o - 64 * t.stride * row)
  else none

/-- The tensor that a run of a kernel reads, with its row and the byte in the row: of several in one range the one that begins
last before the run. -/
def State.tensorAt (s : State) (x : Desc) (r : Run) : Option (Tensor × Nat × Nat) :=
  ((s.kernelTensors x).filterMap (fun t => (t.place r).map (fun q => (t, q)))).foldl
    (fun b t => match b with
      | some c => if refOffset c.1.ref < refOffset t.1.ref then some t else b
      | none => some t) none

/-- A part of an operand row rotated by its position, then converted for its place in the row (R76, R195). -/
def AttnP.rotatedPart (p : AttnP) (freqs : List Nat) (c : ConvWord) (seed : Nat) (r : RowPart) (n : Nat) (vs : List Value)
    (sup : List Byte) : RowOut :=
  let lead := r.first % p.d
  let (y, f) := mapFlags (fun h => p.rotate freqs n h) (pieces p.d (List.replicate lead (.fin false 0 0) ++ vs))
  let o := convPart { c with src := 0, sscale := false } p.iovf seed r ((y.flatten.drop lead).map f32Value) sup
  { o with flags := f ||| o.flags }

end Sys2Proof.Machine
end

