-- ==== Sys2Proof/Machine/Steps.lean ====
section
/-!
DEFINITION. What Piste steps do on a core's array, MVP, accumulator memory and SFU: PASS, SWAP, SHLOAD, TCLR, MVEC, MVMAT, SFU, EPI
(R78 to R97, R99 to R108, R120 to R136, R137, R154, R294 to R301, R310, R319 to R322, R348).
-/

namespace Sys2Proof.Machine

/-! ### Address fields (R334, R336) -/

/-- The signed strides of field A (`hi` false) or B of a stride entry: own repeat, then loop levels 0 to 3. -/
def strides (e : BitVec 128) (hi : Bool) : List Int :=
  (upTo 5).map (fun k => signedOf (bitsOf e.toNat (12 * k + if hi then 60 else 0) 12) 12)

/-- A field's value at a step's issue: base, strides and the skein's base, computed exactly. -/
def fieldAt (st : Step) (hi : Bool) (base : Nat) : Int :=
  ((strides st.stride hi).zip (st.i :: stepLoops st)).foldl (fun a p => a + p.1 * (p.2 : Int))
    ((base : Int) + (if hi then st.atile else st.qrow : Nat))

/-! ### Rows of a core's OSP (R294 to R301, R325, R348) -/

/-- What an access meets: it may go on, it is held (R326), or a first overflow. -/
inductive RowAcc where
  | ok | hold
  | fault (status : Nat)
  deriving DecidableEq, Repr

/-- The worse of two accesses: the first status in the order of R348, then a hold. -/
def RowAcc.worse : RowAcc → RowAcc → RowAcc
  | .fault a, .fault b => .fault (min a b)
  | .fault a, _ => .fault a
  | _, .fault b => .fault b
  | .hold, _ => .hold
  | _, r => r

/-- An engine's access to a physical row of a context's area, by its owner code (R296, R297, R326). -/
def Core.rowAcc (k : Core) (ctx : Nat) (wr : Bool) (code row : Nat) : RowAcc :=
  let b := k.bank (row / 512)
  if (if wr then b.wrown else b.rdown) != code then .fault 0x24
  else if (k.area ctx).clearing || b.st != .on || b.classClear then .hold
  else .ok

/-- The region slot that holds a physical row. -/
def Core.slotOf (k : Core) (row : Nat) : Option (Nat × Nat) :=
  (k.regions.find? (fun p => p.2.used && p.2.start ≤ row && row < p.2.start + p.2.nslot * p.2.slotRows)).map
    (fun p => (p.1, (row - p.2.start) / p.2.slotRows))

/-- An SFU or DMA write to a row of a slot that is FULL or HELD (R306). -/
def Core.slotShut (k : Core) (row : Nat) : Bool := (k.slotOf row).any (fun q =>
  [.full, .held].contains ((getAt Region.reset k.regions q.1).slots.getD q.2 .empty))

/-- `n` rows from a row relative to the area (R301, R306): what the accesses meet, and the first physical row. -/
def Core.relRows (k : Core) (ctx : Nat) (wr : Bool) (code : Nat) (rel : Int) (n : Nat) : RowAcc × Nat :=
  let a := k.area ctx
  if rel < 0 || (a.bound : Int) < rel + n then (.fault 0x20, 0)
  else
    let r := a.base + rel.toNat
    ((upTo n).foldl (fun w i => (w.worse (k.rowAcc ctx wr code (r + i))).worse
      (if wr && k.slotShut (r + i) then .fault 0x22 else .ok)) .ok, r)

/-- `n` physical rows of a core. -/
def Core.rows (k : Core) (r n : Nat) : List Byte := memRead k.osp (512 * r) (512 * n)

/-- Whole physical rows written; they are no longer poisoned (R322). -/
def Core.putRows (k : Core) (r : Nat) (bs : List Byte) : Core :=
  { k with osp := memWrite k.osp (512 * r) bs,
           poison := k.poison.filter (fun p => !(r ≤ p && p < r + bs.length / 512)) }

/-- Write-backs of rows that were written anew are cancelled (R321). -/
def State.dropWbacks (s : State) (c r n : Nat) : State :=
  { s with wback := s.wback.filter (fun p => match p with
      | .osp d row => !(d == c && r ≤ row && row < r + n)
      | .ss _ => true) }

/-- Whole physical rows of a core written. -/
def State.writeRowsAt (s : State) (c r : Nat) (bs : List Byte) : State :=
  (s.dropWbacks c r (bs.length / 512)).setCore c ((s.core c).putRows r bs)

/-- In-flight writes of a core's rows counted or, with `down`, given back (R324). -/
def Core.countWrites (k : Core) (row n : Nat) (down : Bool) : Core :=
  (upTo n).foldl (fun k i =>
    let b := k.bank ((row + i) / 512)
    k.setBank ((row + i) / 512) { b with wtag := if down then b.wtag - 1 else b.wtag + 1 }) k

/-! ### Rows of the SS (R307, R310) -/

/-- A core's access to `n` rows of an SS window, admitted: the first physical row. -/
def State.ssRows (s : State) (c ctx win : Nat) (wr : Bool) (off : Int) (n : Nat) : Option Nat :=
  let w := s.ssWin win
  if w.isOpen && (if wr then w.wr else w.rd) && w.cores.getLsbD c && w.ctx == ctx && (s.core c).ctx == some ctx && decide (0 ≤ off)
      && decide (off + n ≤ w.bound) then some (w.base + off.toNat)
  else none

/-- Whole SS rows written; they are no longer poisoned (R322). -/
def State.putSsRows (s : State) (r : Nat) (bs : List Byte) : State :=
  let n := bs.length / 512
  { s with ss := memWrite s.ss (512 * r) bs, ssPoison := s.ssPoison.filter (fun p => !(r ≤ p && p < r + n)),
           wback := s.wback.filter (fun p => match p with
             | .ss row => !(r ≤ row && row < r + n)
             | .osp _ _ => true) }

/-- The SS window that field SSW of a step of a context's kernel names (R311). -/
def State.kernelSsWin (s : State) (ctx i : Nat) : Nat := (s.kernel ctx).ssWins.getD i 128

/-! ### What reads meet (R319 to R322, R136) -/

/-- Where a read lies: an OSP row, an AM row numbered 128 * tile + row, or an SS row. -/
inductive ReadAt where
  | osp (row : Nat)
  | am (row : Nat)
  | ss (row : Nat)
  deriving DecidableEq, Repr

/-- UNIT, INDEX, row and DETAIL of a read's error (R464, R500, R501). -/
def ReadAt.unit (c : Nat) : ReadAt → Nat × Nat × Nat × Nat
  | .osp r => (0, c, r, c)
  | .am r => (0, c, r, c)
  | .ss r => (1, r % 64, r, 0xFFFE)

/-- A correctable error counted, and its write-back due (R321). -/
def State.corrected (s : State) (c : Nat) : ReadAt → State
  | .osp r => { s.countCorrected c with wback := s.wback ++ [.osp c r] }
  | .am _ => s.countCorrected c
  | .ss r => { s.countCorrectedSs with wback := s.wback ++ [.ss r] }

/-- An error that the one repeat cleared (R322, R484). -/
def State.readRetried (s : State) (x : Desc) (p : Nat × Nat × Nat × Nat) : State :=
  ((s.logEvent 0x01 1 p.1 p.2.1 p.2.2.1 x.ctx x.tag).noteRepeat 0x01 p.1 p.2.1 p.2.2.1).noteStatus x.did 0x31 p.2.2.2

/-- A row poisoned (R322). -/
def State.poisonRow (s : State) (c : Nat) : ReadAt → State
  | .osp r =>
    let k := s.core c
    if k.poison.contains r then s else s.setCore c { k with poison := k.poison ++ [r] }
  | .am _ => s
  | .ss r => if s.ssPoison.contains r then s else { s with ssPoison := s.ssPoison ++ [r] }

/-- A lasting error of a read: the row is poisoned and logged, and the context torn down (R322, R485). -/
def State.readLasting (s : State) (c : Nat) (x : Desc) (a : ReadAt) : State :=
  let p := a.unit c
  let s := (s.poisonRow c a).logEvent 0x02 2 p.1 p.2.1 p.2.2.1 x.ctx x.tag
  s.tearDown x.ctx 0x30 c p.2.2.2 (some x.did)

/-- The first poisoned row of a read. -/
def State.poisonedRow (s : State) (c : Nat) (rs : List ReadAt) : Option ReadAt :=
  rs.find? (fun a => match a with
    | .osp r => (s.core c).poison.contains r
    | .am _ => false
    | .ss r => s.ssPoison.contains r)

/-- What the code checks of reads of a core come to: the state in which they deliver data, or the one in which they do
not (R321, R322). -/
def State.checkRows (s : State) (c : Nat) (x : Desc) (ecc : EccOutcome) (rs : List ReadAt) : Bool × State :=
  match s.poisonedRow c rs, ecc with
  | some a, _ => (false, s.readLasting c x a)
  | none, .clean => (true, s)
  | none, .corrected i => (true, match rs[i]? with
    | some a => s.corrected c a
    | none => s)
  | none, .retried i => (true, match rs[i]? with
    | some a => s.readRetried x (a.unit c)
    | none => s)
  | none, .lasting i => match rs[i]? with
    | some a => (false, s.readLasting c x a)
    | none => (true, s)

/-- A step's reads with what their code checks met; it goes on where they deliver data. -/
def State.checkedRead (s : State) (c : Nat) (x : Desc) (ecc : EccOutcome) (rs : List ReadAt) (act : State → StepRes) : StepRes :=
  match s.checkRows c x ecc rs with
  | (true, t) => act t
  | (false, t) => .over t

/-- A source of rows on a core: its own OSP through a read port, or an SS window. -/
inductive RowSrc where
  | osp (code : Nat)
  | ss (win : Nat)
  deriving DecidableEq, Repr

/-- `n` rows from a row of a source: what the access meets, where the rows lie, and their bytes. -/
def State.source (s : State) (c ctx : Nat) (src : RowSrc) (rel : Int) (n : Nat) : RowAcc × List ReadAt × List Byte :=
  match src with
  | .osp code =>
    let (w, r) := (s.core c).relRows ctx false code rel n
    (w, (upTo n).map (fun i => .osp (r + i)), (s.core c).rows r n)
  | .ss win => match s.ssRows c ctx win false rel n with
    | some r => (.ok, (upTo n).map (fun i => .ss (r + i)), memRead s.ss (512 * r) (512 * n))
    | none => (.fault 0x25, [], [])

/-- An access that may go on; else its outcome. -/
def guardAcc (w : RowAcc) (act : Unit → StepRes) : StepRes :=
  match w with
  | .ok => act ()
  | .hold => .hold .bank
  | .fault e => .fault e

/-! ### Packing of rows in the OSP (R368; log 14) -/

/-- 64-byte units of a row of `b` bytes. -/
def rowUnit (b : Nat) : Nat := max 1 (ceilDiv b 64)
/-- OSP rows that `n` rows of `b` bytes take. -/
def packedRows (b n : Nat) : Nat :=
  let u := rowUnit b
  if u ≤ 8 then ceilDiv n (8 / u) else n * ceilDiv u 8
/-- Where row `i` begins. -/
def packedAt (b i : Nat) : Nat :=
  let u := rowUnit b
  if u ≤ 8 then 512 * (i / (8 / u)) + 64 * u * (i % (8 / u)) else 512 * ceilDiv u 8 * i
/-- OSP rows of `n` rows of `b` bytes with `sb` scale bytes each after them. -/
def blockRows (b sb n : Nat) : Nat := packedRows b n + ceilDiv (n * sb) 512
/-- Row `i` of a block of OSP rows. -/
def packedRow (bs : List Byte) (b i : Nat) : List Byte := blockBytes bs (packedAt b i) b
/-- The scale bytes of row `i` of a block of `n` rows. -/
def packedScales (bs : List Byte) (b sb n i : Nat) : List Byte := blockBytes bs (512 * packedRows b n + i * sb) sb

/-- Bytes padded with zeros to a multiple of `n`. -/
def padTo (n : Nat) (bs : List Byte) : List Byte := bs ++ List.replicate ((n - bs.length % n) % n) 0

/-- Rows of `b` bytes and their scale bytes as OSP rows. -/
def packBlock (b : Nat) (rows : List (List Byte)) (scales : List (List Byte)) : List Byte :=
  let u := rowUnit b
  let body := if u ≤ 8 then ((pieces (8 / u) (rows.map (padTo (64 * u)))).map (fun g => padTo 512 g.flatten)).flatten
    else (rows.map (padTo 512)).flatten
  body ++ padTo 512 scales.flatten

/-! ### The accumulator memory (R131 to R133) -/

/-- Row `r` of tile `t`: 128 patterns, or none where it is not valid. -/
def Core.amRow (k : Core) (t r : Nat) : Option (List Nat) :=
  if k.amValid.contains (128 * t + r) then some (f32List (memRead k.am (512 * (128 * t + r)) 512)) else none

/-- A row of AM stored, valid from then on (R121). -/
def Core.putAm (k : Core) (t r : Nat) (vs : List Nat) : Core :=
  let n := 128 * t + r
  { k with am := memWrite k.am (512 * n) (vs.flatMap (natLe 4)),
           amValid := if k.amValid.contains n then k.amValid else k.amValid ++ [n] }

/-- A row as a read finds it: +0 where it is not valid (R133). -/
def Core.readAm (k : Core) (t r : Nat) : List Nat := (k.amRow t r).getD (List.replicate 128 0)

/-- `n` tiles from field AMT lie within the kernel's claim (R132, R135). -/
def Core.tilesOk (k : Core) (t : Int) (n : Nat) : Bool := decide (0 ≤ t) && decide (t + n ≤ k.amClaim)

/-! ### Array passes (R78 to R104, R120 to R128) -/

/-- The arithmetic of one product of a kernel, as its descriptor's parameter blocks say: weft and stationary formats,
whether each carries scales, the scale code that every weft operand of a Z format takes (R198), ARND, iovf, the seed, and the
length of the contraction where it has one (R79, R115, R123, R124). -/
structure PassCtl where
  wfmt : Nat
  sfmt : Nat
  wscale : Bool
  sscale : Bool
  pow : Option Nat
  sr : Bool
  iovf : Bool
  seed : Nat
  k : Option Nat
  deriving DecidableEq, Repr

/-- The product of two loaded operands. -/
def ctlOf (w c : ConvWord) (acc seed : Nat) (k : Option Nat) : PassCtl :=
  { wfmt := w.dst, sfmt := c.dst, wscale := w.dscale != 0, sscale := c.dscale != 0, pow := none, sr := bitsOf acc 0 2 == 2,
    iovf := bitOf acc 2, seed := seed, k := k }

/-- An operand that the SFU wrote: it carries no scales. -/
def bareWord (fmt : Nat) : ConvWord := { convOf 0 with dst := fmt }

/-- The products of attention by role: forward QK and PV (R189); backward Sᵀ, dPᵀ, dV, dK, S, dP and dQ (R219). Over the head
dimension they contract d elements. -/
def attnCtl (p : AttnP) (dO : ConvWord) (bwd : Bool) (seed role : Nat) : PassCtl :=
  let pr := bareWord p.pfmt
  let f := fun w c k => ctlOf w c p.acc seed k
  match bwd, role with
  | false, 0 => f p.qc p.kc (some p.d)
  | false, _ => { f pr p.vc none with pow := if isZ p.pfmt then some p.pscale else none }
  | true, 0 => f p.kc p.qc (some p.d)
  | true, 1 => f p.vc dO (some p.d)
  | true, 2 => f pr dO none
  | true, 3 => f pr p.qc none
  | true, 4 => f p.qc p.kc (some p.d)
  | true, 5 => f dO p.vc (some p.d)
  | true, _ => f pr p.kc none

/-- The arithmetic of a kernel's product. In twill mode the contraction is a pass's channels. Kernels without an `iovf` bit
saturate integer targets (log 22). -/
def State.passCtl (s : State) (x : Desc) (role : Nat) : PassCtl :=
  let b := (s.kernel x.ctx).block
  match x.opcode with
  | 0x01 => attnCtl (attnP b) (convOf 0) false (x.field 56 4) role
  | 0x02 => attnCtl (attnP b) (convOf (tensOf (b.drop 128)).doconv) true (x.field 24 4) role
  | 0x03 | 0x04 => let p := matParams b
    ctlOf p.ca p.cb p.acc (x.field 48 4) (some (p.depth (x.opcode == 0x04)))
  | 0x06 => { ctlOf (convOf 0) (convOf 0) 0 (x.field 52 4) none with iovf := true }
  | _ => { ctlOf (convOf 0) (convOf 0) 0 0 none with iovf := true }

/-- The arithmetic of the product of a step: the other products of attention contract the keys of the step's chunk, or the query
cells of its sequence (R115, R211, R219). -/
def State.stepCtl (s : State) (x : Desc) (st : Step) (role : Nat) : PassCtl :=
  let p := s.passCtl x role
  let i := s.kernelAttn x
  if p.k.isSome then p
  else if x.opcode = 0x01 ∨ (x.opcode = 0x02 ∧ role = 6) then { p with k := some (i.chunkKeys x st) }
  else if x.opcode = 0x02 then { p with k := some (i.queryCells st) }
  else p

/-- Of `n` contraction positions from group `g` on, those within the contraction: the rest are +0, and groups wholly of
them are never formed (R96, R115). -/
def PassCtl.live (p : PassCtl) (g n : Nat) : Nat := match p.k with
  | some k => min n (k - 32 * g)
  | none => n

/-- Weft operands of a product as the array sees them. -/
def PassCtl.weft (p : PassCtl) (vs : List Value) : List Value := match p.pow with
  | some e => vs.map (applyScale e)
  | none => vs

/-- A weft operand vector: row `i` of a block of OSP rows in the weft format (log 14). -/
def weftRow (p : PassCtl) (bs : List Byte) (k n i : Nat) : List Value :=
  let b := elemBytes p.wfmt k
  p.weft (valuesOf p.wfmt (unpack p.wfmt k (packedRow bs b i))
    (if p.wscale then some (packedScales bs b (scaleBytes k) n i) else none))

/-- OSP rows of `n` weft rows of `k` operands. -/
def weftRows (p : PassCtl) (k n : Nat) : Nat := blockRows (elemBytes p.wfmt k) (if p.wscale then scaleBytes k else 0) n

/-- Bytes of a column line (R80). -/
def lineBytes (fmt : Nat) : Nat := if fmt = 5 then 512 else 256

/-- The stationary operands of output `o` of column `c`: `n` operands from the line, +0 where the set was never loaded
(R80, R81); a format narrower than the class starts at the line's first byte (DESIGN CHOICE, log 60). -/
def Stationary.operands (r : Stationary) (p : PassCtl) (o c n : Nat) : List Value :=
  if !r.loaded then List.replicate n (.fin false 0 0)
  else
    let per := lineBytes p.sfmt * 8 / containerBits p.sfmt
    let codes := (unpack p.sfmt per (blockBytes r.lines (lineBytes p.sfmt * c) (lineBytes p.sfmt))).drop (o * n)
    valuesOf p.sfmt (codes.take n)
      (if p.sscale then some (blockBytes r.scales ((c * per + o * n) / 32) (n / 32)) else none)

/-- The accumulation control of a kernel's passes on a core (R123, R124). -/
def State.passAcc (s : State) (c : Nat) (x : Desc) (p : PassCtl) (mvp : Bool) : AccCtl :=
  let l := ((s.kernel x.ctx).plan.cores.find? (fun q => q.core == c)).map CorePlan.lcore
  { sr := p.sr, seed := p.seed, core := l.getD 0, mvp := mvp, iovf := p.iovf }

/-- One row of an output slice: the old row where it is valid, its factor, a weft vector, the stationary vectors. A factor
on integer operands is not applied (DESIGN CHOICE, log 51: R122 speaks of FP32 rows). -/
def passRow (ints : Bool) (a : AccCtl) (m g : Nat) (col : Nat → Nat) (factor : Option Nat) (old : Option (List Nat)) (w : List Value)
    (ys : List (List Value)) : List Nat × FlagSet :=
  mapFlags (fun q : List Value × Nat =>
    let o := old.map (fun r => r.getD q.2 0)
    let (o, f₀) : Option Nat × FlagSet := match factor with
      | some v => if ints then (o, 0) else rowFactor v o
      | none => (o, 0)
    let (r, f₁) := dotRow ints a m (col q.2) g o w q.1
    (r.getD 0, f₀ ||| f₁)) ys.zipIdx

/-- Rows of tiles stored with the flags raised on the way. -/
def State.storeAm (s : State) (c : Nat) (x : Desc) (rows : List (Nat × Nat × List Nat)) (f : FlagSet) : State :=
  let k := rows.foldl (fun (k : Core) r => k.putAm r.1 r.2.1 r.2.2) (s.core c)
  ((s.setCore c k).raiseArray c f).raiseDesc x.did f

/-- The padding of a CONV's kernel (R102). -/
def State.kernelPad (s : State) (x : Desc) : Nat :=
  if x.opcode = 0x04 then (matParams (s.kernel x.ctx).block).pad else 0

/-- A vector padded with +0 to whole groups. -/
def padGroups (v : List Value) : List Value := v ++ List.replicate ((32 - v.length % 32) % 32) (.fin false 0 0)

/-- The weft vectors of a pass by output row: the rows read, or in twill mode the three neighbours of each output pixel,
`rows.length` input pixels giving `rows.length + 2 * pad - 2` of them (R102, R103; MROWS counts input pixels: DESIGN CHOICE,
log 52). -/
def passWeft (twill : Bool) (pad : Nat) (rows : List (List Value)) (k : Nat) : List (List Value) :=
  if twill then
    (upTo (rows.length + 2 * pad - 2)).map (fun i =>
      (upTo 3).flatMap (fun dx =>
        padGroups (if pad ≤ i + dx && i + dx - pad < rows.length then rows.getD (i + dx - pad) []
          else List.replicate k (.fin false 0 0))))
  else rows

/-- Contraction positions of a pass from its step's group that lie within the contraction: of a weft row, or in twill mode
of a pixel's channels, whose blocks have nine taps each (R103, R115). -/
def State.passLive (s : State) (x : Desc) (p : PassCtl) (twill : Bool) (g : Geom) (group : Nat) : Nat :=
  if twill then min g.k ((matParams (s.kernel x.ctx).block).k - group / (9 * g.vk) * g.k) else p.live group g.k

/-- The stationary vector that a pass meets in output `o` of a column: the operands of the line's live positions. -/
def Stationary.passOperands (r : Stationary) (p : PassCtl) (twill : Bool) (g : Geom) (kk o c : Nat) : List Value :=
  if twill then
    let v := r.operands p o c (3 * g.k)
    (upTo 3).flatMap (fun dx => padGroups (((v.drop (dx * g.k)).take g.k).take kk))
  else (r.operands p o c g.k).take kk

/-- The fields of a PASS (R333). -/
structure PassArgs where
  wrow : Int
  amt : Int
  rows : Nat
  shape : Nat
  pair : Nat
  src : RowSrc
  fact : Bool
  frow : Nat
  deriving DecidableEq, Repr

/-- The fields of a PASS step of a context. -/
def State.passArgs (s : State) (ctx : Nat) (st : Step) : PassArgs :=
  let w := st.word
  { wrow := fieldAt st false (stepArg w 0 18), amt := fieldAt st true (stepArg w 18 4), rows := stepArg w 22 7 + 1,
    shape := stepArg w 29 2, pair := stepArg w 31 2,
    src := if stepArg w 33 1 = 1 then .ss (s.kernelSsWin ctx (stepArg w 34 3)) else .osp 1,
    fact := stepArg w 37 1 == 1, frow := stepArg w 38 13 }

/-- A pass performed: its results by tile and row; one without a group left changes nothing. -/
def State.passDo (s : State) (c : Nat) (st : Step) (x : Desc) (p : PassCtl) (a : PassArgs) (g : Geom) (kk : Nat)
    (bs factors : List Byte) : State :=
  let k := s.core c
  let ints := isIntOperand p.wfmt
  let twill := a.shape == 3
  let ws := if kk = 0 then [] else passWeft twill (s.kernelPad x) ((upTo a.rows).map (weftRow p bs kk a.rows)) kk
  let acc := s.passAcc c x p false
  let outs := (upTo g.slices).flatMap (fun o =>
    let ys := (upTo 128).map (fun col => k.act.passOperands p twill g kk o col)
    ws.zipIdx.map (fun w =>
      let t := a.amt.toNat + o
      let r := passRow ints acc (s.tileRow x st (s.headRole c) w.2).1 st.group id
        (if a.fact then some (fieldOf factors (4 * w.2) 4) else none) (k.amRow t w.2) w.1 ys
      ((t, w.2, r.1), r.2)))
  s.storeAm c x (outs.map Prod.fst) (orFlags (outs.map Prod.snd))

/-- The rows of AM that an update reads: the valid ones (R136). -/
def Core.amReads (k : Core) (rows : List (Nat × Nat)) : List ReadAt :=
  (rows.filter (fun r => k.amValid.contains (128 * r.1 + r.2))).map (fun r => .am (128 * r.1 + r.2))

/-- Rows of 128 operands that a weft row takes from the feeder queues (R139). -/
def fedPer (g : Geom) : Nat := max 1 (g.k / 128)

/-- Weft rows from a core's feeder queues, as a block of OSP rows holds them. -/
def Core.fedBlock (k : Core) (p : PassCtl) (g : Geom) (kk rows : Nat) : List Byte :=
  let b := elemBytes p.wfmt kk
  packBlock b ((upTo rows).map (fun i => ((slice k.feed (fedPer g * i) (fedPer g * (i + 1))).flatten).take b)) []

/-- Rows of 128 operands taken from a core's feeder queues. -/
def State.takeFeed (s : State) (c n : Nat) : State := s.setCore c { s.core c with feed := (s.core c).feed.drop n }

/-- A PASS (R82 to R87, R120 to R128, R132, R135, R139). -/
def State.passStep (s : State) (c : Nat) (st : Step) (x : Desc) : StepRes :=
  let k := s.core c
  let p := s.stepCtl x st (s.headRole c)
  let a := s.passArgs x.ctx st
  match geomOf a.shape a.pair (max (widthClass p.wfmt) (widthClass p.sfmt)) with
  | none => .fault 0x03
  | some g =>
    let kk := s.passLive x p (a.shape == 3) g st.group
    let (w, ats, bs) : RowAcc × List ReadAt × List Byte :=
      if s.headFed c then (.ok, [], k.fedBlock p g kk a.rows)
      else if kk = 0 then (.ok, [], []) else s.source c x.ctx a.src a.wrow (weftRows p kk a.rows)
    let fed := if s.headFed c then fedPer g * a.rows else 0
    let (f, fats, fs) : RowAcc × List ReadAt × List Byte :=
      if a.fact then s.source c x.ctx (.osp 4) a.frow 1 else (.ok, [], [])
    let t : RowAcc := if k.tilesOk a.amt g.slices then .ok else .fault 0x21
    let ams := k.amReads ((upTo g.slices).flatMap (fun o => (upTo a.rows).map (fun r => (a.amt.toNat + o, r))))
    guardAcc ((w.worse f).worse t) (fun _ =>
      if k.feed.length < fed then .hold .feed
      else s.checkedRead c x st.ecc (ats ++ fats ++ ams) (fun s => .done ((s.passDo c st x p a g kk bs fs).takeFeed c fed)))

/-- PASS (R85). -/
def execPass (core : Nat) (st : Step) (s : State) : Host.Outcome State Fault Refusal :=
  .next (s.issue core st 0x10 51 (fun s x => s.passStep core st x))

/-- SWAP (R90, R92): the active and shadow sets exchange once the shadow load is complete. -/
def execSwap (core : Nat) (st : Step) (s : State) : Host.Outcome State Fault Refusal :=
  .next (s.issue core st 0x11 0 (fun s _ =>
    let k := s.core core
    if k.shdFull then .done (s.setCore core { k with act := k.shd, shd := k.act, shdFull := false }) else .hold .swap))

/-- The physical row of a slot that a core took last. -/
def Core.takenRow (k : Core) (ctx : Nat) : Option Nat :=
  match k.lastTake with
  | some (n, slot) =>
    let r := getAt Region.reset k.regions n
    if r.used && r.ctx == ctx && r.slots.getD slot .empty == .held then some (r.start + slot * r.slotRows) else none
  | none => none

/-- Scale bytes of a stationary tile: one per 32 operands of its 128 lines (R80). -/
def tileScales (fmt : Nat) : Nat := 128 * (lineBytes fmt * 8 / containerBits fmt) / 32

/-- SHLOAD (R80, R91, R93). -/
def State.shloadStep (s : State) (c : Nat) (st : Step) (x : Desc) : StepRes :=
  let k := s.core c
  let p := s.stepCtl x st (s.headRole c)
  let w := st.word
  let scaled := stepArg w 26 1 == 1
  let base : Option Int := if stepArg w 27 1 = 1 then
      (k.takenRow x.ctx).map (fun r => (r : Int) - (k.area x.ctx).base) else some 0
  let (a, ats, bs) : RowAcc × List ReadAt × List Byte := match base with
    | none => (.fault 0x22, [], [])
    | some base => s.source c x.ctx (.osp 2) (base + fieldAt st false (stepArg w 0 13)) (lineBytes p.sfmt / 4)
  let (b, bts, sc) : RowAcc × List ReadAt × List Byte :=
    if scaled then s.source c x.ctx (.osp 2) (fieldAt st true (stepArg w 13 13)) (ceilDiv (tileScales p.sfmt) 512)
    else (.ok, [], [])
  guardAcc (a.worse b) (fun _ =>
    if k.shdFull then .hold .shload
    else s.checkedRead c x st.ecc (ats ++ bts) (fun s =>
      .done (s.setCore c { s.core c with shd := { loaded := true, lines := bs, scales := sc }, shdFull := true })))

/-- SHLOAD (R91). -/
def execShload (core : Nat) (st : Step) (s : State) : Host.Outcome State Fault Refusal :=
  .next (s.issue core st 0x12 28 (fun s x => s.shloadStep core st x))

/-- TCLR (R133). -/
def execTclr (core : Nat) (st : Step) (s : State) : Host.Outcome State Fault Refusal :=
  .next (s.issue core st 0x13 4 (fun s _ =>
    let k := s.core core
    let t := fieldAt st true (stepArg st.word 0 4)
    if k.tilesOk t 1 then .done (s.setCore core { k with amValid := k.amValid.filter (fun n => (n / 128 : Nat) != t.toNat) })
    else .fault 0x21))

/-! ### The MVP (R105 to R108, R343) -/

/-- MVEC: up to four vectors into the vector buffer, each its elements and its scale bytes (R105). -/
def State.mvecStep (s : State) (c : Nat) (st : Step) (x : Desc) : StepRes :=
  let p := s.stepCtl x st (s.headRole c)
  let m := stepArg st.word 13 2 + 1
  let k := 32 * (stepArg st.word 15 7 + 1)
  let b := elemBytes p.wfmt k
  let (w, ats, bs) := s.source c x.ctx (.osp 3) (fieldAt st false (stepArg st.word 0 13)) (weftRows p k m)
  guardAcc w (fun _ => s.checkedRead c x st.ecc ats (fun s =>
    let vs := (upTo m).map (fun i =>
      packedRow bs b i ++ (if p.wscale then packedScales bs b (k / 32) m i else List.replicate (k / 32) 0))
    .done (s.setCore c { s.core c with mvp := vs })))

/-- MVEC (R105). -/
def execMvec (core : Nat) (st : Step) (s : State) : Host.Outcome State Fault Refusal :=
  .next (s.issue core st 0x14 22 (fun s x => s.mvecStep core st x))

/-- Contraction operands of the vectors in the buffer. -/
def Core.mvpK (k : Core) (fmt : Nat) : Nat := 32 * ((k.mvp.headD []).length / (4 * containerBits fmt + 1))

/-- Vector `m` of the buffer in internal form. -/
def Core.mvpVec (k : Core) (p : PassCtl) (m : Nat) : List Value :=
  let n := k.mvpK p.wfmt
  let v := k.mvp.getD m []
  p.weft (valuesOf p.wfmt (unpack p.wfmt n v) (if p.wscale then some (v.drop (elemBytes p.wfmt n)) else none))

/-- Matrix line `i` of `n` streamed lines of `k` operands. -/
def matrixLine (p : PassCtl) (bs : List Byte) (k n i : Nat) : List Value :=
  let b := elemBytes p.sfmt k
  valuesOf p.sfmt (unpack p.sfmt k (packedRow bs b i)) (if p.sscale then some (packedScales bs b (k / 32) n i) else none)

/-- Where MVMAT stores outputs of vector `m` from output `n0` on (R343): tile and row. -/
def mvpPlace (amt m n0 : Nat) : Nat × Nat := (amt + n0 / 4096, 32 * m + n0 % 4096 / 128)

/-- The output index from which an MVP draw starts: outputs go in passes of 2,048 (R125). -/
def mvpIndex (n : Nat) : Nat := n % 2048

/-- The results of MVMAT by tile and row (R343): outputs of a vector fill rows of 128 columns. Columns that no line
produces keep what a valid row holds, and are +0 in a row that becomes valid (DESIGN CHOICE, log 53). -/
def State.mvmatDo (s : State) (c : Nat) (st : Step) (x : Desc) (p : PassCtl) (amt n : Nat) (bs : List Byte) : State :=
  let k := s.core c
  let kk := k.mvpK p.wfmt
  let live := p.live st.group kk
  let ys := ((upTo n).map (fun i => (matrixLine p bs kk n i).take live)).zipIdx
  let outs := if live = 0 then [] else (upTo k.mvp.length).flatMap (fun m =>
    (pieces 128 ys).map (fun q =>
      let n0 := (q.headD ([], 0)).2
      let (t, r) := mvpPlace amt m n0
      let old := k.amRow t r
      let v := passRow (isIntOperand p.wfmt) (s.passAcc c x p true) (s.tileRow x st (s.headRole c) m).1 st.group (fun col => mvpIndex (n0 + col))
        none old ((k.mvpVec p m).take live) (q.map Prod.fst)
      ((t, r, v.1 ++ ((old.getD (List.replicate 128 0)).drop v.1.length)), v.2)))
  s.storeAm c x (outs.map Prod.fst) (orFlags (outs.map Prod.snd))

/-- MVMAT (R105, R343). -/
def State.mvmatStep (s : State) (c : Nat) (st : Step) (x : Desc) : StepRes :=
  let k := s.core c
  let p := s.stepCtl x st (s.headRole c)
  let w := st.word
  let n := stepArg w 22 12 + 1
  let amt := fieldAt st true (stepArg w 18 4)
  let kk := k.mvpK p.wfmt
  let src := if stepArg w 34 1 = 1 then RowSrc.ss (s.kernelSsWin x.ctx (stepArg w 35 3)) else .osp 3
  let (a, ats, bs) := s.source c x.ctx src (fieldAt st false (stepArg w 0 18))
    (blockRows (elemBytes p.sfmt kk) (if p.sscale then kk / 32 else 0) n)
  let t : RowAcc := if k.tilesOk amt (ceilDiv n 4096) then .ok else .fault 0x21
  let ams := k.amReads ((upTo k.mvp.length).flatMap (fun m =>
    (upTo (ceilDiv n 128)).map (fun i => mvpPlace amt.toNat m (128 * i))))
  guardAcc (a.worse t) (fun _ => s.checkedRead c x st.ecc (ats ++ ams) (fun s =>
    .done (s.mvmatDo c st x p amt.toNat n bs)))

/-- MVMAT (R105). -/
def execMvmat (core : Nat) (st : Step) (s : State) : Host.Outcome State Fault Refusal :=
  .next (s.issue core st 0x15 38 (fun s x => s.mvmatStep core st x))

/-! ### The SFU (R137, R139, R333; log 15) -/

/-- The epilogue block of a kernel's descriptor: GEMM's and CONV's, SFU_MAP's, else one that holds only the SFU control
word (R141, R154; log 15). -/
def State.kernelEpi (s : State) (x : Desc) : EpiBlock :=
  let b := (s.kernel x.ctx).block
  match x.opcode with
  | 0x01 | 0x02 => { ctl := (attnP b).sfu, scale := 0, vec := 0 }
  | 0x03 | 0x04 => (matParams b).epi
  | 0x05 => { ctl := (normOf x.bytes).ctl, scale := 0, vec := 0 }
  | 0x06 => epiBlock x.bytes 32
  | 0x07 => { ctl := (mergeOf x.bytes).sfu, scale := 0, vec := 0 }
  | _ => { ctl := 0, scale := 0, vec := 0 }

/-- Length of the kernel's vectors BIAS and SCALE (R158, R159). -/
def State.kernelVec (s : State) (x : Desc) : Nat :=
  match x.opcode with
  | 0x03 | 0x04 => (matParams (s.kernel x.ctx).block).n
  | 0x06 => x.field 48 4
  | _ => 0

/-- The place in the output rows of a kernel of element `col` of row `i` of a step's tile (R64): an SFU_MAP has one row, and a
row of attention holds its heads, those of K and V in dV and dK. -/
def State.outPartOf (s : State) (x : Desc) (st : Step) (role i col nx : Nat) : RowPart :=
  let b := (s.kernel x.ctx).block
  let p := attnP b
  let (row, head) := s.tileRow x st role i
  match x.opcode with
  | 0x01 => { y := row, len := p.hq * p.d, first := head * p.d + col }
  | 0x02 =>
    if queryRows 0x02 role then { y := row, len := p.hq * p.d, first := head * p.d + col }
    else { y := row, len := p.hkv * p.d, first := head / p.g * p.d + col }
  | 0x03 | 0x04 => { y := row, len := (matParams b).n, first := col }
  | 0x05 => { y := row, len := (normOf x.bytes).len, first := col }
  | 0x06 => { y := 0, len := x.field 24 4, first := row * nx + col }
  | 0x07 => { y := row, len := (mergeOf x.bytes).d, first := col }
  | _ => { y := row, len := col + nx, first := col }

/-- The environment in which a core's SFU evaluates (R147). -/
def State.sfuEnv (s : State) (c : Nat) (x : Desc) : SfuEnv := envOf (s.kernelEpi x).ctl (s.core c).recovering

/-- Flags of the SFU raised on a core and in the descriptor (R140). -/
def State.sfuFlags (s : State) (c : Nat) (x : Desc) (f : FlagSet) : State := (s.raiseSfu c f).raiseDesc x.did f

/-- ECC_RETRIED where a step used a function in recovery on its core (R148, R149). -/
def State.noteRecovery (s : State) (c : Nat) (x : Desc) (uses : List Nat) : State :=
  if recoveryStatus (s.core c).recovering uses = 0x31 then s.noteStatus x.did 0x31 c else s

/-- A parity error of a function's tables that the repeated bundle did not meet again (R148, R484). -/
def State.parityRetried (s : State) (c : Nat) (x : Desc) (fn : Nat) : State :=
  ((s.logEvent 0x03 1 0 c fn x.ctx x.tag).noteRepeat 0x03 0 c fn).noteStatus x.did 0x31 c

/-- A lasting parity error ends the descriptor: under STRICT, and in table mode (R148). -/
def State.parityEnds (s : State) (c : Nat) (x : Desc) (fn : Nat) : Bool :=
  let w := (s.kernelEpi x).ctl
  bitOf w 4 || bitOf w 3 || (s.core c).recovering.contains fn

/-- The bundles of a step that evaluates built-in functions, with what the parity checks of their tables met (R148): a
lasting error puts the function in recovery on the core, or ends the descriptor in ECC_UNCORR. -/
def State.parityChecked (s : State) (c : Nat) (x : Desc) (uses : List Nat) (p : ParityOutcome) (act : State → StepRes) :
    StepRes :=
  match p with
  | .clean => act (s.noteRecovery c x uses)
  | .retried fn => act ((if uses.contains fn then s.parityRetried c x fn else s).noteRecovery c x uses)
  | .lasting fn =>
    if !uses.contains fn then act (s.noteRecovery c x uses)
    else if s.parityEnds c x fn then .over (s.coreFault c 0x30)
    else act ((s.seedFallback (c, fn)).noteRecovery c x uses)

/-- The elements of row `i` of an SFU step as FP32 patterns: of an AM row, an integer kernel's converted, or of OSP bytes
decoded (R76, R139). -/
def sfuInput (g : SfuProg) (env : SfuEnv) (am : List Nat) (bs : List Byte) (n i : Nat) : List Nat × FlagSet :=
  let c := convOf g.conv
  if g.fromOsp then
    let b := elemBytes c.src 128
    sfuLoad env.mode c (unpack c.src 128 (packedRow bs b i)) (packedScales bs b 4 n i)
  else if c.src = 0xB then mapFlags (i32ToF32 env.mode) am
  else (am, 0)

/-- Rows converted for a kernel's target that a step keeps in a scratchpad: their flags are the target's (R74). -/
def State.noteTarget (s : State) (x : Desc) (fmt : Nat) (rows : List RowOut) : State :=
  let k := s.kernel x.ctx
  if (s.histSlot x).any (fun h => h.2 == fmt) then
    s.setKernel x.ctx { k with hflags := k.hflags ||| orFlags (rows.map RowOut.own) }
  else s

/-- What an SFU step gives: OSP rows from OROW on, the same rows as 128 operands each for the feeder queues, its row of factors,
the new statistics of its skein's rows, and the rows that it converted. -/
structure SfuOut where
  osp : List Byte
  feed : List (List Byte)
  factors : List Byte
  stats : List (Nat × Nat)
  rows : List RowOut
  flags : FlagSet
  deriving DecidableEq, Repr

/-- A row's bytes as rows of 128 operands. -/
def feedRows (fmt : Nat) (codes : List Nat) : List (List Byte) := (pieces 128 codes).map (pack fmt)

/-- A micro-program over `n` rows of 128 elements, their results converted (R139, R162). -/
def State.sfuMap (s : State) (c : Nat) (st : Step) (x : Desc) (g : SfuProg) (t n : Nat) (bs : List Byte) : SfuOut :=
  let env := s.sfuEnv c x
  let p := s.passCtl x 0
  let cv := convOf g.conv
  let rows := (upTo n).map (fun i =>
    let (v, f₀) := sfuInput g env ((s.core c).readAm t i) bs n i
    let (u, f₁) := mapFlags (microRun env g.image) v
    let o := convRowPart { cv with src := 0, sscale := false } p.iovf p.seed
      (s.outPartOf x st (s.headRole c) i st.group 128) u none (cv.supplied (s.scaleDraw 5) i 128)
    { o with flags := f₀ ||| f₁ ||| o.flags })
  { osp := packBlock (elemBytes cv.dst 128) (rows.map (fun o => pack cv.dst o.codes)) (rows.map RowOut.scales),
    feed := rows.flatMap (fun o => feedRows cv.dst o.codes), factors := [], stats := [], rows := rows,
    flags := orFlags (rows.map RowOut.flags) }

/-- The tile row of attention that row `i` of a step holds: (row, head), or none where it carries no query row (R188, R202). -/
def State.queryRow (s : State) (x : Desc) (st : Step) (i : Nat) : Option (Nat × Nat) :=
  let a := s.tileRow x st 0 i
  match (s.kernelAttn x).entAt false st.rowBase with
  | some e => if a.1 < e.qrow + e.qlen then some a else none
  | none => none

/-- The attention tile of a kernel (R189). -/
def State.attnTile (s : State) (x : Desc) : AttnTile :=
  let i := s.kernelAttn x
  i.p.tile (i.ents.map AttnEnt.qlen)

/-- Operands of a weft row of the PV passes of a kernel (R189). -/
def State.pvDepth (s : State) (x : Desc) : Nat :=
  let i := s.kernelAttn x
  match i.p.passTile (i.ents.map AttnEnt.qlen) true with
  | .pass shape pair _ =>
    ((geomOf shape pair (max (widthClass i.p.pfmt) (widthClass i.p.vc.dst))).map Geom.k).getD (s.attnTile x).kb
  | .mvp => (s.attnTile x).kb

/-- `n` elements from element 0 of row `i` of a product in AM: slices of 128 columns in tiles from `t` on, or on the MVP rows of one
tile (R131, R343). -/
def Core.amElems (k : Core) (mvp : Bool) (t i n : Nat) : List Nat :=
  ((upTo (ceilDiv n 128)).flatMap (fun o => if mvp then k.readAm t (32 * i + o) else k.readAm (t + o) i)).take n

/-- The AM rows of that. -/
def amElemRows (mvp : Bool) (t i n : Nat) : List (Nat × Nat) :=
  (upTo (ceilDiv n 128)).map (fun o => if mvp then (t, 32 * i + o) else (t + o, i))

/-- The statistics of row `i` of a skein: m = −∞ and l = +0 until its first key block (R198). -/
def Skein.stat (v : Skein) (i : Nat) : Nat × Nat := v.stats.getD i (negInf, 0)

/-- The softmax of the scores of one key block, `n` rows of a tile (R193, R198 to R200, R202). -/
def State.sfuSoftmax (s : State) (c : Nat) (st : Step) (x : Desc) (v : Skein) (t n : Nat) : SfuOut :=
  let i := s.kernelAttn x
  let p := i.p
  let tl := s.attnTile x
  let ctl : SoftCtl :=
    { pre := p.pre, pfmt := p.pfmt, pscale := p.pscale, env := s.sfuEnv c x, kb := tl.kb,
      acc := { sr := false, seed := 0, core := 0, mvp := tl.mvp, iovf := false } }
  let nk := min tl.kb (i.chunkKeys x st - 32 * st.group)
  let rows := (upTo n).map (fun r =>
    let sc := (s.core c).amElems tl.mvp t r nk
    match s.queryRow x st r, i.entAt false st.rowBase with
    | some q, some e =>
      let see := ((i.seqOf x e).sees p i.map (q.1 - e.qrow) q.2).drop (st.key + 32 * st.group)
      softRow ctl (v.stat r).1 (v.stat r).2 ((sc.zip see).map (fun z => if z.2 then z.1 else negInf))
    | _, _ => { softRow ctl negInf 0 (sc.map (fun _ => negInf)) with flags := 0 })
  let codes := rows.map (fun r => r.codes ++ List.replicate (tl.kb - r.codes.length) 0)
  let w := s.pvDepth x
  let parts := (upTo (ceilDiv tl.kb w)).map (fun j => codes.map (fun r => slice r (w * j) (w * (j + 1))))
  { osp := parts.flatMap (fun rs => packBlock (elemBytes p.pfmt w) (rs.map (pack p.pfmt)) []),
    feed := parts.flatMap (fun rs => rs.flatMap (feedRows p.pfmt)),
    factors := padTo 512 (rows.flatMap (fun r => natLe 4 r.alpha)), stats := rows.map (fun r => (r.m, r.l)), rows := [],
    flags := orFlags (rows.map SoftRow.flags) }

/-- Finished rows as O rows and their LSE entries, or as partial records (R201, R209). -/
def State.sfuFinished (s : State) (c : Nat) (st : Step) (x : Desc) (g : SfuProg) (part lse : Bool) (ps : List Part3)
    (fs : List FlagSet) : SfuOut :=
  let p := (s.kernelAttn x).p
  let cv := { convOf g.conv with src := 0, sscale := false }
  if part then
    { osp := packBlock (partBytes p.d) (ps.map Part3.bytes) [], feed := [], factors := [], stats := [], rows := [],
      flags := orFlags fs }
  else
    let fin := ps.map (finishRow (s.sfuEnv c x) p.lse2)
    let seed := (s.passCtl x 0).seed
    let rows := fin.zipIdx.map (fun f =>
      convRowPart cv p.iovf seed (s.outPartOf x st 1 f.2 0 p.d) f.1.1.o none (cv.supplied (s.scaleDraw 6) f.2 p.d))
    let live := fun (l : List FlagSet) => orFlags ((l.zipIdx.filter (fun f => (s.queryRow x st f.2).isSome)).map Prod.fst)
    { osp := packBlock (elemBytes cv.dst p.d) (rows.map (fun o => pack cv.dst o.codes)) (rows.map RowOut.scales)
        ++ (if lse then padTo 512 (fin.flatMap (fun f => lseBytes f.1)) else []),
      feed := rows.flatMap (fun o => feedRows cv.dst o.codes), factors := [], stats := [], rows := rows,
      flags := live fs ||| live (fin.map Prod.snd) ||| live (rows.map RowOut.flags) }

/-- The rows of an O tile with their statistics (R201). -/
def State.sfuFinish (s : State) (c : Nat) (st : Step) (x : Desc) (g : SfuProg) (v : Skein) (part lse : Bool) (t n : Nat) : SfuOut :=
  let d := (s.kernelAttn x).p.d
  s.sfuFinished c st x g part lse
    ((upTo n).map (fun r =>
      { m := (v.stat r).1, l := (v.stat r).2, o := (s.core c).amElems (s.attnTile x).mvp t r d })) []

/-- `parts` blocks of `n` partial records in OSP rows folded row by row, and finished (R210, R211). -/
def State.sfuFold (s : State) (c : Nat) (st : Step) (x : Desc) (g : SfuProg) (parts : Nat) (lse : Bool) (n : Nat)
    (bs : List Byte) : SfuOut :=
  let d := (s.kernelAttn x).p.d
  let b := partBytes d
  let span := 512 * packedRows b n
  let fold := (upTo n).map (fun r => foldParts (s.sfuEnv c x) ((upTo parts).map (fun j =>
    partOfBytes (packedRow (bs.drop (span * j)) b r) d)))
  s.sfuFinished c st x g false lse (fold.map Prod.fst) (fold.map Prod.snd)

/-- What an SFU step needs: OSP rows that it reads `first` rows past OROW, AM tiles, the AM rows it reads, OSP rows that it writes at
OROW, whether it writes a row of factors, and the built-in functions that it uses. -/
structure SfuNeed where
  osp : Nat
  tiles : Nat
  ams : List (Nat × Nat)
  out : Nat
  factors : Bool
  uses : List Nat
  deriving DecidableEq, Repr

/-- The needs of a step of `n` rows whose tiles begin at `t`. -/
def State.sfuNeed (s : State) (x : Desc) (g : SfuProg) (t n : Nat) : SfuNeed :=
  let cv := convOf g.conv
  let p := (s.kernelAttn x).p
  let tl := s.attnTile x
  let rows := fun (w : Nat) => (upTo n).flatMap (fun r => amElemRows tl.mvp t r w)
  let tiles := fun (w : Nat) => if tl.mvp then 1 else ceilDiv w 128
  let fin := fun (part lse : Bool) =>
    if part then packedRows (partBytes p.d) n
    else blockRows (elemBytes cv.dst p.d) (if cv.dscale = 0 then 0 else scaleBytes p.d) n + (if lse then ceilDiv (8 * n) 512 else 0)
  let finUses := fun (part : Bool) => if part then [] else [0x19, 0x14]
  match g.op with
  | .map =>
    { osp := if g.fromOsp then blockRows (elemBytes cv.src 128) (if cv.sscale then 4 else 0) n else 0,
      tiles := if g.fromOsp then 0 else 1, ams := if g.fromOsp then [] else (upTo n).map (fun i => (t, i)),
      out := blockRows (elemBytes cv.dst 128) (if cv.dscale = 0 then 0 else 4) n, factors := false,
      uses := (microWords g.image).map (fun w => bitsOf w 0 6) }
  | .softmax =>
    { osp := 0, tiles := tiles tl.kb, ams := rows tl.kb,
      out := ceilDiv tl.kb (s.pvDepth x) * packedRows (elemBytes p.pfmt (s.pvDepth x)) n, factors := true, uses := [0x13] }
  | .finish part lse =>
    { osp := 0, tiles := tiles p.d, ams := rows p.d, out := fin part lse, factors := false, uses := finUses part }
  | .fold parts lse =>
    { osp := parts * packedRows (partBytes p.d) n, tiles := 0, ams := [], out := fin false lse, factors := false,
      uses := 0x13 :: finUses false }

/-- What an SFU step computes. -/
def State.sfuOut (s : State) (c : Nat) (st : Step) (x : Desc) (g : SfuProg) (v : Skein) (t n : Nat) (bs : List Byte) : SfuOut :=
  match g.op with
  | .map => s.sfuMap c st x g t n bs
  | .softmax => s.sfuSoftmax c st x v t n
  | .finish part lse => s.sfuFinish c st x g v part lse t n
  | .fold parts lse => s.sfuFold c st x g parts lse n bs

/-- The program of a step works on attention: on the rows of its kernel's skeins (R198, R201). -/
def sfuAttn : SfuOp → Bool
  | .map => false
  | _ => true

/-- The statistics of the running skein's rows. -/
def Core.setStats (k : Core) (l : List (Nat × Nat)) : Core :=
  match k.runningSkein with
  | some (n, v) => { k with skeins := putAt Skein.reset k.skeins n { v with stats := l ++ v.stats.drop l.length } }
  | none => k

/-- An SFU step's results stored: in OSP rows, or in the feeder queues of its core (R139), with its row of factors. -/
def State.sfuStore (s : State) (c : Nat) (x : Desc) (g : SfuProg) (row frow : Nat) (o : SfuOut) : State :=
  let s := if g.feeds then s.setCore c { s.core c with feed := (s.core c).feed ++ o.feed } else s.writeRowsAt c row o.osp
  let s := if o.factors.isEmpty then s else s.writeRowsAt c frow o.factors
  (s.setCore c (if o.stats.isEmpty then s.core c else (s.core c).setStats o.stats)).noteTarget x (convOf g.conv).dst o.rows
    |>.sfuFlags c x o.flags

/-- An SFU step: an entry of the kernel's program store over rows of AM tiles or of the OSP, its results in OSP rows or in the feeder
queues (R137, R139, R198, R201; log 15). -/
def State.sfuStep (s : State) (c : Nat) (st : Step) (x : Desc) : StepRes :=
  let k := s.core c
  let w := st.word
  let n := stepArg w 27 7 + 1
  let t := fieldAt st true (stepArg w 13 4)
  let orow := fieldAt st false (stepArg w 0 13)
  match ((s.kernel x.ctx).plan.progs)[stepArg w 17 10]? with
  | none => .fault 0x03
  | some g =>
    let v := (k.runningSkein.map Prod.snd).getD Skein.reset
    if sfuAttn g.op && (x.opcode != 0x01 || k.actingSkein.isNone) then .fault 0x03
    else
      let need := s.sfuNeed x g t.toNat n
      let (a, r) : RowAcc × Nat := if g.feeds then (.ok, 0) else k.relRows x.ctx true 2 orow need.out
      let (f, fr) : RowAcc × Nat := if need.factors then k.relRows x.ctx true 2 (orow + g.first) 1 else (.ok, 0)
      let (i, iats, bs) : RowAcc × List ReadAt × List Byte :=
        if need.osp = 0 then (.ok, [], []) else s.source c x.ctx (.osp 4) (orow + g.first) need.osp
      let tile : RowAcc := if need.tiles = 0 || k.tilesOk t need.tiles then .ok else .fault 0x21
      guardAcc (((a.worse f).worse i).worse tile) (fun _ =>
        s.checkedRead c x st.ecc (iats ++ k.amReads need.ams) (fun s =>
          s.parityChecked c x need.uses st.parity (fun s =>
            .done (s.sfuStore c x g r fr (s.sfuOut c st x g v t.toNat n bs)))))

/-- SFU (R137). -/
def execSfu (core : Nat) (st : Step) (s : State) : Host.Outcome State Fault Refusal :=
  .next (s.issue core st 0x20 34 (fun s x => s.sfuStep core st x))

/-! ### EPI (R154, R155, R333) -/

/-- A fault of a core's stream at a run waits for the host's reply (R377, R401). -/
def State.faultAt (s : State) (d : Did) (c : Nat) (r : Run) : Bool :=
  s.faults.any (fun f => f.d == some d && f.core == some c && f.handle == refHandle r.ref && f.offset == r.start && f.isWrite == r.wr)

/-- A stream of a core's kernel halted at a run, once (R376). -/
def State.haltStream (s : State) (c : Nat) (d : Did) (r : Run) : State :=
  match s.desc? d with
  | some x => if s.faultAt d c r then s else s.haltAt x (some c) r
  | none => s

/-- A stream's rows by number from `j` on, `n` of them, with the memory runs of each: what the first that does not
resolve meets. -/
def State.badRow (s : State) (x : Desc) (runs : Nat → List Run) : Nat → Nat → Option (Nat × Run × Acc)
  | 0, _ => none
  | n + 1, j => match s.firstBad x (runs j) with
    | some p => some (j, p)
    | none => s.badRow x runs n (j + 1)

/-- The memory accesses of a step of a core, by the first row not reached: it goes on, or its stream halts with the rows before the halted
one moved, or its descriptor ends (R376, R377, R392). `stop` says what a halt makes of the step. -/
def State.streamMet (s : State) (c : Nat) (x : Desc) (bad : Option (Nat × Run × Acc)) (part : Nat → State)
    (stop : State → StepRes) (act : Unit → StepRes) : StepRes :=
  match bad with
  | none => act ()
  | some (i, r, .halt) => stop ((part i).haltStream c x.did r)
  | some (_, _, .stale) => .over ((s.stopKernel x).retire x 0x11 0)
  | some (_, _, .lost row) => .over (s.rowLost x row)
  | some _ => .over ((s.stopKernel x).retire x 0x03 0xFFFF)

/-- The accesses of rows `j` to `m` of a step, by its runs. -/
def State.streamRuns (s : State) (c : Nat) (x : Desc) (runs : Nat → List Run) (j m : Nat) (part : Nat → State)
    (stop : State → StepRes) (act : Unit → StepRes) : StepRes :=
  s.streamMet c x (s.badRow x runs (m - j) j) part stop act

/-- Memory accesses of a step that come before its rows. -/
def State.stepRuns (s : State) (c : Nat) (x : Desc) (runs : List Run) (act : Unit → StepRes) : StepRes :=
  s.streamRuns c x (fun _ => runs) 0 1 (fun _ => s) .halt act

/-- SS rows that a run reads by its handle (R321, R322). -/
def State.runReads (s : State) (x : Desc) (r : Run) : List ReadAt :=
  match s.reach x r with
  | .ok 2 a =>
    let o := a % 2 ^ 45
    if r.wr || r.len = 0 then [] else (upTo ((o + r.len - 1) / 512 - o / 512 + 1)).map (fun i => .ss (o / 512 + i))
  | _ => []

/-- A core's step is held because its stream halted. -/
def Core.streaming (k : Core) : Bool := match k.hold with
  | some (.stream, _) => true
  | _ => false

/-- Rows that the halted step of a core has moved before. -/
def Core.movedRows (k : Core) : Nat := match k.hold with
  | some (.stream, _) => k.streamAt
  | _ => 0

/-- Destination row `y` of plane `z` in memory. -/
def Xfer.outRun (e : Xfer) (z y : Nat) : Run :=
  wrRun e.aref (64 * (e.az * z + e.ay * y)) (64 * rowUnit (elemBytes e.word.dst e.dcols))
/-- Its scale bytes. -/
def Xfer.outScale (e : Xfer) (z y : Nat) : Run := wrRun e.ascl ((z * e.drows + y) * scaleBytes e.dcols) (scaleBytes e.dcols)

/-- The supplied scale bytes of a destination row: of the A side in memory, of the B side otherwise. -/
def Xfer.supplied (e : Xfer) (z y : Nat) : Run :=
  rdRun (if e.kind = 0 then e.ascl else e.bscl) ((z * e.drows + y) * scaleBytes e.dcols) (scaleBytes e.dcols)

/-- A row stored in memory with the scale bytes computed for it. -/
def State.putOut (s : State) (x : Desc) (e : Xfer) (m : Store) (z y : Nat) (r : RowOut) : Store :=
  let m := s.storeRun m x (e.outRun z y) (padUnit (pack e.word.dst r.codes))
  if e.word.dscale = 1 then s.storeRun m x (e.outScale z y) r.scales else m

/-- The runs that a row of an entry in memory takes. -/
def Xfer.rowRuns (e : Xfer) (z y : Nat) : List Run :=
  e.outRun z y :: (if e.word.dscale = 1 then [e.outScale z y] else if e.word.dscale = 2 then [e.supplied z y] else [])

/-- The reference of the tensor whose stored elements a kernel's histogram counts (R73). -/
def histTarget (x : Desc) : Nat := if x.opcode = 0x05 ∨ x.opcode = 0x06 then x.field 16 8 else x.field 32 8

/-- Rows of its target counted in the kernel's histogram, where it has one; the flags are those of the conversions that made them
(R72 to R74). -/
def State.countRows (s : State) (x : Desc) (rows : List RowOut) : State :=
  let k := s.kernel x.ctx
  if (s.histSlot x).isSome then
    let h := ({ bins := k.bins, nans := k.nans, elems := k.elems } : Hist).countAll (rows.flatMap RowOut.stored)
    s.setKernel x.ctx { k with bins := h.bins, nans := h.nans, elems := h.elems,
                               hflags := k.hflags ||| orFlags (rows.map RowOut.own) }
  else s

/-- Rows that a step stores in memory under an entry counted, where they belong to the target (R73). -/
def State.countStored (s : State) (x : Desc) (e : Xfer) (rows : List RowOut) : State :=
  if refHandle e.aref = refHandle (histTarget x) then s.countRows x rows else s

/-- The run of a vector at `off` past VEC that columns `col` on take: of an SFU_MAP, whose element i uses entry i mod
ROWLEN, all of it (R158, R159). -/
def State.vecRun (s : State) (x : Desc) (off col nx : Nat) : Run :=
  let v := (s.kernelEpi x).vec
  if x.opcode = 0x06 then rdRun v off (4 * s.kernelVec x) else rdRun v (off + 4 * col) (4 * nx)

/-- Entries of a vector for `nx` elements of row `row` from column `col` on. -/
def State.epiVec (s : State) (x : Desc) (off row col nx : Nat) : List Nat :=
  let v := f32List (s.fetchRun s.store x (s.vecRun x off col nx))
  if x.opcode = 0x06 then (upTo nx).map (fun i => v.getD ((row * nx + col + i) % max 1 (s.kernelVec x)) 0) else v

/-- The rows of a tile through the epilogue and a store conversion; the step gives the first output column and row, and `sup` the
scale bytes supplied for row `i` (R64, R154, R158). -/
def State.epiRows (s : State) (c : Nat) (st : Step) (x : Desc) (e : Xfer) (w : ConvWord) (t : Nat) (sup : Nat → List Byte) : List RowOut :=
  let p := s.passCtl x 0
  let b := s.kernelEpi x
  let ints := isIntOperand p.wfmt
  (upTo e.ny).map (fun i =>
    let vec := fun (off : Nat) => some (s.epiVec x off (st.rowBase + i) st.group e.nx)
    let f : Epilogue :=
      { env := s.sfuEnv c x, act := ctlAct b.ctl, bias := if b.biasv then vec 0 else none,
        scale := if b.scalev then vec (b.scaleOff (s.kernelVec x)) else if b.scaleEn then some [b.scale] else none,
        image := ((s.core c).uprog (ctlAct b.ctl - 0x40)).image }
    f.outPart ints { w with src := if ints then 0xB else 0 } p.iovf p.seed (s.outPartOf x st (s.headRole c) i st.group e.nx)
      (sup i) (((s.core c).readAm t i).take e.nx))

/-- Rows as OSP or SS rows, with the scale bytes they carry. -/
def rowsBlock (e : Xfer) (rows : List RowOut) : List Byte :=
  packBlock (elemBytes e.word.dst e.nx) (rows.map (fun r => pack e.word.dst r.codes)) (rows.map RowOut.scales)

/-- OSP rows of a block of an entry's rows. -/
def blockSpan (e : Xfer) (n : Nat) : Nat :=
  blockRows (elemBytes e.word.dst e.nx) (if e.word.dscale = 0 then 0 else scaleBytes e.nx) n

/-- An EPI's tile read, checked and put through the epilogue; `store` puts its rows in their place (R136, R148, R154). -/
def State.epiDo (s : State) (c : Nat) (st : Step) (x : Desc) (e : Xfer) (w : ConvWord) (t : Nat) (sup : State → Nat → List Byte)
    (store : State → List RowOut → State) : StepRes :=
  let act := ctlAct (s.kernelEpi x).ctl
  s.checkedRead c x st.ecc ((s.core c).amReads ((upTo e.ny).map (fun r => (t, r)))) (fun s =>
    s.parityChecked c x (actUses act ((s.core c).uprog (act - 0x40)).image) st.parity (fun s =>
      let rows := s.epiRows c st x e w t (sup s)
      .done ((store s rows).sfuFlags c x (orFlags (rows.map RowOut.flags)))))

/-- What R366, R367 and R564 ask of the memory side of a RANGE entry that rows are stored through; the scale references follow the
conversion word, and rows may not overlap. -/
def Xfer.memOk (e : Xfer) : Bool :=
  let c := e.word
  refValid e.aref && refOk e.aref && refAligned e.aref 64 && refOk e.ascl && (e.ascl != 0) == (c.dscale != 0) && e.bscl == 0
    && !(decide (1 < e.drows) && decide (e.ay < rowUnit (elemBytes c.dst e.dcols)))

/-- What R366 and R564 ask of the entry of an EPI: a plain RANGE entry of at most one tile per plane; with a destination in memory
its whole memory side. -/
def Xfer.epiOk (e : Xfer) (bs : List Byte) (mem : Bool) : Bool :=
  e.sizesOk bs && !e.turn && e.nx ≤ 128 && e.ny ≤ 128 && convOk e.conv false && e.kind == 0 && e.tcore == 0 && e.win == 0
    && e.bref == 0 && (!mem || e.memOk)

/-- The write list of a kernel (R252): its entries, as read at the kernel's start. -/
def State.kernelList (s : State) (x : Desc) : List WriteEnt :=
  (pieces 8 ((s.kernel x.ctx).block.drop 128)).map (fun e => writeEnt (leNat e))

/-- A kernel stores its output rows in bolts (R252). -/
def State.toBolts (s : State) (x : Desc) : Bool := x.opcode == 0x03 && (matParams (s.kernel x.ctx).block).wlist

/-- Elements from `first` on put into a row of a bolt page, with their scales (R224, R252). -/
def State.putRowPart (s : State) (r : PageRef) (k first : Nat) (o : RowOut) : State :=
  let pl := s.pool r.pool
  let n := pl.hd
  let old := s.pageRow r k
  let codes := unpack pl.fmt n (old.getD 0 []) ++ unpack pl.fmt n (old.getD 1 [])
  let codes := codes.take first ++ o.codes ++ codes.drop (first + o.codes.length)
  let sc := old.getD 2 [] ++ old.getD 3 []
  let sc := sc.take (first / 32) ++ o.scales ++ sc.drop (first / 32 + o.scales.length)
  s.putRow r k [pack pl.fmt (codes.take n), pack pl.fmt (codes.drop n), sc.take pl.rowScales, sc.drop pl.rowScales]

/-- The rows of a tile stored in the bolts that the write list names, each in its pool's format with computed scales, and the rows
without a target noted (R252, R253). -/
def State.boltStore (s : State) (c : Nat) (st : Step) (x : Desc) (e : Xfer) (t j m : Nat) : State × FlagSet :=
  let cc := (matParams (s.kernel x.ctx).block).cc
  ((((s.kernelList x).drop st.rowBase).take e.ny).zipIdx.filter (fun w => j ≤ w.2 && decide (w.2 < m))).foldl
    (fun (a : State × FlagSet) w =>
    match writeTarget x.views w.1 with
    | .error v => (a.1.noteStatus x.did v (a.1.detailOf x v), a.2)
    | .ok (r, k) =>
      match (a.1.epiRows c st x { e with ny := w.2 + 1 }
          { cc with dst := (a.1.pool r.pool).fmt, dscale := 1, sscale := false } t (fun _ => [])).getLast? with
      | some o => ((a.1.putRowPart r k st.group o).countRows x [o], a.2 ||| o.flags)
      | none => a) (s, 0)

/-- The first row of a tile from row `j` on whose bolt page cannot be reached (R392). -/
def State.badBoltRow (s : State) (st : Step) (x : Desc) (e : Xfer) (j : Nat) : Option (Nat × Run × Acc) :=
  (((s.kernelList x).drop st.rowBase).take e.ny).zipIdx.findSome? (fun w =>
    if w.2 < j then none
    else match writeTarget x.views w.1 with
      | .error _ => none
      | .ok (r, _) => (s.firstBadPage true [r]).map (fun b => (w.2, b)))

/-- EPI: an AM tile through the epilogue into OSP rows, an SS window, plane DROW of a transfer entry in memory, or bolts. -/
def State.epiStep (s : State) (c : Nat) (st : Step) (x : Desc) : StepRes :=
  let k := s.core c
  let w := st.word
  let drow := fieldAt st false (stepArg w 0 18)
  let t := fieldAt st true (stepArg w 18 4)
  let dest := stepArg w 22 2
  let tile : RowAcc := if k.tilesOk t 1 then .ok else .fault 0x21
  match ((s.kernel x.ctx).plan.xfers)[stepArg w 27 8]? with
  | none => .fault 0x03
  | some bs =>
  let e := xferOf bs
  let b := s.kernelEpi x
  let vecs := (if b.biasv then [s.vecRun x 0 st.group e.nx] else [])
    ++ (if b.scalev then [s.vecRun x (b.scaleOff (s.kernelVec x)) st.group e.nx] else [])
  let free := fun (s : State) (i : Nat) => e.word.supplied (s.scaleDraw 5) i e.nx
  if !e.epiOk bs (dest == 2 && !s.toBolts x) then .fault 0x03
  else if k.streaming && vecs.any (s.faultAt x.did c) then .hold .stream
  else match dest with
    | 0 =>
      let (a, r) := k.relRows x.ctx true 2 drow (blockSpan e e.ny)
      guardAcc (a.worse tile) (fun _ => s.stepRuns c x vecs (fun _ =>
        s.epiDo c st x e e.word t.toNat free (fun s rows => (s.writeRowsAt c r (rowsBlock e rows)).noteTarget x e.word.dst rows)))
    | 1 =>
      match s.ssRows c x.ctx (s.kernelSsWin x.ctx (stepArg w 24 3)) true drow (blockSpan e e.ny) with
      | none => guardAcc (tile.worse (.fault 0x25)) (fun _ => .fault 0x25)
      | some r => guardAcc tile (fun _ => s.stepRuns c x vecs (fun _ =>
          s.epiDo c st x e e.word t.toNat free (fun s rows =>
            let s := s.putSsRows r (rowsBlock e rows)
            (s.setCore c { s.core c with loomDue := (s.core c).loomDue ++ [32] }).noteTarget x e.word.dst rows)))
    | 2 =>
      if s.toBolts x then
        let j := k.movedRows
        let bad := s.badBoltRow st x e j
        guardAcc tile (fun _ => if st.group % 32 != 0 then .fault 0x03
          else if k.streaming && bad.any (fun b => s.faultAt x.did c b.2.1) then .hold .stream
          else s.stepRuns c x vecs (fun _ => s.streamMet c x bad
            (fun i =>
              let (u, f) := s.boltStore c st x e t.toNat j i
              let u := u.sfuFlags c x f
              u.setCore c { u.core c with streamAt := i })
            .halt
            (fun _ =>
              let act := ctlAct b.ctl
              s.checkedRead c x st.ecc (k.amReads ((upTo e.ny).map (fun r => (t.toNat, r)))) (fun s =>
                s.parityChecked c x (actUses act ((s.core c).uprog (act - 0x40)).image) st.parity (fun s =>
                  let (u, f) := s.boltStore c st x e t.toNat j e.ny
                  .done (u.sfuFlags c x f))))))
      else
        let z := drow.toNat
        let sup := fun (s : State) (y : Nat) => if e.word.dscale = 2 then s.fetchRun s.store x (e.supplied z y) else []
        let store := fun (j m : Nat) (s : State) (rows : List RowOut) =>
          let new := rows.zipIdx.filter (fun r => j ≤ r.2 && decide (r.2 < m))
          (s.withStore (new.foldl (fun m r => s.putOut x e m z r.2 r.1) s.store)).countStored x e (new.map Prod.fst)
        let j := k.movedRows
        guardAcc tile (fun _ =>
          if drow < 0 then .fault 0x03
          else if k.streaming && (e.rowRuns z j).any (s.faultAt x.did c) then .hold .stream
          else s.stepRuns c x vecs (fun _ =>
            s.streamRuns c x (e.rowRuns z) j e.ny
              (fun i =>
                let t := store j i s (s.epiRows c st x e e.word t.toNat (sup s))
                t.setCore c { t.core c with streamAt := i })
              .halt
              (fun _ => s.epiDo c st x e e.word t.toNat sup (store j e.ny))))
    | _ => .fault 0x03

/-- EPI (R154). -/
def execEpi (core : Nat) (st : Step) (s : State) : Host.Outcome State Fault Refusal :=
  .next (s.issue core st 0x21 35 (fun s x => s.epiStep core st x))

end Sys2Proof.Machine
end

