-- ==== Sys2Proof/Machine/Banks.lean ====
section
/-!
DEFINITION. Clearing and power-down of OSP banks (R302, R320, R324 to R326).
-/

namespace Sys2Proof.Machine

/-- Rows `[lo, hi)` of a core cleared to zero with good check bits. -/
def Core.clearRows (k : Core) (lo hi : Nat) : Core :=
  { k with osp := k.osp.filter (fun p => p.1 < 512 * lo || 512 * hi ≤ p.1), poison := k.poison.filter (fun r => r < lo || hi ≤ r) }

/-- Rows of a core cleared. -/
def State.clearRows (s : State) (c lo hi : Nat) : State :=
  (s.dropWbacks c lo (hi - lo)).setCore c ((s.core c).clearRows lo hi)

/-- A bank of a core changed. -/
def State.setBank (s : State) (c b : Nat) (v : Bank) : State := s.setCore c ((s.core c).setBank b v)

/-- AREA_CLEAR_DONE (R302). -/
def State.areaCleared (s : State) (c ctx : Nat) : State :=
  let a := (s.core c).area ctx
  if a.used && a.clearing then
    let s := s.clearRows c a.base (a.base + a.bound)
    s.setCore c { s.core c with areas := putAt Area.reset (s.core c).areas ctx { a with clearing := false } }
  else s

/-- AREA_CLEAR_DONE (R302). -/
def execAreaClearDone (core ctx : Nat) (s : State) : Host.Outcome State Fault Refusal :=
  .next (if s.mgmt.power == .on then s.areaCleared core ctx else s)

/-- BANK_CLASS_CLEAR_DONE (R320). -/
def execBankClassClearDone (core bank : Nat) (s : State) : Host.Outcome State Fault Refusal :=
  .next (
    let b := (s.core core).bank bank
    if s.mgmt.power == .on && b.classClear && (b.st == .on || b.st == .drain) then
      (s.clearRows core (512 * bank) (512 * bank + 512)).setBank core bank { b with classClear := false }
    else s)

/-- BANK_ISOLATE (R325). -/
def execBankIsolate (core bank : Nat) (s : State) : Host.Outcome State Fault Refusal :=
  .next (
    let b := (s.core core).bank bank
    if s.mgmt.power == .on && b.st == .drain && b.wtag == 0 then s.setBank core bank { b with st := .isolating, wake := false }
    else s)

/-- A bank of a core changed, and those that wait to wake begin to where they may (R523). -/
def State.setBankWaking (s : State) (c b : Nat) (v : Bank) : State := s.setCore c ((s.core c).setBank b v).wakeBanks

/-- BANK_OFF (R325): the contents are lost; a bank granted again since isolation began wakes. -/
def execBankOff (core bank : Nat) (s : State) : Host.Outcome State Fault Refusal :=
  .next (
    let b := (s.core core).bank bank
    if s.mgmt.power == .on && b.st == .isolating then
      (s.clearRows core (512 * bank) (512 * bank + 512)).setBankWaking core bank { b with st := .off, classClear := false }
    else s)

/-- BANK_WAKE_DONE (R326). -/
def execBankWakeDone (core bank : Nat) (s : State) : Host.Outcome State Fault Refusal :=
  .next (
    let b := (s.core core).bank bank
    if s.mgmt.power == .on && b.st == .wake then s.setBankWaking core bank { b with st := .clearing } else s)

/-- BANK_CLEAR_DONE (R326): the bank is ON and reads zero. -/
def execBankClearDone (core bank : Nat) (s : State) : Host.Outcome State Fault Refusal :=
  .next (
    let b := (s.core core).bank bank
    if s.mgmt.power == .on && b.st == .clearing then
      (s.clearRows core (512 * bank) (512 * bank + 512)).setBank core bank { b with st := .on, classClear := false }
    else s)

end Sys2Proof.Machine
end

