-- ==== Sys2Proof/Machine/Sampling.lean ====
section
/-!
DEFINITION. Sampling of the unattended decode loop (R286, R287).
-/

namespace Sys2Proof.Machine

/-! ### The generator (R287) -/

/-- One of its six rounds. -/
def genRound (p : Word × Word) : Word × Word :=
  let x := p.1 + p.2
  let y := p.2.rotateLeft 7 ^^^ x
  (x.rotateLeft 16, y)

/-- GEN(seed, pos). -/
def genWord (seed : BitVec 64) (pos : Nat) : Word :=
  let x := seed.setWidth 32 ^^^ (BitVec.ofNat 32 pos * 0x9E3779B9)
  let y := (seed >>> 32).setWidth 32 ^^^ 0x5BD1E995
  let r := genRound (genRound (genRound (genRound (genRound (genRound (x, y))))))
  r.1 ^^^ r.2

/-! ### One row (R286) -/

/-- Strictly less as numbers: the zeros are equal. -/
def numLt (a b : Nat) : Bool :=
  let va := f32Value a
  let vb := f32Value b
  valueLt va vb && !(va.isZero && vb.isZero)

/-- The largest of a list of patterns, the first of equals. -/
def maxOf : List Nat → Nat
  | [] => 0xFF800000
  | x :: t => t.foldl (fun m y => if numLt m y then y else m) x

/-- A logit put in its place, largest first, behind those not smaller. -/
def insertDesc (p : Nat × Nat) : List (Nat × Nat) → List (Nat × Nat)
  | [] => [p]
  | q :: t => if numLt q.1 p.1 then p :: q :: t else q :: insertDesc p t

/-- The order in which a row is summed: all indices, or the TOPK largest by value, ties by lower index. -/
def sampleOrder (topk : Nat) (xs : List Nat) : List Nat :=
  if topk = 0 then upTo xs.length
  else ((xs.zipIdx.foldl (fun l p => insertDesc p l) []).take topk).map Prod.snd

/-- The running sums from the first element. -/
def runningSums : List Nat → List Nat
  | [] => []
  | p :: t => (t.foldl (fun (acc : Nat × List Nat) q =>
      let c := (addF .rne acc.1 q).1
      (c, acc.2 ++ [c])) (p, [p])).2

/-- The parameters of a request's sampling. -/
structure SampleCtl where
  temp : Nat
  topk : Nat
  topp : Nat
  seed : BitVec 64
  deriving DecidableEq, Repr

/-- A row that cannot be sampled: a NaN, a +Inf, or only −Inf. -/
def rowNonfinite (xs : List Nat) : Bool :=
  xs.any (fun x => (f32Value x).isNan || x == 0x7F800000) || xs.all (fun x => x == 0xFF800000)

/-- The probabilities of a row. -/
def rowProbs (v : SfuEnv) (temp : Nat) (xs : List Nat) : List Nat :=
  let c := (builtin v 0x19 0x3FB8AA3B temp).1
  let xmax := maxOf xs
  xs.map (fun x => (builtin v 0x13 (mulF .rne (subF .rne x xmax).1 c).1 0).1)

/-- The uniform draw: the top 24 bits of a generator word as a fraction. -/
def drawFraction (r : Word) : Nat := (finToF32 .rne false (r.toNat / 256) (-24)).1

/-- The token sampled for position `pos` from a row of logits; none where the sequence ends NONFINITE. -/
def sampleRow (v : SfuEnv) (k : SampleCtl) (pos : Nat) (xs : List Nat) : Option Nat :=
  if rowNonfinite xs then none
  else if k.temp = 0 then
    let xmax := maxOf xs
    some (xs.findIdx (fun x => !numLt x xmax))
  else
    let p := rowProbs v k.temp xs
    let order := sampleOrder k.topk xs
    let cs := runningSums (order.map (fun i => p.getD i 0))
    let bound := (mulF .rne k.topp (cs.getLastD 0)).1
    let n := if numLt k.topp 0x3F800000 then cs.findIdx (fun c => !numLt c bound) + 1 else cs.length
    let u := (mulF .rne (drawFraction (genWord k.seed pos)) (cs.getD (n - 1) 0)).1
    let j := (cs.take n).findIdx (fun c => numLt u c)
    some (order.getD (min j (n - 1)) 0)

end Sys2Proof.Machine
end

