-- ==== Sys2Proof/Machine/LoopRun.lean ====
section
/-!
DEFINITION. What a loop reads at its start, and one run of a model's kernel list (R269 to R275, R280, R281, R285).
-/

namespace Sys2Proof.Machine

/-- What stops a loop's work: it waits, or an outcome ends or halts it, met in one of its kernels (by the image as it ran) or in
none. -/
inductive LoopStop where
  | waits
  | by_ (w : Work) (image : List Byte)
  deriving DecidableEq, Repr

/-- A loop's work. -/
abbrev LoopM (α : Type) := Except LoopStop α

/-- An outcome met outside the loop's kernels. -/
def loopEnds (w : Work) : LoopStop := .by_ w []

/-! ### The loop block (R269) -/

/-- The fields of a loop block. -/
structure LoopBlk where
  mrec : Nat
  drec : Nat
  req : Nat
  tok : Nat
  step : Nat
  dstep : Nat
  summary : Nat
  mslot : Nat
  dslot : Nat
  nd : Nat
  cont : Bool
  keep : Bool
  lreq : Nat
  ltok : Nat
  maxSeq : Nat
  pchunk : Nat
  stallMax : Nat
  stops : List Nat
  deriving DecidableEq, Repr

/-- The fields of a block of 128 bytes. -/
def loopBlk (bs : List Byte) : LoopBlk :=
  let sm := fieldOf bs 72 4
  { mrec := fieldOf bs 0 8, drec := fieldOf bs 8 8, req := fieldOf bs 16 8, tok := fieldOf bs 24 8,
    step := fieldOf bs 32 8, dstep := fieldOf bs 40 8, summary := fieldOf bs 48 8, mslot := bitsOf (byteOf bs 56) 0 6,
    dslot := bitsOf (byteOf bs 57) 0 6, nd := bitsOf (byteOf bs 58) 0 5, cont := bitOf (byteOf bs 59) 0,
    keep := bitOf (byteOf bs 59) 1, lreq := bitsOf (byteOf bs 60) 0 5, ltok := bitsOf (byteOf bs 61) 0 5,
    maxSeq := fieldOf bs 64 4, pchunk := fieldOf bs 68 4, stallMax := if sm = 0 then 1000 else sm,
    stops := ((upTo 8).map (fun i => fieldOf bs (80 + 4 * i) 4)).filter (· != 0xFFFFFFFF) }

/-- The block of a loop. -/
def LoopSt.blk (l : LoopSt) : LoopBlk := loopBlk l.block

/-- A draft model speculates. -/
def LoopBlk.drafts (b : LoopBlk) : Bool := b.drec != 0

/-- What R269 and R270 ask of the block alone. -/
def LoopBlk.ok (b : LoopBlk) (bs : List Byte) : Bool :=
  let d := b.drafts
  refValid b.mrec && [b.mrec, b.drec, b.req, b.tok, b.step, b.dstep, b.summary].all refOk && refValid b.req
    && refValid b.tok && refValid b.step && refValid b.dstep == d
    && [b.mrec, b.drec, b.req, b.tok].all (fun r => refAligned r 64)
    && (d || b.dslot == 0) && (if d then 1 ≤ b.nd && b.nd ≤ 16 else b.nd == 0)
    && 6 ≤ b.lreq && b.lreq ≤ 16 && 6 ≤ b.ltok && b.ltok ≤ 16
    && 1 ≤ b.maxSeq && b.maxSeq ≤ (if d then 2048 else 4096)
    && b.pchunk % 64 == 0 && 64 ≤ b.pchunk && b.pchunk ≤ 8192
    && b.maxSeq * (b.nd + 3) ≤ 2 ^ b.ltok
    && bitsOf (byteOf bs 56) 6 2 == 0 && bitsOf (byteOf bs 57) 6 2 == 0 && bitsOf (byteOf bs 58) 5 3 == 0
    && bitsOf (byteOf bs 59) 2 6 == 0 && bitsOf (byteOf bs 60) 5 3 == 0 && bitsOf (byteOf bs 61) 5 3 == 0
    && zeroField bs 62 2 && zeroField bs 76 4 && zeroField bs 112 16

/-- References of a loop block and the extents it fixes (R390). -/
def LoopBlk.refs (b : LoopBlk) : List RefUse :=
  let both := fun (r n : Nat) => ({ pos := 0xFFFF, ref := r, len := n, rd := true, wr := true } : RefUse)
  [useRd 0xFFFF b.mrec 128, useRd 0xFFFF b.drec 128, both b.req (128 + 64 * 2 ^ b.lreq), both b.tok (128 + 16 * 2 ^ b.ltok),
   both b.step 0, both b.dstep 0, useWr 0xFFFF b.summary 64]

/-! ### Model records (R272) -/

/-- The fields of a model record. -/
structure ModelRec where
  klist : Nat
  emb : Nat
  vocab : Nat
  embw : Nat
  maxRows : Nat
  pool : Nat
  nlayerM1 : Nat
  nkern : Nat
  oSeql : Nat
  oWlist : Nat
  oTok : Nat
  oXin : Nat
  oLrow : Nat
  oLogit : Nat
  stepSz : Nat
  mcrc : Nat
  deriving DecidableEq, Repr

/-- The fields of a record of 128 bytes. -/
def modelRec (bs : List Byte) : ModelRec :=
  { klist := fieldOf bs 0 8, emb := fieldOf bs 8 8, vocab := fieldOf bs 16 4, embw := fieldOf bs 20 4,
    maxRows := fieldOf bs 24 4, pool := bitsOf (byteOf bs 28) 0 4, nlayerM1 := byteOf bs 29, nkern := fieldOf bs 30 2,
    oSeql := fieldOf bs 32 4, oWlist := fieldOf bs 36 4, oTok := fieldOf bs 40 4, oXin := fieldOf bs 44 4,
    oLrow := fieldOf bs 48 4, oLogit := fieldOf bs 52 4, stepSz := fieldOf bs 56 4, mcrc := fieldOf bs 60 4 }

/-- References of a record and the extents it fixes. -/
def ModelRec.refs (m : ModelRec) : List RefUse :=
  [useRd 0xFFFF m.klist (128 * m.nkern), useRd 0xFFFF m.emb (m.vocab * m.embw)]

/-- The regions of a model's step area, (offset, bytes): `lrows` is the most logit rows of a step (log 29). -/
def ModelRec.regions (m : ModelRec) (maxSeq lrows : Nat) : List (Nat × Nat) :=
  [(m.oSeql, 32 * maxSeq), (m.oWlist, 8 * m.maxRows), (m.oTok, 8 * m.maxRows), (m.oXin, m.maxRows * m.embw),
   (m.oLrow, 4 * lrows), (m.oLogit, 4 * m.vocab * lrows)]

/-- What R270 and R272 ask of a record before its kernel list is read. -/
def ModelRec.fieldsOk (m : ModelRec) (bs : List Byte) (maxSeq nd : Nat) : Bool :=
  let rs := m.regions maxSeq (min m.maxRows (maxSeq * (nd + 1)))
  refValid m.klist && refOk m.klist && refValid m.emb && refOk m.emb && 2 ≤ m.vocab && m.vocab ≤ 262144
    && 64 ≤ m.embw && m.embw % 64 == 0 && 1 ≤ m.maxRows && m.maxRows ≤ 65536
    && bitsOf (byteOf bs 28) 4 4 == 0 && m.nlayerM1 ≤ 127 && 1 ≤ m.nkern && m.nkern ≤ 256 && zeroField bs 64 64
    && rs.all (fun r => r.1 + r.2 ≤ m.stepSz)
    && decide (rs.Pairwise (fun a b => a.1 + a.2 ≤ b.1 ∨ b.1 + b.2 ≤ a.1))

/-! ### Kernel lists (R273, R274) -/

/-- One patch slot: offset, target, kind. -/
structure Patch where
  off : Nat
  tgt : Nat
  kind : Nat
  deriving DecidableEq, Repr

/-- The four patch slots of an entry. -/
def patchesOf (e : List Byte) : List Patch :=
  (upTo 4).map (fun i =>
    { off := byteOf e (64 + 4 * i), tgt := bitsOf (byteOf e (65 + 4 * i)) 0 2, kind := byteOf e (66 + 4 * i) })

/-- A patch slot that R274 allows, for an image of opcode `op`. -/
def Patch.ok (p : Patch) (op : Nat) : Bool :=
  match p.tgt with
  | 0 => true
  | 1 => p.off % 4 == 0 && 8 ≤ p.off && p.off + 4 ≤ 64 && 1 ≤ p.kind && p.kind ≤ 4
  | 2 => op == 0x01 && p.off % 4 == 0 && p.off + 4 ≤ 128 && !(48 ≤ p.off && p.off < 60) && 1 ≤ p.kind && p.kind ≤ 4
  | _ => false

/-- A kernel-list entry that R273 and R274 allow; `blk` is the parameter block of an ATTN_FWD image. -/
def kernelEntOk (e blk : List Byte) (layers : Nat) : Bool :=
  let op := byteOf e 0
  let p := attnP blk
  [0x01, 0x03, 0x04, 0x05, 0x06, 0x10, 0x11, 0x12].contains op && zeroField e 80 48
    && (patchesOf e).all (fun q => q.ok op)
    && (upTo 4).all (fun i => bitsOf (byteOf e (65 + 4 * i)) 2 6 == 0 && byteOf e (67 + 4 * i) == 0)
    && (op != 0x01 || (p.bolt && !p.part && p.ksplit == 0 && p.layer < layers))

/-- Bytes of a block replaced from an offset. -/
def putBytes (bs : List Byte) (off : Nat) (v : List Byte) : List Byte :=
  bs.take off ++ v ++ bs.drop (off + v.length)

/-- The patches of one target applied: the values by KIND. -/
def applyPatches (e : List Byte) (tgt : Nat) (vals : List Nat) (bs : List Byte) : List Byte :=
  ((patchesOf e).filter (fun p => p.tgt == tgt)).foldl (fun b p =>
    putBytes b p.off (natLe 4 (vals.getD (p.kind - 1) 0))) bs

/-! ### One run of a kernel list -/

/-- A model as a loop runs it: its record, its kernel list with the blocks, and its step area. -/
structure LoopModel where
  m : ModelRec
  ents : List (List Byte)
  area : Nat
  hole : Option Nat
  deriving DecidableEq, Repr

/-- Where the private copy of a parameter block lies in a step area (R274): the lowest multiple of 128 that keeps it clear of the
record's regions, where the area has one (DESIGN CHOICE, log 29). -/
def ModelRec.hole (m : ModelRec) (maxSeq lrows : Nat) : Option Nat :=
  let rs := m.regions maxSeq lrows
  ((0 :: rs.map (fun r => 128 * ceilDiv (r.1 + r.2) 128)).filter (fun c =>
    decide (c + 128 ≤ m.stepSz) && rs.all (fun r => decide (c + 128 ≤ r.1) || decide (r.1 + r.2 ≤ c)))).min?

/-- A model with its step area, for up to `maxSeq` sequences of `nd` drafts. -/
def loopModel (rcd klist : List Byte) (area maxSeq nd : Nat) : LoopModel :=
  let m := modelRec rcd
  { m := m, ents := pieces 256 klist, area := area, hole := m.hole maxSeq (min m.maxRows (maxSeq * (nd + 1))) }

/-- The target model of a loop. -/
def LoopSt.target (l : LoopSt) : LoopModel :=
  loopModel l.mrec l.klist l.blk.step l.blk.maxSeq l.blk.nd

/-- The draft model of a loop. -/
def LoopSt.drafter (l : LoopSt) : LoopModel :=
  loopModel l.drec l.dklist l.blk.dstep l.blk.maxSeq 0

/-- One row of a run (R280): the step's sequence it belongs to, its bolt, token, position, provisional slot, and
whether it is a logit row. -/
structure LRow where
  who : Nat
  seq : Nat
  tok : Nat
  pos : Nat
  slot : Option Nat
  logit : Bool
  deriving DecidableEq, Repr

/-- Runs that must resolve before a loop goes on. -/
def State.need (s : State) (x : Desc) (runs : List Run) : LoopM Unit :=
  match s.firstBad x runs with
  | some (r, a) => .error (loopEnds (workOfAcc r a))
  | none => .ok ()

/-- Bytes stored through a run of a loop. -/
def State.put (s : State) (x : Desc) (ref off : Nat) (bs : List Byte) : LoopM State := do
  s.need x [wrRun ref off bs.length]
  return s.withStore (s.storeRun s.store x (wrRun ref off bs.length) bs)

/-- Bytes read through a run of a loop. -/
def State.get (s : State) (x : Desc) (ref off n : Nat) : LoopM (List Byte) := do
  s.need x [rdRun ref off n]
  return s.fetchRun s.store x (rdRun ref off n)

/-- The write-list entry of a row for a layer (R252). -/
def LRow.write (r : LRow) (layer : Nat) : List Byte :=
  natLe 2 r.seq ++ natLe 2 layer ++ (match r.slot with
    | some k => natLe 3 k ++ natLe 1 1
    | none => natLe 3 r.pos ++ natLe 1 0)

/-- The row table, the logit-row list and the input rows of a run (R279 stage 4). -/
def State.loopInputs (s : State) (x : Desc) (g : LoopModel) (rows : List LRow) : LoopM State := do
  let s ← s.put x g.area g.m.oTok (rows.flatMap (fun r => natLe 4 r.tok ++ natLe 4 r.pos))
  let s ← s.put x g.area g.m.oLrow ((rows.zipIdx.filter (fun r => r.1.logit)).flatMap (fun r => natLe 4 r.2))
  rows.zipIdx.foldlM (fun (s : State) r => do
    let e ← s.get x g.m.emb (r.1.tok * g.m.embw) g.m.embw
    s.put x g.area (g.m.oXin + r.2 * g.m.embw) e) s

/-- The sequences of a run in row order: place in the step, bolt, first row, rows. -/
def rowGroups (rows : List LRow) : List (Nat × Nat × Nat × Nat) :=
  let ws := (rows.map LRow.who).dedup
  ws.map (fun w =>
    let mine := rows.zipIdx.filter (fun r => r.1.who == w)
    (w, (mine.map (fun r => r.1.seq)).headD 0, (mine.map Prod.snd).headD 0, mine.length))

/-- The part of R281 that a sequence of `n` rows falls in: 0 the 4-row tile alone, 1 narrow alone, 2 the rest. -/
def AttnP.rowPart (p : AttnP) (n : Nat) : Nat :=
  let w := n * min p.g 128
  if bitOf p.actl 2 && w ≤ 4 then 0 else if w ≤ 16 then 1 else 2

/-- A view of a loop's sequence in which `k` slots of its chain are there (R285, log 29). -/
def State.chainView (s : State) (k n : Nat) : View :=
  let v := s.viewOf n
  if (s.seqn n).spec then { v with nslot := k, tree := v.tree.take k } else { v with nslot := 0, tree := [] }

/-- Flags of a loop's kernels by the set that takes them (R68): the descriptor's, and those of the cores' arrays and
SFUs. -/
structure LoopFlags where
  own : FlagSet
  array : FlagSet
  sfu : FlagSet
  deriving DecidableEq, Repr

/-- No flags. -/
def noFlags : LoopFlags := { own := 0, array := 0, sfu := 0 }

/-- Flags of both. -/
def LoopFlags.or (f g : LoopFlags) : LoopFlags :=
  { own := f.own ||| g.own, array := f.array ||| g.array, sfu := f.sfu ||| g.sfu }

/-- What a run of a list has done: the state, the sequences that a failed kernel ends, flags, and whether a kernel
completed ECC_RETRIED. -/
structure Ran where
  state : State
  failed : List Nat
  flags : LoopFlags
  retried : Bool
  deriving DecidableEq, Repr

/-- A kernel of a loop performed: its fields are checked, then its whole effect (R271). -/
def State.loopKernel (s : State) (x : Desc) (img blk : List Byte) (views : List View) : Work :=
  let x := { x with bytes := img, status := 0, flags := 0, kept := blk, views := views, skipped := [] }
  match firstFail (s.opChecks x.ctx img) with
  | some o => .bad 0x03 o
  | none => match byteOf img 0 with
    | 0x01 => s.attnWork x
    | 0x03 | 0x04 => s.matWork x
    | 0x05 => s.normWork x
    | 0x06 => s.mapWork x
    | _ => s.copyWork x

/-- The flags of a kernel of opcode `op`: what the DMA hub converts alone stays in the descriptor's set (R68). -/
def kernelFlags (op : Nat) (af sf : FlagSet) : LoopFlags :=
  if op = 0x10 ∨ op = 0x11 ∨ op = 0x12 then { own := af ||| sf, array := 0, sfu := 0 }
  else { own := af ||| sf, array := af, sfu := sf }

/-- The outcome of a kernel taken into a run: a failure status ends the sequences it ran for (R291). -/
def Ran.take (r : Ran) (img : List Byte) (who : List Nat) (w : Work) : LoopM Ran :=
  match w with
  | .halt q => .error (.by_ (.halt q) img)
  | .mismatch q => .error (.by_ (.mismatch q) img)
  | .lost row => .error (.by_ (.lost row) img)
  | .bad _ _ => .ok { r with failed := r.failed ++ who }
  | .done st af sf m =>
    let r := { r with state := r.state.withStore m, flags := r.flags.or (kernelFlags (byteOf img 0) af sf) }
    .ok (if st = 0 then r else if st = 0x31 then { r with retried := true } else { r with failed := r.failed ++ who })

/-- One of the up to three descriptors of an ATTN_FWD entry (R281): its sequence list and the private copy of its block (R274),
then its run. -/
def Ran.attnPart (r : Ran) (x : Desc) (g : LoopModel) (e : List Byte) (vals : List Nat) (k : Nat)
    (part : List (Nat × Nat × Nat × Nat)) : LoopM Ran := do
  let part := part.filter (fun q => !(r.failed.contains q.1))
  if part.isEmpty then return r
  let list := part.flatMap (fun q => natLe 4 q.2.2.1 ++ natLe 4 q.2.2.2 ++ natLe 4 q.2.1 ++ natLe 4 0)
  let s ← r.state.put x g.area g.m.oSeql list
  let blk := applyPatches e 2 vals (e.drop 128)
  let blk := putBytes (putBytes blk 48 (natLe 8 (g.area + g.m.oSeql))) 56 (natLe 4 part.length)
  let s ← match g.hole with
    | some o => s.put x g.area o blk
    | none => .ok s
  let views := part.map (fun q => s.chainView k q.2.1)
  let img := applyPatches e 1 vals (e.take 64)
  Ran.take { r with state := s } img (part.map Prod.fst) (s.loopKernel x img blk views)

/-- An image stores its rows through the write list (R463). -/
def State.listKernel (s : State) (x : Desc) (img : List Byte) : Bool :=
  byteOf img 0 == 0x03 && (matParams (s.fetchRun s.store x (rdRun (fieldOf img 8 8) 0 128))).wlist

/-- One entry run; `layer` counts the entries before it that store through the write list: the rows of this one go to
that layer (R252; DESIGN CHOICE, log 29). -/
def Ran.entry (r : Ran) (x : Desc) (g : LoopModel) (rows : List LRow) (vals : List Nat) (k layer : Nat)
    (e : List Byte) : LoopM (Ran × Nat) := do
  let groups := rowGroups rows
  if byteOf e 0 = 0x01 then
    let p := attnP (applyPatches e 2 vals (e.drop 128))
    let r ← (upTo 3).foldlM (fun (r : Ran) i =>
      r.attnPart x g e vals k (groups.filter (fun q => p.rowPart q.2.2.2 == i))) r
    return (r, layer)
  else
    let img := applyPatches e 1 vals (e.take 64)
    let wl := r.state.listKernel x img
    let s ← if wl then r.state.put x g.area g.m.oWlist (rows.flatMap (fun q => q.write layer)) else .ok r.state
    let views := if wl then groups.map (fun q => s.viewOf q.2.1) else []
    let r ← Ran.take { r with state := s } img (groups.map Prod.fst) (s.loopKernel x img [] views)
    return (r, if wl then layer + 1 else layer)

/-- One run of a model's kernel list over rows (R273 to R281): the inputs, then the entries in list order. `nseq` and
`step` are the values of NSEQ and STEP, `k` the slots of a speculating sequence that are there. -/
def State.runModel (s : State) (x : Desc) (g : LoopModel) (rows : List LRow) (nseq step k : Nat) : LoopM Ran := do
  let r : Ran := { state := s, failed := [], flags := noFlags, retried := false }
  if rows.isEmpty then return r
  let s ← s.loopInputs x g rows
  let vals := [nseq, rows.length, (rows.filter LRow.logit).length, step % 2 ^ 32]
  let (r, _) ← g.ents.foldlM (fun (acc : Ran × Nat) e => acc.1.entry x g rows vals k acc.2 e) ({ r with state := s }, 0)
  return r

/-- The logits of logit row `i` of a run. -/
def State.logitsOf (s : State) (x : Desc) (g : LoopModel) (i : Nat) : LoopM (List Nat) := do
  let bs ← s.get x g.area (g.m.oLogit + 4 * g.m.vocab * i) (4 * g.m.vocab)
  return f32List bs

end Sys2Proof.Machine
end

