-- ==== Sys2Proof/Machine/Loop.lean ====
section
/-!
DEFINITION. The Schuss loop: LOOP, its steps, its end (R268 to R293).
-/

namespace Sys2Proof.Machine

/-! ### The start (R268 to R275) -/

/-- Running loops of a partition. -/
def State.partLoops (s : State) (part : Nat) : Nat :=
  (s.loops.filter (fun l => l.2.live && s.partOf l.2.desc == part)).length

/-- A running loop uses a model slot (R275). -/
def State.slotInUse (s : State) (n : Nat) : Bool :=
  s.loops.any (fun l => l.2.live && (l.2.blk.mslot == n || (l.2.blk.drafts && l.2.blk.dslot == n)))

/-- References resolved for a starting loop: the descriptor with them, or what ends it or makes it wait (R390). -/
def State.loopRefs (s : State) (x : Desc) (us : List RefUse) : LoopM Desc :=
  let r := us.foldl (s.resolveUse (s.partOf x))
    { trans := x.trans, stale := false, bad := us.any (fun u => s.boltHandle u.ref) }
  match r.status with
  | some (st, det) => .error (loopEnds (.bad st det))
  | none => if r.trans.any Trans.stale then .error .waits else .ok { x with trans := r.trans }

/-- A refusal of a starting loop: BAD_DESC in an indirect block. -/
def loopBad : LoopM Unit := .error (loopEnds (.bad 0x03 0xFFFF))

/-- What must hold for a loop to start. -/
def loopNeeds (b : Bool) : LoopM Unit := if b then .ok () else loopBad

/-- The handles of an image's references; its extents are tested when its kernel runs (R274 patches them). -/
def State.imageUses (s : State) (img : List Byte) : List RefUse :=
  (s.liveUses img).map (fun u => { u with pos := 0xFFFF, ref := u.ref, len := 0, rd := false, wr := false })

/-- A translation only has to name a range: an offset past its end is met by the kernel that makes it. -/
def State.imageRefs (s : State) (x : Desc) (img : List Byte) : LoopM Desc :=
  s.loopRefs x ((s.imageUses img).map (fun u =>
    let e := s.range (refHandle u.ref)
    { u with ref := if u.ref = 0 then 0 else u.ref - refOffset u.ref + 4096 * e.start }))

/-- A model read at the start of a loop: its record, its kernel list with the attention blocks, and the descriptor
with every translation (R268, R272 to R274). -/
def State.readModel (s : State) (x : Desc) (ref area maxSeq nd : Nat) :
    LoopM (Desc × List Byte × List (List Byte)) := do
  let bs ← s.get x ref 0 128
  let m := modelRec bs
  loopNeeds (m.fieldsOk bs maxSeq nd)
  let x ← s.loopRefs x m.refs
  let kl ← s.get x m.klist 0 (128 * m.nkern)
  loopNeeds (m.mcrc == crc32c (bs.take 60 ++ kl))
  let (x, ents) ← (pieces 128 kl).foldlM (fun (acc : Desc × List (List Byte)) e => do
    let x ← s.imageRefs acc.1 (e.take 64)
    let blk ← if byteOf e 0 = 0x01 then s.get x (fieldOf e 8 8) 0 128 else .ok (natLe 128 0)
    loopNeeds (kernelEntOk e blk (m.nlayerM1 + 1))
    return (x, acc.2 ++ [e ++ blk])) (x, [])
  match x.transAt (refHandle area) with
  | none => loopBad
  | some t => loopNeeds (t.tier == 2 && t.rd && t.wr && t.covers (refOffset area) m.stepSz)
  return (x, bs, ents)

/-- A model installed in its slot, unless the slot holds it (R275). -/
def State.install (s : State) (part slot : Nat) (rcd klist : List Byte) : LoopM State :=
  let m := s.model slot
  if m.used && m.part == part && (modelRec m.record).mcrc == (modelRec rcd).mcrc then .ok s
  else if (m.used && m.part != part) || s.slotInUse slot then .error (loopEnds (.bad 0x03 0xFFFF))
  else .ok (s.setModel slot { used := true, part := part, record := rcd, klist := klist })

/-- The kernel list a loop runs: the installed copy's entries with the blocks read now. -/
def State.installed (s : State) (slot : Nat) (ents : List (List Byte)) : List Byte :=
  ((pieces 128 (s.model slot).klist).zip ents).flatMap (fun p => p.1 ++ p.2.drop 128)

/-- A free loop number; four per partition leave one free for every LOOP that starts (R270). -/
def State.freeLoop (s : State) : Nat := ((upTo 32).find? (fun n => !(s.loopAt n).live)).getD 0

/-- The ring that a continuing loop watches may be watched: its range allows it, and its address is local (R383, R386). -/
def State.watchable (s : State) (x : Desc) (ref : Nat) : Bool :=
  match x.transAt (refHandle ref) with
  | some t => t.wt && t.tier != 2 && s.localAddr (t.phys (refOffset ref))
  | none => false

/-- A LOOP's start: everything is read and checked, the slots are installed, and the descriptor leaves its ring
(R268 to R275). Its rings go on at the indices their headers hold (R277; log 3). -/
def State.loopStart (s : State) (x : Desc) : LoopM State := do
  let part := s.partOf x
  let bs ← s.get x (x.field 8 8) 0 128
  let b := loopBlk bs
  loopNeeds (b.ok bs)
  let x ← s.loopRefs x b.refs
  loopNeeds (!b.cont || s.watchable x b.req)
  let (x, mrec, ments) ← s.readModel x b.mrec b.step b.maxSeq b.nd
  let (x, drec, dents) ← if b.drafts then s.readModel x b.drec b.dstep b.maxSeq 0 else .ok (x, [], [])
  loopNeeds (!b.drafts || (modelRec mrec).vocab == (modelRec drec).vocab)
  let strip := fun (es : List (List Byte)) => es.flatMap (List.take 128)
  let s ← s.install part b.mslot mrec (strip ments)
  let s ← if b.drafts then
      (if b.dslot = b.mslot && (modelRec mrec).mcrc != (modelRec drec).mcrc then
        .error (loopEnds (.bad 0x03 0xFFFF)) else s.install part b.dslot drec (strip dents))
    else .ok s
  let cons ← s.get x b.req 64 4
  let prod ← s.get x b.tok 0 4
  let l : LoopSt :=
    { LoopSt.reset with live := true, d := x.did, desc := x, block := bs, mrec := mrec, drec := drec,
                        reqCons := BitVec.ofNat 32 (leNat cons), tokProd := BitVec.ofNat 32 (leNat prod),
                        klist := s.installed b.mslot ments, cring := (s.sub x.ring).cring,
                        dklist := if b.drafts then s.installed b.dslot dents else [] }
  return (s.setLoop s.freeLoop l).removeDesc x.did

/-- LOOP (R268 to R275). -/
def execLoop (d : Did) (s : State) : Host.Outcome State Fault Refusal :=
  .next (match s.running? d [0x50] with
    | some x =>
      if 4 ≤ s.partLoops (s.partOf x) then s.retire x 0x04 0
      else match s.loopStart x with
        | .ok t => t
        | .error .waits => s
        | .error (.by_ (.done _ _ _ _) _) => s
        | .error (.by_ w _) => s.concludeOwn x w
    | none => s)

/-! ### Token-ring entries (R290) -/

/-- One token-ring entry. -/
structure TokEnt where
  tag : Word
  value : Nat
  pos : Nat
  isEnd : Bool
  reason : Nat
  stop : Bool
  draft : Bool
  kept : Bool
  seq : Nat
  deriving DecidableEq, Repr

/-- Its 16 bytes; an END at LEN 2^24 has LENMAX and POS 0. -/
def TokEnt.bytes (t : TokEnt) : List Byte :=
  natLe 4 t.tag.toNat ++ natLe 4 t.value ++ natLe 3 t.pos ++ natLe 1 t.isEnd.toNat ++ natLe 1 t.reason
    ++ natLe 1 (t.stop.toNat + 2 * t.draft.toNat + 4 * t.kept.toNat + 8 * (t.isEnd && t.pos == 2 ^ 24).toNat)
    ++ natLe 2 t.seq

/-- An END of a request that never joined. -/
def endBefore (tag : Word) (reason : Nat) : TokEnt :=
  { tag := tag, value := 0, pos := 0, isEnd := true, reason := reason, stop := false, draft := false, kept := false, seq := 0 }

/-- Free entries of the token ring. -/
def State.tokRoom (s : State) (l : LoopSt) : LoopM Nat := do
  let cons ← s.get l.desc l.blk.tok 64 4
  return 2 ^ l.blk.ltok - (l.tokProd - BitVec.ofNat 32 (leNat cons)).toNat

/-- Bytes of a ring of the loop written by the Bobbin path on the port of the ring's base, behind a FENCE or not (R365). -/
def State.putRing (s : State) (x : Desc) (ref off : Nat) (bs : List Byte) (fenced : Bool) : LoopM State := do
  let r := wrRun ref off bs.length
  s.need x [r]
  return s.bobRun x (s.portAt x ref) r bs fenced

/-- Entries written to the token ring, then PROD (R290). -/
def State.putTokens (s : State) (l : LoopSt) (ts : List TokEnt) : LoopM (State × LoopSt) := do
  let b := l.blk
  let s ← ts.zipIdx.foldlM (fun (s : State) t =>
    s.putRing l.desc b.tok (128 + 16 * ((l.tokProd.toNat + t.2) % 2 ^ b.ltok)) t.1.bytes false) s
  let l := { l with tokProd := l.tokProd + BitVec.ofNat 32 ts.length }
  let s ← if ts.isEmpty then .ok s else s.putRing l.desc b.tok 0 (natLe 4 l.tokProd.toNat) true
  return (s, l)

/-! ### Requests (R278, R279 stage 1) -/

/-- A request that may join: its ring offset, its sequence as it will be, and what it shares. -/
structure Joiner where
  at_ : Nat
  q : LoopSeq
  pseq : Nat
  pshare : Nat
  deriving DecidableEq, Repr

/-- What stage 1 has taken: entries consumed, requests to join, END entries, sequences cancelled. -/
structure Intake where
  taken : Nat
  joins : List Joiner
  ends : List (Nat × TokEnt)
  cancels : List Word
  lastCancel : Nat
  deriving DecidableEq, Repr

/-- An FP32 pattern in (0, 1]. -/
def unitFraction (c : Nat) : Bool := gtZero c && !numLt 0x3F800000 c

/-- A request entry whose fixed fields R278 allows. -/
def reqEntryOk (e : List Byte) (drafts : Bool) : Bool :=
  let kind := bitsOf (byteOf e 0) 0 2
  let temp := fieldOf e 32 4
  let topk := fieldOf e 36 2
  let topp := fieldOf e 40 4
  kind != 3 && bitsOf (byteOf e 0) 2 6 == 0 && zeroField e 1 3 && zeroField e 38 2 && zeroField e 46 2 && zeroField e 52 12
    && (kind != 0
      || (1 ≤ fieldOf e 16 4 && fieldOf e 16 4 ≤ 2 ^ 24 - 1 && 1 ≤ fieldOf e 20 4 && fieldOf e 20 4 ≤ 2 ^ 24
        && (temp == 0 || (gtZero temp && temp != 0x7F800000)) && topk ≤ 1024 && unitFraction topp
        && (topp == 0x3F800000 || 1 ≤ topk) && (!drafts || fieldOf e 48 4 == 0)))

/-- The prompt of a request, read whole; none where its reference or a token makes the entry bad. -/
def State.promptOf (s : State) (l : LoopSt) (ref n : Nat) : LoopM (Option (List Nat)) :=
  let h := refHandle ref
  let e := s.range h
  if !(refValid ref && refOk ref && s.ownsHandle (s.partOf l.desc) h) || e.st == .invalid || e.st == .quarantined then
    .ok none
  else if e.st == .retiring then .error .waits
  else
    let x := { l.desc with trans := keepTrans l.desc.trans ((l.desc.transAt h).getD (transOf h e)) }
    let r := rdRun ref 0 (4 * n)
    match s.access x r with
    | .ok _ _ =>
      let ts := f32List (s.fetchRun s.store x r)
      .ok (if ts.all (fun t => t < (modelRec l.mrec).vocab) then some ts else none)
    | .halt => .error (loopEnds (.halt r))
    | _ => .ok none

/-- The sequence that a request asks for. -/
def newSeq (e : List Byte) (prompt : List Nat) : LoopSeq :=
  { tag := BitVec.ofNat 32 (fieldOf e 4 4), seq := 0, draft := none, prompt := prompt, done := 0, maxNew := fieldOf e 20 4,
    seed := BitVec.ofNat 64 (fieldOf e 24 8), temp := BitVec.ofNat 32 (fieldOf e 32 4), topk := fieldOf e 36 2,
    topp := BitVec.ofNat 32 (fieldOf e 40 4), last := 0, emitted := 0, catchUp := none }

/-- One entry met, or none where consumption stops before it (R279). A cancelled sequence is active until its step ends, so
that R270's bound on the token ring holds (DEDUCED, log 29). -/
def State.takeReq (s : State) (l : LoopSt) (i : Intake) (e : List Byte) : LoopM (Option Intake) := do
  let b := l.blk
  let tag := BitVec.ofNat 32 (fieldOf e 4 4)
  let next := { i with taken := i.taken + 1 }
  let refuse := { next with ends := i.ends ++ [(i.taken, endBefore tag 8)] }
  if b.maxSeq ≤ i.ends.length then return none
  if !reqEntryOk e b.drafts then return some refuse
  match bitsOf (byteOf e 0) 0 2 with
  | 0 =>
    let dup := l.seqs.any (fun q => q.tag == tag) || i.joins.any (fun j => j.q.tag == tag)
    if dup then return some refuse
    let p ← s.promptOf l (fieldOf e 8 8) (fieldOf e 16 4)
    match p with
    | none => return some refuse
    | some ts =>
      if l.seqs.length + i.joins.length < b.maxSeq then
        return some { next with joins := i.joins ++ [{ at_ := i.taken, q := newSeq e ts, pseq := fieldOf e 44 2,
                                                       pshare := fieldOf e 48 4 }] }
      else return none
  | 1 =>
    if l.seqs.any (fun q => q.tag == tag) && !i.cancels.contains tag then
      return some { next with cancels := i.cancels ++ [tag], lastCancel := i.taken + 1 }
    else if i.joins.any (fun j => j.q.tag == tag) then
      return some { next with joins := i.joins.filter (fun j => j.q.tag != tag),
                              ends := i.ends ++ [(i.taken, endBefore tag 3)], lastCancel := i.taken + 1 }
    else return some next
  | _ => return some next

/-- Entries of the request ring met in order. -/
def State.takeReqs (s : State) (l : LoopSt) : Nat → Intake → LoopM Intake
  | 0, i => .ok i
  | n + 1, i => do
    let b := l.blk
    let e ← s.get l.desc b.req (128 + 64 * ((l.reqCons.toNat + i.taken) % 2 ^ b.lreq)) 64
    let r ← s.takeReq l i e
    match r with
    | some i => s.takeReqs l n i
    | none => return i

/-- PROD of the request ring. -/
def State.reqProd (s : State) (l : LoopSt) : LoopM Word := do
  let bs ← s.get l.desc l.blk.req 0 4
  return BitVec.ofNat 32 (leNat bs)

/-! ### Admission (R279 stage 3, R282, R283) -/

/-- Prompt positions of a sequence's next chunk (R280; never more than a step's rows, log 29). -/
def LoopSt.chunk (l : LoopSt) (q : LoopSeq) : Nat :=
  let b := l.blk
  let cap := if b.drafts then min (modelRec l.mrec).maxRows (modelRec l.drec).maxRows else (modelRec l.mrec).maxRows
  min (min b.pchunk cap) (q.prompt.length - q.done)

/-- A sequence that still runs its prompt. -/
def LoopSeq.prompting (q : LoopSeq) : Bool := q.done < q.prompt.length

/-- Rows of a sequence in a target run, and in the first draft iteration. -/
def LoopSt.rowsOf (l : LoopSt) (q : LoopSeq) : Nat × Nat :=
  if q.prompting then (l.chunk q, if l.blk.drafts then l.chunk q else 0)
  else (1 + l.blk.nd, if l.blk.drafts then 1 + q.catchUp.toList.length else 0)

/-- A RUN request. -/
def runReq (seq nres nd : Nat) : Req × List Nat :=
  ({ seq := seq, kind := 1, spec := nd != 0, pin := false, share := false, ndraft := nd, nres := nres, parent := 0, pool := 0,
     nlayerM1 := 0, arg := 0 }, (upTo nd).map (fun i => if i = 0 then 0xFF else i - 1))

/-- The RUN entries of a sequence and its companion (R280, R285). -/
def LoopSt.runsOf (l : LoopSt) (q : LoopSeq) : List (Req × List Nat) :=
  let nd := l.blk.nd
  if q.prompting then
    runReq q.seq (l.chunk q) 0 :: (q.draft.toList.map (fun d => runReq d (l.chunk q) 0))
  else runReq q.seq 1 nd :: (q.draft.toList.map (fun d => runReq d (1 + q.catchUp.toList.length) (nd - 1)))

/-- The JOIN entries of a request and its companion. -/
def LoopSt.joinsOf (l : LoopSt) (j : Joiner) : List (Req × List Nat) :=
  let req : ModelRec → Req × List Nat := fun m =>
    ({ seq := 0, kind := 2, spec := false, pin := false, share := j.pshare != 0, ndraft := 0, nres := l.chunk j.q,
       parent := j.pseq, pool := m.pool, nlayerM1 := m.nlayerM1, arg := j.pshare }, [])
  req (modelRec l.mrec) :: (if l.blk.drafts then [req (modelRec l.drec)] else [])

/-- One element of a step's admission: sequences left, a sequence that runs, or a request that joins. -/
inductive Adm where
  | leave (seq : Nat)
  | run (q : LoopSeq)
  | join (j : Joiner)
  deriving DecidableEq, Repr

/-- Its BOLT_STEP entries. -/
def LoopSt.entries (l : LoopSt) : Adm → List (Req × List Nat)
  | .leave n => [({ (runReq n 0 0).1 with kind := 0 }, [])]
  | .run q => l.runsOf q
  | .join j => l.joinsOf j

/-- What an admission has decided: sequences stalled or failed by tag, requests joined with their ids, requests refused or
deferred with what a partial join leaves behind, and the pages it would copy whose headers fail their check. -/
structure Admitted where
  state : State
  stalled : List Word
  failed : List Word
  joined : List LoopSeq
  refused : List Joiner
  deferred : List Joiner
  orphans : List Nat
  bad : List PageRef
  deriving DecidableEq, Repr

/-- The RUNs of one sequence: both or neither, a stall noted on each (log 29). -/
def State.runPair (s : State) (rs : List (Req × List Nat)) : State × Bool × List PageRef :=
  let t := rs.foldl (fun (acc : State × Bool × List PageRef) r =>
    let (t, d) := acc.1.run r.1 r.2 none
    (t, acc.2.1 && d.status != 0x51, acc.2.2 ++ d.bad)) (s, true, [])
  if t.2.1 then t
  else (rs.foldl (fun s r =>
    let q := s.seqn r.1.seq
    s.putSeq r.1.seq { q with res := 0, admLen := q.len, lastst := 0x51 }) s, false, [])

/-- The largest prefix of elements that R245's limits let one BOLT_STEP hold, at least one. -/
def State.stepPrefix (s : State) (l : LoopSt) : Nat → List Adm → Nat
  | 0, _ => 1
  | n + 1, as_ =>
    let rs := (as_.take (n + 1)).flatMap l.entries
    let t := s.tallyAll none rs
    let ids := (namedSeqs (rs.map Prod.fst)).length + (rs.filter (fun r => r.1.kind == 2)).length
    if ids ≤ 4096 && t.a + t.shared + 4 * t.b ≤ 32000 then n + 1 else s.stepPrefix l n as_

/-- The joins of one BOLT_STEP, their results taken per request (R283, R285). -/
def Admitted.joinAll (a : Admitted) (l : LoopSt) (part : Nat) (js : List Joiner) : Admitted :=
  let rs := js.flatMap l.joinsOf
  let k := if l.blk.drafts then 2 else 1
  let (s, ds) := a.state.joins part none [] false (rs.zipIdx.map (fun p => (p.2, p.1.1, p.1.2)))
    (rs.map (fun _ => ({ status := 0x50, bytes := [] } : Decided)))
  (js.zip (pieces k ds)).foldl (fun a p =>
    let ids := p.2.map (fun d => if d.status = 0x50 then none else some (fieldOf d.bytes 2 2))
    if ids.all Option.isSome && a.deferred.isEmpty then
      { a with joined := a.joined ++ [{ p.1.q with seq := (ids.filterMap id).headD 0,
                                                    draft := ((ids.filterMap id).drop 1).head? }] }
    else { a with deferred := a.deferred ++ [p.1], orphans := a.orphans ++ ids.filterMap id })
    { a with state := s, bad := a.bad ++ ds.flatMap Decided.bad }

/-- One BOLT_STEP of a loop (R245, R247, R279): a refused one ends what it names. -/
def Admitted.chunk (a : Admitted) (l : LoopSt) (part : Nat) (as_ : List Adm) : Admitted :=
  let s := a.state
  match s.stepRefused part true none (as_.flatMap l.entries) with
  | some _ =>
    as_.foldl (fun a e => match e with
      | .leave _ => a
      | .run q => { a with failed := a.failed ++ [q.tag] }
      | .join j => { a with refused := a.refused ++ [j] }) a
  | none =>
    let (s, _) := as_.foldl (fun (acc : State × Nat) e => match e with
      | .leave n =>
        let (s, lim, _) := acc.1.leave n acc.2 none
        (s, lim)
      | _ => acc) (s, 8192)
    let a := as_.foldl (fun a e => match e with
      | .run q =>
        let (s, ok, bad) := a.state.runPair (l.runsOf q)
        { a with state := s, stalled := if ok then a.stalled else a.stalled ++ [q.tag], bad := a.bad ++ bad }
      | _ => a) { a with state := s }
    a.joinAll l part (as_.filterMap (fun e => match e with
      | .join j => some j
      | _ => none))

/-- The elements admitted in order, over as many BOLT_STEPs as the limits require; `fuel` is their number. -/
def Admitted.all (a : Admitted) (l : LoopSt) (part : Nat) : Nat → List Adm → Admitted
  | 0, _ => a
  | _ + 1, [] => a
  | fuel + 1, as_ =>
    let n := a.state.stepPrefix l as_.length as_
    (a.chunk l part (as_.take n)).all l part fuel (as_.drop n)

/-- Why an active sequence does not run in this step: it ends (a reason), or it has no room this step. -/
inductive Held where
  | go
  | ends (reason : Nat)
  | waits
  deriving DecidableEq, Repr

/-- The positions that a sequence's RUNs would reach (R282). -/
def State.reaches (s : State) (l : LoopSt) (q : LoopSeq) : Nat :=
  (s.seqn q.seq).len + (if q.prompting then l.chunk q else 1 + l.blk.nd)

/-- The active sequences of a step with what holds them, `used` rows being taken (R282; quarantined ones and those
beyond MAXROWS, log 29). -/
def State.heldSeqs (s : State) (l : LoopSt) (cancels : List Word) : List LoopSeq → Nat × Nat → List (LoopSeq × Held)
  | [], _ => []
  | q :: t, used =>
    let n := l.rowsOf q
    let ids := q.seq :: q.draft.toList
    let capT := (modelRec l.mrec).maxRows
    let capD := (modelRec l.drec).maxRows
    if cancels.contains q.tag then (q, .ends 3) :: s.heldSeqs l cancels t used
    else if ids.any (fun k => (s.seqn k).quar) then (q, .ends 7) :: s.heldSeqs l cancels t used
    else if 2 ^ 24 < s.reaches l q then (q, .ends 2) :: s.heldSeqs l cancels t used
    else if capT < used.1 + n.1 || (l.blk.drafts && capD < used.2 + n.2) then
      (q, .waits) :: s.heldSeqs l cancels t used
    else (q, .go) :: s.heldSeqs l cancels t (used.1 + n.1, used.2 + n.2)

/-- Requests that the step's admission can take: a bad share or pool makes the entry bad (R278). -/
def State.joinOk (s : State) (l : LoopSt) (leaves : List Nat) (j : Joiner) : Bool :=
  (l.joinsOf j).all (fun r => s.reqValid (s.partOf l.desc) true leaves r.1)

/-- Requests within the rows that a step has left. -/
def LoopSt.fitJoins (l : LoopSt) : List Joiner → Nat × Nat → List Joiner
  | [], _ => []
  | j :: t, used =>
    let n := l.rowsOf j.q
    if (modelRec l.mrec).maxRows < used.1 + n.1
        || (l.blk.drafts && (modelRec l.drec).maxRows < used.2 + n.2) then []
    else j :: l.fitJoins t (used.1 + n.1, used.2 + n.2)

/-! ### Rows and drafts (R280, R285) -/

/-- A sequence of a step that has rows, with its place in the step's order. -/
structure Actor where
  who : Nat
  q : LoopSeq
  deriving DecidableEq, Repr

/-- Consecutive rows of tokens from a position; the last is a logit row if `logit`. -/
def rowsFrom (who seq pos : Nat) (logit : Bool) (ts : List Nat) : List LRow :=
  ts.zipIdx.map (fun t => { who := who, seq := seq, tok := t.1, pos := pos + t.2, slot := none,
                            logit := logit && t.2 + 1 == ts.length })

/-- The prompt rows of a sequence in a model whose bolt is `seq`. -/
def State.promptRows (s : State) (a : Actor) (seq : Nat) : List LRow :=
  let n := (s.seqn seq).res
  rowsFrom a.who seq ((s.seqn seq).len - n) (a.q.done + n == a.q.prompt.length) ((a.q.prompt.drop a.q.done).take n)

/-- The root position of a decode sequence. -/
def State.rootPos (s : State) (a : Actor) : Nat := (s.seqn a.q.seq).len - 1

/-- The target rows of a sequence: its chunk, or its root and one row per draft. -/
def State.targetRows (s : State) (a : Actor) (drafts : List Nat) : List LRow :=
  if a.q.prompting then s.promptRows a a.q.seq
  else
    { who := a.who, seq := a.q.seq, tok := a.q.last, pos := s.rootPos a, slot := none, logit := true }
      :: drafts.zipIdx.map (fun d => { who := a.who, seq := a.q.seq, tok := d.1, pos := s.rootPos a + 1 + d.2,
                                       slot := some d.2, logit := true })

/-- The draft rows of a sequence in iteration `i` from 1 (R285). -/
def State.draftRows (s : State) (a : Actor) (i : Nat) (drafts : List Nat) : List LRow :=
  match a.q.draft with
  | none => []
  | some n =>
    if a.q.prompting then (if i = 1 then s.promptRows a n else [])
    else if i = 1 then
      let ts := a.q.catchUp.toList ++ [a.q.last]
      rowsFrom a.who n ((s.seqn n).len - ts.length) true ts
    else [{ who := a.who, seq := n, tok := drafts.getD (i - 2) 0, pos := s.rootPos a + i - 1, slot := some (i - 2),
            logit := true }]

/-- A row of logits sampled for its sequence. -/
def State.sampleFor (s : State) (l : LoopSt) (g : LoopModel) (as_ : List Actor) (p : LRow × Nat) :
    LoopM (Nat × Option Nat) := do
  let xs ← s.logitsOf l.desc g p.2
  let q := ((as_.find? (fun a => a.who == p.1.who)).map Actor.q).getD (newSeq [] [])
  let v : SfuEnv := { plainEnv with table := s.recovering l.desc.ctx }
  return (p.1.who, sampleRow v { temp := q.temp.toNat, topk := q.topk, topp := q.topp.toNat, seed := q.seed }
    (p.1.pos + 1) xs)

/-- Every logit row of a run sampled: (sequence, token) in row order. -/
def State.sampleAll (s : State) (l : LoopSt) (g : LoopModel) (as_ : List Actor) (rows : List LRow) :
    LoopM (List (Nat × Option Nat)) :=
  (rows.filter LRow.logit).zipIdx.mapM (s.sampleFor l g as_)

/-- What the runs of a step have done so far: drafts by sequence, sequences ended with their reason, the flags of the
target's run and of each draft iteration, and an ECC_RETRIED kernel. -/
structure StepRun where
  state : State
  drafts : List (Nat × Nat)
  ended : List (Nat × Nat)
  flags : LoopFlags
  drafted : List LoopFlags
  retried : Bool
  deriving DecidableEq, Repr

/-- The drafts of a sequence, in order. -/
def StepRun.draftsOf (r : StepRun) (who : Nat) : List Nat := (r.drafts.filter (fun d => d.1 == who)).map Prod.snd

/-- A sequence still running in the step. -/
def StepRun.live (r : StepRun) (a : Actor) : Bool := !(r.ended.any (fun e => e.1 == a.who))

/-- A run's outcome taken into the step. -/
def StepRun.took (r : StepRun) (n : Ran) : StepRun :=
  { r with state := n.state, ended := r.ended ++ n.failed.dedup.map (fun w => (w, 7)), flags := r.flags.or n.flags,
           retried := r.retried || n.retried }

/-- The flags that a step records when the sequence that kept the most drafts kept `k`: iteration i takes draft i − 1, and
without it its work was a rejected speculative step (R71; DEDUCED, log 29). -/
def StepRun.keptFlags (r : StepRun) (k : Nat) : LoopFlags := (r.drafted.take (k + 1)).foldl LoopFlags.or r.flags

/-- One draft iteration (R285): its rows, its run, and a draft for each decode sequence. -/
def StepRun.draftStep (r : StepRun) (l : LoopSt) (as_ : List Actor) (nseq i : Nat) : LoopM StepRun := do
  let live := as_.filter r.live
  let rows := live.flatMap (fun a => r.state.draftRows a i (r.draftsOf a.who))
  let n ← r.state.runModel l.desc l.drafter rows nseq l.step (i - 1)
  let r := { r.took n with flags := r.flags, drafted := r.drafted ++ [n.flags] }
  let out ← r.state.sampleAll l l.drafter live rows
  return (out.filter (fun o => live.any (fun a => a.who == o.1 && !a.q.prompting && r.live a))).foldl (fun r o =>
    match o.2 with
    | some t => { r with drafts := r.drafts ++ [(o.1, t)] }
    | none => { r with ended := r.ended ++ [(o.1, 5)] }) r

/-! ### Acceptance, commit and output (R285, R289, R290) -/

/-- Leading drafts that agree with the target's samples. -/
def accepted : List Nat → List Nat → Nat
  | d :: ds, t :: ts => if d = t then accepted ds ts + 1 else 0
  | _, _ => 0

/-- Tokens emitted until a stop token or the limit: (token, stop), and the reason if it ends (R289). -/
def emit (stops : List Nat) : Nat → List Nat → List (Nat × Bool) × Option Nat
  | 0, _ => ([], some 1)
  | _ + 1, [] => ([], none)
  | n + 1, t :: ts =>
    if stops.contains t then ([(t, true)], some 0)
    else if n = 0 then ([(t, false)], some 1)
    else
      let (r, e) := emit stops n ts
      ((t, false) :: r, e)

/-- A sequence's speculation committed at a count of accepted slots (R260, R261, R285). -/
def State.commitAt (s : State) (n k : Nat) : State :=
  if (s.seqn n).spec then (s.commitSeq n (if k = 0 then 0xFF else k - 1) none).1 else s

/-- What one sequence's step comes to: its entries, the sequence if it goes on, and the counts of drafts accepted. -/
structure SeqOut where
  state : State
  toks : List TokEnt
  next : Option LoopSeq
  leaves : List Nat
  accepted : Nat
  deriving DecidableEq, Repr

/-- A sequence that ends: its END entry after its tokens, and what the next admission leaves (R289, R290). -/
def LoopSt.endSeq (l : LoopSt) (s : State) (q : LoopSeq) (toks : List TokEnt) (reason acc : Nat) : SeqOut :=
  let keep := l.blk.keep
  { state := s,
    toks := toks ++ [{ tag := q.tag, value := q.emitted, pos := (s.seqn q.seq).len, isEnd := true, reason := reason,
                       stop := false, draft := false, kept := keep, seq := q.seq }],
    next := none, leaves := (if keep then [] else [q.seq]) ++ q.draft.toList, accepted := acc }

/-- The entries of emitted tokens from a position; the first `k` are accepted drafts. -/
def LoopSeq.tokens (q : LoopSeq) (pos k : Nat) (ts : List (Nat × Bool)) : List TokEnt :=
  ts.zipIdx.map (fun t => { tag := q.tag, value := t.1.1, pos := pos + t.2, isEnd := false, reason := 0, stop := t.1.2,
                            draft := t.2 < k, kept := false, seq := q.seq })

/-- Stages 8 and 9 for a sequence whose rows ran: `ts` are the target's samples, `ds` the drafts. -/
def LoopSt.finish (l : LoopSt) (s : State) (q : LoopSeq) (ds ts : List Nat) : SeqOut :=
  let b := l.blk
  if q.prompting then
    let n := (s.seqn q.seq).res
    let q' := { q with done := q.done + n }
    match ts with
    | [] => { state := s, toks := [], next := some q', leaves := [], accepted := 0 }
    | t :: _ =>
      let (out, why) := emit b.stops (q.maxNew - q.emitted) [t]
      let toks := q.tokens (s.seqn q.seq).len 0 out
      let q' := { q' with emitted := q.emitted + out.length, last := t }
      match why with
      | some r => l.endSeq s q' toks r 0
      | none => { state := s, toks := toks, next := some q', leaves := [], accepted := 0 }
  else
    let root := (s.seqn q.seq).len - 1
    let a := accepted ds ts
    let (out, why) := emit b.stops (q.maxNew - q.emitted) (ds.take a ++ (ts.drop a).take 1)
    let k := min a out.length
    let s := s.commitAt q.seq k
    let s := match q.draft with
      | some n => s.commitAt n (min k (b.nd - 1))
      | none => s
    let toks := q.tokens (root + 1) k out
    let q' := { q with emitted := q.emitted + out.length, last := (out.map Prod.fst).getLastD q.last,
                       catchUp := if b.drafts && k = b.nd then ds.getLast? else none }
    match why with
    | some r => l.endSeq s q' toks r k
    | none => { state := s, toks := toks, next := some q', leaves := [], accepted := k }

/-- A sequence ended in the midst of its step: its open speculation is closed first. -/
def LoopSt.breakOff (l : LoopSt) (s : State) (q : LoopSeq) (reason : Nat) : SeqOut :=
  let s := (q.seq :: q.draft.toList).foldl (fun s n => s.commitAt n 0) s
  l.endSeq s q [] reason 0

/-! ### The end of a loop (R271, R291 to R293) -/

/-- The sequences a loop has to leave, left by one final admission (R291). -/
def State.leaveAll (s : State) (ns : List Nat) : State :=
  (ns.foldl (fun (acc : State × Nat) n =>
    let (s, lim, _) := acc.1.leave n acc.2 none
    (s, lim)) (s, 8192)).1

/-- The loop ends with a status: the final admission, the summary record, the completion record. -/
def State.finishLoop (s : State) (n : Nat) (l : LoopSt) (status : Nat) : LoopM State := do
  let r := l.blk.summary
  s.need l.desc (if r = 0 then [] else [wrRun r 0 64])
  let s := s.leaveAll l.leaves
  return (s.setLoop n { l with leaves := [], seqs := [] }).endLoop n status

/-- Counts of the summary raised: STEPS, TOKENS, DRAFTED, ACCEPTED, JOINED, DEFERRED, STALLED, ENDED (R293). -/
def addCounts (c d : List Nat) : List Nat := (c.zip d).map (fun p => p.1 + p.2)

/-- Every active sequence ended for a reason, its entries written, and the loop finished with a status. -/
def State.endAllSeqs (s : State) (n : Nat) (l : LoopSt) (reason status : Nat) : LoopM State := do
  let outs := l.seqs.map (fun q => l.endSeq s q [] reason 0)
  let (s, l) ← s.putTokens l (outs.flatMap SeqOut.toks)
  let l := { l with seqs := [], leaves := l.leaves ++ outs.flatMap SeqOut.leaves,
                    counts := addCounts l.counts [0, 0, 0, 0, 0, 0, 0, outs.length] }
  s.finishLoop n l status

/-- An ABORT at a step boundary (R291); it waits for the token ring's room. -/
def State.abortLoop (s : State) (n : Nat) : LoopM State := do
  let l := s.loopAt n
  let room ← s.tokRoom l
  if room < l.seqs.length then .error .waits else s.endAllSeqs n l 4 0x01

/-- The boundary after a step (R283, R292): stalled for too long, done, idle, or on. -/
def State.boundary (s : State) (n : Nat) (l : LoopSt) : LoopM State := do
  let b := l.blk
  if b.stallMax ≤ l.stallRun then s.endAllSeqs n l 6 0x51
  else
    let prod ← s.reqProd l
    if !l.seqs.isEmpty || prod != l.reqCons then return s.setLoop n l
    else if !b.cont then s.finishLoop n l 0
    else
      return (s.setLoop n { l with idle := true }).beginWatch (64 + n) (.loop n)

/-! ### The step (R279) -/

/-- Stage 3 of a step: what it admits, what holds each active sequence, and the requests refused before it. -/
structure Planned where
  adm : Admitted
  held : List (LoopSeq × Held)
  refused : List Joiner
  deriving DecidableEq, Repr

/-- The sequences and parents that the admission of a step names. -/
def LoopSt.names (l : LoopSt) (i : Intake) : List Nat :=
  (l.leaves ++ l.seqs.flatMap (fun q => q.seq :: q.draft.toList)
    ++ (i.joins.filter (fun j => j.pshare != 0)).map Joiner.pseq).dedup

/-- The admission of a step waits while another prepared one names a sequence of it, or the cache has no room for what one
BOLT_STEP of it pins (R246). -/
def State.admitWaits (s : State) (l : LoopSt) (i : Intake) : Bool :=
  let k := if l.blk.drafts then 2 else 1
  s.stepBusy l.d (l.names i)
    || !(s.cacheRoom (min Config.seqCacheEntries ((l.names i).length + k * i.joins.length)))

/-- Stage 3 performed. -/
def State.loopAdmit (s : State) (l : LoopSt) (i : Intake) : Planned :=
  let part := s.partOf l.desc
  let s := s.cacheSeqs (l.names i)
  let held := s.heldSeqs l i.cancels l.seqs (0, 0)
  let go := held.filterMap (fun h => if h.2 = .go then some h.1 else none)
  let used := go.foldl (fun (u : Nat × Nat) q =>
    let n := l.rowsOf q
    (u.1 + n.1, u.2 + n.2)) (0, 0)
  let refused := i.joins.filter (fun j => !s.joinOk l l.leaves j)
  let ok := i.joins.filter (s.joinOk l l.leaves)
  let joins := l.fitJoins ok used
  let late := ok.drop joins.length
  let as_ := l.leaves.map Adm.leave ++ go.map Adm.run ++ joins.map Adm.join
  let a : Admitted := { state := s, stalled := [], failed := [], joined := [], refused := [], deferred := [], orphans := [], bad := [] }
  let a := a.all l part as_.length as_
  { adm := { a with deferred := a.deferred ++ late }, held := held, refused := refused ++ a.refused }

/-- Stages 4 to 7: the draft iterations, the target's run and its samples. -/
def StepRun.models (r : StepRun) (l : LoopSt) (as_ : List Actor) (nseq : Nat) :
    LoopM (StepRun × List (Nat × Option Nat)) := do
  let r ← (upTo l.blk.nd).foldlM (fun (r : StepRun) i => r.draftStep l as_ nseq (i + 1)) r
  let live := as_.filter r.live
  let rows := live.flatMap (fun a => r.state.targetRows a (r.draftsOf a.who))
  let n ← r.state.runModel l.desc l.target rows nseq l.step l.blk.nd
  let r := r.took n
  let out ← r.state.sampleAll l l.target live rows
  let bad := (out.filter (fun o => o.2.isNone)).map Prod.fst
  return ({ r with ended := r.ended ++ (bad.dedup.filter (fun w => !(r.ended.any (fun e => e.1 == w)))).map (fun w => (w, 5)) },
    out)

/-- Stages 8 and 9 for one sequence of the step. -/
def StepRun.conclude (r : StepRun) (l : LoopSt) (out : List (Nat × Option Nat)) (s : State) (q : LoopSeq) (h : Held)
    (place : Option Nat) : SeqOut :=
  match h, place with
  | .ends why, _ => l.endSeq s q [] why 0
  | _, none => { state := s, toks := [], next := some q, leaves := [], accepted := 0 }
  | _, some w =>
    match r.ended.find? (fun e => e.1 == w) with
    | some e => l.breakOff s q e.2
    | none => l.finish s q (r.draftsOf w) ((out.filter (fun o => o.1 == w)).filterMap Prod.snd)

/-- The commit of a sequence and its companion that keeps `k` drafts, as BOLT_COMMIT entries (R285). -/
def LoopSt.commits (l : LoopSt) (q : LoopSeq) (k : Nat) : List (Nat × Nat × Nat) :=
  let leaf := fun (k : Nat) => if k = 0 then 0xFF else k - 1
  (q.seq, leaf k, 0) :: q.draft.toList.map (fun n => (n, leaf (min k (l.blk.nd - 1)), 0))

/-- Stages 8 and 9 for the sequences of a step in order. A provisional page whose header does not match ends the step in a
fault, as it does a BOLT_COMMIT (R262). -/
def StepRun.concludeAll (r : StepRun) (l : LoopSt) (out : List (Nat × Option Nat))
    (seqs : List ((LoopSeq × Held) × Option Nat)) : LoopM (State × List SeqOut) :=
  seqs.foldlM (fun (acc : State × List SeqOut) h => do
    let o := r.conclude l out acc.1 h.1.1 h.1.2 h.2
    match acc.1.badCommit (l.commits h.1.1 o.accepted) with
    | some p => .error (loopEnds (.mismatch p))
    | none => return (o.state, acc.2 ++ [o])) (r.state, [])

/-- A step that ran nothing: every sequence that was active stalls and no request joins (R283). -/
def stepStuck (p : Planned) (seqs : List (LoopSeq × Held)) (as_ : List Actor) : Bool :=
  as_.isEmpty && p.adm.joined.isEmpty
    && (seqs.any (fun h => h.2 == .go || h.2 == .waits) || !p.adm.deferred.isEmpty)

/-- END entries of stage 1 and of refused requests before the first deferred one, in ring order, and how many
entries are consumed (R279). -/
def consumed (i : Intake) (p : Planned) : Nat × List TokEnt :=
  let n := (p.adm.deferred.map Joiner.at_).foldl min i.taken
  let refused := p.refused.map (fun j => (j.at_, endBefore j.q.tag 8))
  (n, (upTo n).flatMap (fun k => ((i.ends ++ refused).filter (fun e => e.1 == k)).map Prod.snd))

/-- Stages 1 to 3 of a step from up to `m` waiting entries: a CANCEL behind the first deferred JOIN is not consumed, so the stages
then take the entries up to that JOIN alone. A page that the admission would copy and whose header fails its check ends the step in
a fault (R230). `fuel` is the number of entries. -/
def State.planStep (s : State) (l : LoopSt) : Nat → Nat → LoopM (Intake × Planned)
  | 0, _ => .error .waits
  | fuel + 1, m => do
    let i ← s.takeReqs l m { taken := 0, joins := [], ends := [], cancels := [], lastCancel := 0 }
    let room ← s.tokRoom l
    if room < (l.blk.nd + 2) * (l.seqs.length + i.joins.length) + i.ends.length || s.admitWaits l i then .error .waits
    else
      let p := s.loopAdmit l i
      let n := (consumed i p).1
      match p.adm.bad with
      | r :: _ => .error (loopEnds (.mismatch r))
      | [] => if n < i.lastCancel && n + 1 < m then s.planStep l fuel (n + 1) else return (i, p)

/-- One step of a loop (R279). -/
def State.stepLoop (s : State) (n : Nat) : LoopM State := do
  let l := s.loopAt n
  let b := l.blk
  let prod ← s.reqProd l
  let m := min (2 ^ b.lreq) (prod - l.reqCons).toNat
  let (i, p) ← s.planStep l (m + 1) m
  do
    let seqs := p.held ++ p.adm.joined.map (fun q => (q, Held.go))
    let seqs := seqs.map (fun h => if p.adm.failed.contains h.1.tag then (h.1, Held.ends 7) else h)
    let runs := fun (h : LoopSeq × Held) => h.2 == .go && !(p.adm.stalled.contains h.1.tag)
    let as_ := seqs.zipIdx.filterMap (fun h => if runs h.1 then some { who := h.2, q := h.1.1 : Actor } else none)
    let r : StepRun := { state := p.adm.state, drafts := [], ended := [], flags := noFlags, drafted := [], retried := false }
    let (r, out) ← r.models l as_ (seqs.filter (fun h => h.2 == .go || h.2 == .waits)).length
    let (s, outs) ← r.concludeAll l out (seqs.zipIdx.map (fun h => (h.1, if runs h.1 then some h.2 else none)))
    let fl := r.keptFlags ((outs.map SeqOut.accepted).foldl max 0)
    let s := s.raiseOn l.desc.ctx fl.array fl.sfu
    let (used, ends) := consumed i p
    let toks := outs.flatMap SeqOut.toks
    let (s, l) ← s.putTokens l (ends ++ toks)
    let cons := l.reqCons + BitVec.ofNat 32 used
    let s ← if used = 0 then .ok s else s.putRing l.desc b.req 64 (natLe 4 cons.toNat) false
    let decode := as_.filter (fun a => !a.q.prompting)
    let l := { l with
      seqs := outs.filterMap SeqOut.next, leaves := p.adm.orphans ++ outs.flatMap SeqOut.leaves,
      step := l.step + 1, reqCons := cons, inStep := false, image := [], stallRun := if stepStuck p seqs as_ then l.stallRun + 1 else 0,
      desc := { l.desc with flags := l.desc.flags ||| fl.own,
                            status := if r.retried then mergeStatus l.desc.status 0x31 else l.desc.status },
      counts := addCounts l.counts
        [1, (toks.filter (fun t => !t.isEnd)).length, b.nd * decode.length, (outs.map SeqOut.accepted).sum,
         p.adm.joined.length, p.adm.deferred.length, p.adm.stalled.length, (toks.filter TokEnt.isEnd).length] }
    s.boundary n l

/-- A loop halted by a range fault in the kernel of an image, or in none: the step that met it begins again when the host replies
(R376, log 29). -/
def State.haltLoop (s : State) (n : Nat) (r : Run) (img : List Byte) : State :=
  let l := s.loopAt n
  let h := refHandle r.ref
  let g := match l.desc.transAt h with
    | some t => t.gen
    | none => (s.range h).gen
  let f : PFault :=
    { id := none, core := none, part := s.partOf l.desc, handle := h, gen := g, reason := 0, isWrite := r.wr, offset := r.start,
      ctx := l.desc.ctx, tag := l.desc.tag, d := some l.d }
  (s.setLoop n { l with inStep := !l.idle, image := img }).addFault f

/-- A lasting error of a loop's own work: noted against it, and its context torn down (R478, R485). -/
def State.loopFault (s : State) (n status : Nat) : State :=
  let l := s.loopAt n
  (s.noteLoop n status).tearDown l.desc.ctx status 0xFF (if status = 0x30 then 0xFFFE else 0) (some l.d)

/-- What becomes of a loop by an outcome of its work. -/
def State.loopOutcome (s : State) (n : Nat) : LoopM State → State
  | .ok t => t
  | .error .waits => s
  | .error (.by_ (.halt r) img) => s.haltLoop n r img
  | .error (.by_ (.mismatch p) _) =>
    let l := s.loopAt n
    (s.logEvent 0x07 2 6 0 (refWord p.pool p.page % 2 ^ 30) l.desc.ctx l.desc.tag).loopFault n 0x30
  | .error (.by_ (.lost row) _) =>
    let l := s.loopAt n
    (s.logEvent 0x02 2 1 (row % 64) row l.desc.ctx l.desc.tag).loopFault n 0x30
  | .error (.by_ (.bad st _) _) => ((s.noteLoop n st).cutLoop n).1
  | .error (.by_ (.done _ _ _ _) _) => s

/-- A loop that can act: live, its context not torn down, no range fault of its own pending. -/
def State.loopLive (s : State) (n : Nat) : Bool :=
  let l := s.loopAt n
  n < 32 && l.live && s.serving && !(s.faults.any (fun f => f.d == some l.d))

/-- A loop may begin a step: its context has the turn, its clusters have power, and none of its kernels runs or has yielded
(R271, R458, R470, R520). -/
def State.loopReady (s : State) (l : LoopSt) : Bool :=
  let k := s.kernel l.desc.ctx
  !l.idle && s.turnFree l.desc.ctx && s.clustersUp l.desc.ctx && !k.live && !k.paused

/-- A step at the context's turn, or the end that an ABORT asked for (R279). -/
def State.loopTurn (s : State) (n : Nat) : State :=
  let l := s.loopAt n
  if l.aborting && !l.inStep then s.loopOutcome n (s.abortLoop n)
  else
    let s := (s.takeTurn l.desc.ctx).kernelBoundary l.desc.ctx true
    let s := s.loopOutcome n (s.stepLoop n)
    let s := if l.aborting && s.loopLive n && !(s.loopAt n).inStep then s.loopOutcome n (s.abortLoop n) else s
    let s := (s.ctxCores l.desc.ctx).foldl State.countBubbles s
    s.kernelBoundary l.desc.ctx (s.kernelReady l.desc.ctx)

/-- LOOP_RESUME (R292, R360): the read of an idle loop's request ring that followed the arming of its watch returns; a PROD that
has moved wakes the loop. -/
def execLoopResume (loop : Nat) (s : State) : Host.Outcome State Fault Refusal :=
  .next (
    let l := s.loopAt loop
    match (if s.loopLive loop && l.idle then s.watchOut (64 + loop) .rd else none) with
    | none => s
    | some at_ =>
      let s := (s.watchDone at_).readSeen (64 + loop)
      match s.reqProd l with
      | .ok prod => if prod = l.reqCons then s
          else (s.setLoop loop { l with idle := false }).endWatch (64 + loop)
      | e => s.loopOutcome loop (e.map (fun _ => s)))

end Sys2Proof.Machine
end

