-- ==== Sys2Proof/Machine/Commands.lean ====
section
/-!
DEFINITION. The commands that a control core sends to the Bolt manager and to the collective engine: each carries a CRC
that its receiver checks before first use (R28).
-/

namespace Sys2Proof.Machine

/-- A command met with its check (R28): performed, performed once regenerated, or taken as its control core's watchdog
expiring. The checks of its reads come before what it does (R230, R481). -/
def State.checkedCommand (s : State) (c : SentCommand) (act : State → State) : State :=
  match s.running? c.d [0x20, 0x21, 0x22, 0x23, 0x30], c.chk with
  | some x, .failed ok => s.ccoreExpiry (s.ctx x.ctx).owner ok
  | some x, chk => match (if chk = .again then s.tableRetried x else s).readsMet x c.reads with
    | (true, t) => act t
    | (false, t) => t
  | none, _ => act s

/-- BOLT_STEP (R242, R245, R246): the preparation phase. -/
def execBoltStep (c : SentCommand) (s : State) : Host.Outcome State Fault Refusal :=
  .next (s.checkedCommand c (fun s => s.boltStepCmd c.d))

/-- BOLT_COMMIT (R260, R261). -/
def execBoltCommit (c : SentCommand) (s : State) : Host.Outcome State Fault Refusal :=
  .next (s.checkedCommand c (fun s => s.boltCommitCmd c.d))

/-- BOLT_MIGRATE_MOVE (R265). -/
def execBoltMigrateMove (c : SentCommand) (s : State) : Host.Outcome State Fault Refusal :=
  .next (s.checkedCommand c (fun s => s.boltMigrateMoveCmd c.d))

/-- BOLT_MIGRATE_EXPORT (R265). -/
def execBoltMigrateExport (c : SentCommand) (s : State) : Host.Outcome State Fault Refusal :=
  .next (s.checkedCommand c (fun s => s.boltMigrateExportCmd c.d))

/-- BOLT_MIGRATE_IMPORT (R265). -/
def execBoltMigrateImport (c : SentCommand) (s : State) : Host.Outcome State Fault Refusal :=
  .next (s.checkedCommand c (fun s => s.boltMigrateImportCmd c.d))

/-- BOLT_MIGRATE_CHECK (R265). -/
def execBoltMigrateCheck (c : SentCommand) (s : State) : Host.Outcome State Fault Refusal :=
  .next (s.checkedCommand c (fun s => s.boltMigrateCheckCmd c.d))

/-- BOLT_POOL_CREATE (R226). -/
def execBoltPoolCreate (c : SentCommand) (s : State) : Host.Outcome State Fault Refusal :=
  .next (s.checkedCommand c (fun s => s.boltPoolCreateCmd c.d))

/-- BOLT_POOL_DESTROY (R227). -/
def execBoltPoolDestroy (c : SentCommand) (s : State) : Host.Outcome State Fault Refusal :=
  .next (s.checkedCommand c (fun s => s.boltPoolDestroyCmd c.d))

/-- BOLT_POOL_RESET (R227). -/
def execBoltPoolReset (c : SentCommand) (s : State) : Host.Outcome State Fault Refusal :=
  .next (s.checkedCommand c (fun s => s.boltPoolResetCmd c.d))

/-- BOLT_POOL_QUERY (R231, R232). -/
def execBoltPoolQuery (c : SentCommand) (s : State) : Host.Outcome State Fault Refusal :=
  .next (s.checkedCommand c (fun s => s.boltPoolQueryCmd c.d))

/-- BOLT_POOL_SEQTAB (R227). -/
def execBoltPoolSeqtab (c : SentCommand) (s : State) : Host.Outcome State Fault Refusal :=
  .next (s.checkedCommand c (fun s => s.boltPoolSeqtabCmd c.d))

/-- BOLT_POOL_SYNC (R227). -/
def execBoltPoolSync (c : SentCommand) (s : State) : Host.Outcome State Fault Refusal :=
  .next (s.checkedCommand c (fun s => s.boltPoolSyncCmd c.d))

/-- COLL_ALLREDUCE REDUCE (R410). -/
def execCollReduce (c : SentCommand) (s : State) : Host.Outcome State Fault Refusal :=
  .next (s.checkedCommand c (fun s => s.collReduceCmd c.d))

/-- COLL_ALLREDUCE CREATE (R414). -/
def execCollCreate (c : SentCommand) (s : State) : Host.Outcome State Fault Refusal :=
  .next (s.checkedCommand c (fun s => s.collCreateCmd c.d))

/-- COLL_ALLREDUCE DESTROY (R417). -/
def execCollDestroy (c : SentCommand) (s : State) : Host.Outcome State Fault Refusal :=
  .next (s.checkedCommand c (fun s => s.collDestroyCmd c.d))

/-- The admissions and commits of a loop's step that were regenerated once (R28, R480). -/
def State.loopRetried (s : State) (n : Nat) : State :=
  let x := (s.loopAt n).desc
  let c := (s.ctx x.ctx).owner
  ((s.logEvent 0x01 1 2 c 0 x.ctx x.tag).noteRepeat 0x01 2 c 0).noteLoop n 0x31

/-- What the checks of the reads of a loop's step came to: whether their data arrive, and the state (R481). -/
def State.loopReadsMet (s : State) (n : Nat) (c : ReadCheck) : Bool × State :=
  let l := s.loopAt n
  let x := l.desc
  match c with
  | .retried r => (true, if s.mayRead x r then (s.readCured x r).noteLoop n 0x31 else s)
  | .lasting r => if s.mayRead x r then (false, (s.readLost x r).loopFault n (readStatus r)) else (true, s)
  | _ => s.readsMet x c

/-- A loop's turn once the reads of its step are checked. -/
def State.loopRead (s : State) (n : Nat) (c : ReadCheck) : State :=
  match s.loopReadsMet n c with
  | (true, t) => t.loopTurn n
  | (false, t) => t

/-- LOOP_STEP (R279): a step at the context's turn, or the end that an ABORT asked for. Its control core sends the admissions and
commits to the Bolt manager, which checks them (R28). -/
def execLoopStep (t : LoopTurn) (s : State) : Host.Outcome State Fault Refusal :=
  .next (
    let l := s.loopAt t.loop
    if !s.loopLive t.loop || !((l.aborting && !l.inStep) || s.loopReady l) then s
    else match t.chk with
      | .matched => s.loopRead t.loop t.reads
      | .again => (s.loopRetried t.loop).loopRead t.loop t.reads
      | .failed ok => s.ccoreExpiry (s.ctx l.desc.ctx).owner ok)

end Sys2Proof.Machine
end

