-- ==== Sys2Proof/Machine/CoreDma.lean ====
section
/-!
DEFINITION. Piste steps of synchronisation and of the cluster DMA: SEMW, SEMP, the arrival of posts, RTAKE, RREL, WOPEN, WCLOSE, DMAIN,
DMAOUT, and the hold timeout (R22, R304 to R306, R313 to R318, R339 to R341, R348, R366 to R368, R370, R432).
-/

namespace Sys2Proof.Machine

/-! ### Semaphores (R339, R340, R370, R432) -/

/-- The Loom node of a core: that of its cluster (R20). -/
def loomNode (c : Nat) : Nat := c / 4

/-- The next number of a message sent over the Loom, and the state that has given it (R22). -/
def State.stampLoom (s : State) : Nat × State := (s.loomSent, { s with loomSent := s.loomSent + 1 })

/-- No message sent before the one of this number is on its way between the nodes of two cores: messages of a pair of nodes
arrive in the order in which they were issued (R22). -/
def State.loomFirst (s : State) (src target sent : Nat) : Bool :=
  let pair := fun (a b n : Nat) => loomNode a == loomNode src && loomNode b == loomNode target && decide (n < sent)
  !(s.loom.any (fun w => pair w.src w.target w.sent)) && !(s.cores.any (fun k => k.2.inPosts.any (fun p => pair p.src p.core p.sent)))

/-- A post on its way to its core. -/
def State.sendPost (s : State) (p : Post) : State :=
  let (n, s) := s.stampLoom
  s.setCore p.core { s.core p.core with inPosts := (s.core p.core).inPosts ++ [{ p with sent := n }] }

/-- Posts of a core sent once its earlier writes have been acknowledged (R22, R340). -/
def State.sendPosts (s : State) (c : Nat) : State :=
  let k := s.core c
  if k.loomDue.isEmpty && !s.coreOuts c true then k.posts.foldl State.sendPost (s.setCore c { k with posts := [] }) else s

/-- A post of a core to a pair on a core of its context, waiting to be sent; none where that core's plan does not claim
the pair. -/
def State.postTo (s : State) (c : Nat) (p : Post) : Option State :=
  let t := s.core p.core
  if t.ctx == some p.ctx && (t.pair p.pair).claimed then
    some ((s.setCore c { s.core c with posts := (s.core c).posts ++ [p] }).sendPosts c)
  else none

/-- SEMW (R339, R432). -/
def State.semwStep (s : State) (c : Nat) (st : Step) : StepRes :=
  let k := s.core c
  let n := stepArg st.word 0 6
  let isEmpty := stepArg st.word 6 1 == 1
  let amount := stepArg st.word 7 16
  let p := k.pair n
  if !p.claimed then .fault 0x23
  else if p.marked then .over (s.endKernelOn c 0x40)
  else if p.get isEmpty < amount then .hold .semw
  else .done (s.setCore c (k.setPair n (p.put isEmpty (p.get isEmpty - amount))))

/-- SEMW (R339). -/
def execSemw (core : Nat) (st : Step) (s : State) : Host.Outcome State Fault Refusal :=
  .next (s.issue core st 0x40 23 (fun s _ => s.semwStep core st))

/-- SEMP (R340). -/
def State.sempStep (s : State) (c : Nat) (st : Step) (x : Desc) : StepRes :=
  let p : Post :=
    { src := c, core := stepArg st.word 23 5, pair := stepArg st.word 0 6, isEmpty := stepArg st.word 6 1 == 1,
      amount := stepArg st.word 7 16, ctx := x.ctx, sent := 0 }
  match s.postTo c p with
  | some t => .done t
  | none => .fault 0x23

/-- SEMP (R340). -/
def execSemp (core : Nat) (st : Step) (s : State) : Host.Outcome State Fault Refusal :=
  .next (s.issue core st 0x41 28 (fun s x => s.sempStep core st x))

/-- The oldest post on its way to a core arrives, once the messages that its node sent before it to the core's node have
arrived (R22, R340, R348). Posts from different nodes arrive in the order in which they were sent (DESIGN CHOICE, log 56: R22
orders only the messages of one pair of nodes). -/
def State.postArrives (s : State) (c : Nat) : State :=
  let k := s.core c
  match k.inPosts with
  | [] => s
  | p :: ps =>
    let k := { k with inPosts := ps }
    if !s.loomFirst p.src c p.sent then s
    else match k.post p.pair p.isEmpty p.amount with
    | some k => s.setCore c k
    | none => if (k.pair p.pair).claimed then (s.setCore c k).coreFault c 0x23 else s.setCore c k

/-- SEMAPHORE_POST_ARRIVE (R340). -/
def execSemaphorePostArrive (core : Nat) (s : State) : Host.Outcome State Fault Refusal :=
  .next (if core < 32 && s.serving then s.postArrives core else s)

/-! ### Circular regions (R304 to R306, R341) -/

/-- Region `n` of a core, where a context owns it. -/
def Core.ownRegion (k : Core) (ctx n : Nat) : Option Region :=
  let r := getAt Region.reset k.regions n
  if r.used && r.ctx == ctx then some r else none
/-- Region `n` made `v`. -/
def Core.setRegion (k : Core) (n : Nat) (v : Region) : Core := { k with regions := putAt Region.reset k.regions n v }

/-- Slot `i` of a region. -/
def Region.slot (r : Region) (i : Nat) : SlotState := r.slots.getD i .empty
/-- Its slots from HEAD on. -/
def Region.fromHead (r : Region) : List Nat := (upTo r.nslot).map (fun i => (r.head + i) % r.nslot)

/-- The oldest slot in a state. -/
def Region.oldest (r : Region) (st : SlotState) : Option Nat := r.fromHead.find? (fun i => r.slot i == st)

/-- The slot at TAIL allocated to a fill, if it is EMPTY (R305). -/
def Region.allocate (r : Region) : Option Region :=
  if r.slot r.tail == .empty then some { r with slots := r.slots.set r.tail .filling, tail := (r.tail + 1) % r.nslot } else none

/-- Slots of region `n` that a skein has yet to be given (R255). -/
def Skein.fillsLeft (v : Skein) (n : Nat) : Nat := ((v.left.find? (fun p => p.1 == n)).map Prod.snd).getD 0

/-- The skein that gets the next slot of region `n`: the next in round-robin order with slots left (R255). -/
def Core.nextOwner (k : Core) (n : Nat) : Option Nat :=
  let ns := (k.skeins.filter (fun p => p.2.st != .none && 0 < p.2.fillsLeft n)).map Prod.fst
  match (getAt Region.reset k.regions n).turn with
  | some t => (ns.find? (fun m => t < m)).orElse (fun _ => ns.head?)
  | none => ns.head?

/-- A skein given a slot of region `n`. -/
def Skein.given (v : Skein) (n : Nat) : Skein :=
  { v with left := v.left.map (fun p => if p.1 = n then (p.1, p.2 - 1) else p) }

/-- The slot at TAIL of region `n` allocated to a fill, for the skein whose turn it is (R255, R305). -/
def Core.allocate (k : Core) (n : Nat) : Option Core :=
  let r := getAt Region.reset k.regions n
  r.allocate.map (fun v => match k.nextOwner n with
    | some m =>
      { k.setRegion n { v with owner := v.owner.set r.tail (some m), turn := some m } with
        skeins := putAt Skein.reset k.skeins m ((getAt Skein.reset k.skeins m).given n) }
    | none => k.setRegion n v)

/-- HEAD past the EMPTY slots between it and TAIL, at most `n` of them; a full ring keeps its HEAD. -/
def Region.advance (r : Region) : Nat → Region
  | 0 => r
  | n + 1 => if r.slot r.head == .empty && r.head != r.tail then { r with head := (r.head + 1) % r.nslot }.advance n else r

/-- A HELD slot released (R306). -/
def Region.release (r : Region) (i : Nat) : Region :=
  let r := { r with slots := r.slots.set i .empty, fill := r.fill.set i 0, owner := r.owner.set i none }
  -- A ring whose every slot was allocated has HEAD at TAIL: its first release there frees the slot at HEAD.
  let r := if r.head == r.tail && i == r.head then { r with head := (r.head + 1) % r.nslot } else r
  r.advance r.nslot

/-- A skein that waits on region `n` and may take a slot with this owner. -/
def Skein.waitsOn (v : Skein) (m n : Nat) (owner : Option Nat) : Bool :=
  v.st == .parked && v.wait == some n && (owner.isNone || owner == some m)

/-- A slot of region `n` is full: of the skeins that wait on it, the one parked longest becomes ready (R18). -/
def Core.readySkein (k : Core) (n : Nat) (owner : Option Nat) : Core :=
  match (k.skeins.filter (fun p => p.2.waitsOn p.1 n owner)).foldl (fun (b : Option (Nat × Skein)) p =>
      match b with
      | some q => if p.2.since < q.2.since then some p else b
      | none => some p) none with
  | some (m, v) =>
    { k with skeins := putAt Skein.reset k.skeins m { v with st := .ready, since := k.stamp, wait := none }, stamp := k.stamp + 1 }
  | none => k

/-- One row written by a fill: counted in a FILLING slot, which becomes FULL with its last row; none where its slot is
FULL or HELD (R305, R306). -/
def Core.countRow (k : Core) (row : Nat) : Option Core :=
  match k.slotOf row with
  | none => some k
  | some (n, i) =>
    let r := getAt Region.reset k.regions n
    match r.slot i with
    | .empty => some k
    | .filling =>
      let f := r.fill.getD i 0 + 1
      let r := { r with fill := r.fill.set i f }
      if r.slotRows ≤ f then some ((k.setRegion n { r with slots := r.slots.set i .full }).readySkein n (r.owner.getD i none))
      else some (k.setRegion n r)
    | _ => none

/-- Rows counted in order. -/
def Core.countRows (k : Core) (row n : Nat) : Option Core := (upTo n).foldl (fun k i => k.bind (fun k => k.countRow (row + i))) (some k)

/-- The skein that runs parks on region `n` (R18). -/
def Core.parkSkein (k : Core) (n : Nat) : Core :=
  { k with skeins := k.skeins.map (fun p =>
      if p.2.st == .running then (p.1, { p.2 with st := .parked, since := k.stamp, wait := some n }) else p), stamp := k.stamp + 1 }

/-- The oldest FULL slot that a consumer takes: a skein takes its own or one filled for none (R255, R306). -/
def Region.toTake (r : Region) (skein : Option Nat) : Option Nat :=
  r.fromHead.find? (fun i => r.slot i == .full
    && (match skein, r.owner.getD i none with
      | some m, some o => o == m
      | _, _ => true))

/-- RTAKE: the oldest FULL slot becomes HELD; without one a skein parks and another consumer waits (R18, R306, R339). -/
def State.rtakeStep (s : State) (c : Nat) (st : Step) (x : Desc) : StepRes :=
  let k := s.core c
  let n := stepArg st.word 0 3
  match k.ownRegion x.ctx n with
  | none => .fault 0x22
  | some r => match r.toTake k.actingSkein with
    | some i => .done (s.setCore c { k.setRegion n { r with slots := r.slots.set i .held } with lastTake := some (n, i) })
    | none => if k.actingSkein.isSome then .over (s.setCore c (k.parkSkein n)) else .hold .rtake

/-- RTAKE (R306). -/
def execRtake (core : Nat) (st : Step) (s : State) : Host.Outcome State Fault Refusal :=
  .next (s.issue core st 0x42 3 (fun s x => s.rtakeStep core st x))

/-- RREL: the oldest HELD slot is released (R306, R341). -/
def State.rrelStep (s : State) (c : Nat) (st : Step) (x : Desc) : StepRes :=
  let k := s.core c
  let n := stepArg st.word 0 3
  match k.ownRegion x.ctx n with
  | none => .fault 0x22
  | some r => match r.oldest .held with
    | some i => .done (s.setCore c (k.setRegion n (r.release i)))
    | none => .fault 0x22

/-- RREL (R341). -/
def execRrel (core : Nat) (st : Step) (s : State) : Host.Outcome State Fault Refusal :=
  .next (s.issue core st 0x43 3 (fun s x => s.rrelStep core st x))

/-! ### Remote windows (R313 to R318) -/

/-- Remote window `n` of a core. -/
def Core.rwin (k : Core) (n : Nat) : RWindow := getAt RWindow.reset k.wins n
/-- Remote window `n` made `v`. -/
def Core.setRwin (k : Core) (n : Nat) (v : RWindow) : Core := { k with wins := putAt RWindow.reset k.wins n v }

/-- The checks of an access at its target, in the order of R314: the first physical row, where all hold. -/
def State.windowRow (s : State) (src target win : Nat) (gen : BitVec 16) (rd : Bool) (off n : Nat) : Option Nat :=
  let w := (s.core target).rwin win
  if w.isOpen && (!rd || w.rd) && gen == w.gen && w.wmask.getLsbD src && (s.core src).ctx == some w.ctx
      && decide (off + n ≤ w.bound) && decide (w.base + off + n ≤ ((s.core target).area w.ctx).bound) then some (((s.core target).area w.ctx).base + w.base + off)
  else none

/-- What R315 asks before a window opens. -/
def Core.openOk (k : Core) (ctx base rows : Nat) (rd : Bool) : Bool :=
  let a := k.area ctx
  decide (base + rows ≤ a.bound) && (banksOf (a.base + base) rows).all (fun b =>
    (k.bank b).wrown == 3 && (!rd || (k.bank b).rdown == 6))

/-- WOPEN (R315, R317). -/
def State.wopenStep (s : State) (c : Nat) (st : Step) (x : Desc) : StepRes :=
  let k := s.core c
  let w := st.word
  let n := stepArg w 0 2
  let base := stepArg w 2 13
  let rows := stepArg w 15 13 + 1
  let rd := stepArg w 28 1 == 1
  let old := k.rwin n
  if !k.openOk x.ctx base rows rd then .fault 0x24
  else if old.isOpen && old.ctx != x.ctx then .fault 0x25
  else if old.gen == 0xFFFF && s.cores.any (fun d => d.2.loomDue.contains c) then .hold .window
  else .done (s.setCore c (k.setRwin n
    { isOpen := true, rd := rd, ctx := x.ctx, base := base, bound := rows, wmask := BitVec.ofNat 32 (stepArg w 29 32),
      gen := old.gen + 1 }))

/-- WOPEN (R315). -/
def execWopen (core : Nat) (st : Step) (s : State) : Host.Outcome State Fault Refusal :=
  .next (s.issue core st 0x44 61 (fun s x => s.wopenStep core st x))

/-- WCLOSE (R316): the context's window is closed; its generation stays. -/
def State.wcloseStep (s : State) (c : Nat) (st : Step) (x : Desc) : StepRes :=
  let k := s.core c
  let n := stepArg st.word 0 2
  let old := k.rwin n
  if old.isOpen && old.ctx != x.ctx then .fault 0x25
  else .done (s.setCore c (k.setRwin n { RWindow.reset with gen := old.gen }))

/-- WCLOSE (R316). -/
def execWclose (core : Nat) (st : Step) (s : State) : Host.Outcome State Fault Refusal :=
  .next (s.issue core st 0x45 2 (fun s x => s.wcloseStep core st x))

/-! ### The cluster DMA (R341, R366 to R368) -/

/-- What R366 and R367 ask of the entry of a DMAIN or DMAOUT; the scale references follow the conversion word. A DMAIN loads
array formats; without a conversion it brings any row as it is (R76; DEDUCED, log 42). -/
def Xfer.stepOk (e : Xfer) (bs : List Byte) (out : Bool) : Bool :=
  let c := e.word
  e.sizesOk bs && convOk e.conv false && !(e.turn && c.sscale && c.dscale == 2)
    && (out || isFloatOperand c.dst || isIntOperand c.dst || c.copies)
    && (match e.kind with
      | 0 => e.tcore == 0 && e.win == 0 && e.bref == 0 && (if out then e.memOk else
          refValid e.aref && refOk e.aref && refAligned e.aref 64 && refOk e.ascl && (e.ascl != 0) == c.sscale
            && refOk e.bscl && (e.bscl != 0) == (c.dscale == 2))
      | 1 => out && e.aref == 0 && bitsOf e.bref 16 48 == 0 && e.ascl == 0 && refOk e.bscl
          && (e.bscl != 0) == (c.dscale == 2)
      | _ => false)

/-- The cursor of a (core, entry) pair of a kernel: plane and row (R368). -/
def Kernel.cursor (k : Kernel) (c i : Nat) : Nat × Nat := getAt (0, 0) k.cursors (256 * c + i)

/-- A row's number in the order of R367 as plane and row. -/
def Xfer.place (rows n : Nat) : Nat × Nat := (n / rows, n % rows)

/-- The cursor moved to a row number. -/
def State.moveCursor (s : State) (ctx c i rows n : Nat) : State :=
  let k := s.kernel ctx
  s.setKernel ctx { k with cursors := putAt (0, 0) k.cursors (256 * c + i) (Xfer.place rows n) }

/-- Of `left` rows of `b` bytes and `sb` scale bytes, as many as `n` OSP rows hold. -/
def heldRows (b sb n : Nat) : Nat → Nat
  | 0 => 0
  | left + 1 => if blockRows b sb (left + 1) ≤ n then left + 1 else heldRows b sb n left

/-- Rows that an issue moves: those that its NROWS holds, of those left. -/
def issueRows (b sb n left : Nat) : Nat := heldRows b sb n (min left (8 * n))

/-- A post made under SPOST: one to the full count. -/
def State.spost (s : State) (c target ctx : Nat) (st : Step) (lo : Nat) : Option State :=
  if stepArg st.word lo 1 = 1 then
    s.postTo c { src := c, core := target, pair := stepArg st.word (lo + 1) 6, isEmpty := false, amount := 1, ctx := ctx, sent := 0 }
  else some s

/-- Rows of a slot counted as written, as an access meets them (R306). -/
def Core.slotAcc (k : Core) (row n : Nat) : RowAcc := if (k.countRows row n).isNone then .fault 0x22 else .ok

/-- Where a DMAIN writes its `n` rows, and what the accesses meet: the rows at OROW, or a slot allocated at the TAIL of REGION
(R305, R306, R341, R349). -/
def Core.inDest (k : Core) (ctx : Nat) (st : Step) (n : Nat) : RowAcc × Core × Nat :=
  let w := st.word
  if stepArg w 24 1 = 1 then
    let g := stepArg w 21 3
    match k.ownRegion ctx g with
    | none => (.fault 0x22, k, 0)
    | some r =>
      let row := r.start + r.tail * r.slotRows
      let a := (upTo n).foldl (fun a j => a.worse (k.rowAcc ctx true 1 (row + j))) .ok
      if r.slotRows < n then (a.worse (.fault 0x22), k, 0)
      else match k.allocate g with
        | none => (a.worse .hold, k, 0)
        | some v => (a, v, row)
  else
    let (a, r) := k.relRows ctx true 1 (fieldAt st false (stepArg w 0 13)) n
    (if a = .fault 0x20 then a else a.worse (k.slotAcc r n), k, r)

/-- Bytes that each row of the stationary tensor takes in a slot of the tile T256x128x64: half of its part of a column line is +0
(R342). None for a fill of another tensor, tile or region. -/
def State.halfLine (s : State) (c : Nat) (x : Desc) (st : Step) (e : Xfer) : Option Nat :=
  let k := s.core c
  let p := s.passCtl x 0
  let stationary := (k.ownRegion x.ctx (stepArg st.word 21 3)).any (fun r => r.kind == 0
    && (banksOf r.start (r.nslot * r.slotRows)).all (fun b => (k.bank b).rdown == 2))
  let ours := (s.tensorAt x (e.aRun false (0, 0))).any (fun t => t.1.ref == x.field 24 8)
  match s.kernelTile x 0 with
  | some (.pass 0 pair _) => match geomOf 0 pair (max (widthClass p.wfmt) (widthClass p.sfmt)) with
    | some g =>
      if stepArg st.word 24 1 = 1 && stationary && ours && p.k.any (fun n => decide (2 * n ≤ g.k)) then
        some (lineBytes p.sfmt / g.vn)
      else none
    | none => none
  | _ => none

/-- Bytes and scale bytes that a row of a DMAIN takes in the OSP: `half` where the unused half of its line is filled with +0 (R342). -/
def Xfer.layBytes (e : Xfer) (half : Option Nat) : Nat × Nat :=
  let c := e.word
  let b := elemBytes c.dst e.dcols
  let scaled := fun (n : Nat) => if c.dscale = 0 then 0 else n
  match half with
  | some h => if b < h then (h, scaled (h * 8 / containerBits c.dst / 32)) else (b, scaled (scaleBytes e.dcols))
  | none => (b, scaled (scaleBytes e.dcols))

/-- Memory runs that destination row number `n` of an entry takes, read. -/
def Xfer.inRuns (e : Xfer) (n : Nat) : List Run :=
  let c := e.word
  let p := Xfer.place e.drows n
  let srcs := if e.turn then (upTo e.ny).map (fun y => (p.1, y)) else [p]
  srcs.map (e.aRun false) ++ (if c.sscale then srcs.map e.aScaleRun else []) ++ (if c.dscale = 2 then [e.bScaleRun p] else [])

/-- Whole OSP rows that the first `j` rows of `b` bytes fill. -/
def filledRows (b j : Nat) : Nat :=
  let u := rowUnit b
  if u ≤ 8 then j / (8 / u) else j * ceilDiv u 8

/-- Row number `n` of an entry that is not turned, converted for its place in the tensor that it belongs to, rotated where its
kernel asks; a row of no tensor by its number in the entry (R64, R76, R195). -/
def State.loadRow (s : State) (x : Desc) (e : Xfer) (n : Nat) : RowOut :=
  let c := e.word
  let p := s.passCtl x 0
  let at_ := Xfer.place e.ny n
  let src := s.copySource x e at_
  let sup := if c.dscale = 2 then s.fetchRun s.store x (e.bScaleRun at_) else []
  let place : RowPart × Option Nat := match s.tensorAt x (e.aRun false at_) with
    | some (t, row, col) =>
      ({ y := row, len := t.width, first := col * 8 / containerBits c.src },
        t.rope.bind (fun key => (s.kernelAttn x).ropePos x key row))
    | none => ({ y := n, len := e.nx, first := 0 }, none)
  match place.2 with
  | some pos => (s.kernelAttn x).p.rotatedPart (s.kernelAttn x).freqs c p.seed place.1 pos src.2 sup
  | none =>
    if c.copies then { codes := src.1, scales := [], flags := 0, stored := src.1.map (decodeCode c.dst) }
    else convPart c p.iovf p.seed place.1 src.2 sup

/-- Destination rows from row number `n`, converted. -/
def State.inRows (s : State) (x : Desc) (e : Xfer) (n m : Nat) : List RowOut :=
  if e.turn then
    let p := s.passCtl x 0
    let zs := (upTo (ceilDiv (n % e.drows + m) e.drows)).map (fun i => n / e.drows + i)
    (((zs.flatMap (s.copyPlane x e p.iovf p.seed)).drop (n % e.drows)).take m).map Prod.snd
  else (upTo m).map (fun j => s.loadRow x e (n + j))

/-- A core's transfer that halted parked: its queue goes on, and other streams and skeins with it (R376). -/
def Core.park (k : Core) (v : Stream) : Core :=
  { k with streams := k.streams.filter (fun t => !(t.step == v.step && t.skein == v.skein)) ++ [v] }
/-- It is over. -/
def Core.unpark (k : Core) (v : Stream) : Core :=
  { k with streams := k.streams.filter (fun t => !(t.step == v.step && t.skein == v.skein)) }

/-- The transfer entry of a DMAIN or DMAOUT. -/
def Stream.entry (v : Stream) : Nat := stepArg v.step.word 13 8

/-- A halted transfer of the (core, entry) pair keeps its cursor (R376). -/
def Core.entryBusy (k : Core) (i : Nat) : Bool := k.streams.any (fun v => v.entry == i)

/-- New rows of a DMAIN after those it has, in the OSP rows up to number `to_` that they fill, `lay` bytes and scale bytes each; counted
in their slot, with their flags (R68, R305, R368). -/
def State.inPart (s : State) (c : Nat) (x : Desc) (e : Xfer) (lay : Nat × Nat) (v : Stream) (new : List RowOut) (to_ : Nat) :
    State × Stream :=
  let rows := v.rows ++ new.map (fun r => (pack e.word.dst r.codes, r.scales ++ List.replicate (lay.2 - r.scales.length) 0))
  let body := packBlock lay.1 (rows.map Prod.fst) (rows.map Prod.snd)
  let bs := ((body ++ List.replicate (512 * to_ - body.length) 0).take (512 * to_)).drop (512 * v.moved)
  let k := ((s.core c).countRows (v.row + v.moved) (to_ - v.moved)).getD (s.core c)
  let f := orFlags (new.map RowOut.flags)
  ((((s.setCore c k).writeRowsAt c (v.row + v.moved) bs).raiseArray c f).raiseDesc x.did f,
    { v with rows := rows, moved := to_ })

/-- A DMAIN from the rows that it has: it reads on until a run halts it, when the rows before are kept, or to its end, when the
issue's other rows are +0 (R368, R376, R377). -/
def State.dmainRun (s : State) (c : Nat) (x : Desc) (e : Xfer) (lay : Nat × Nat) (ecc : EccOutcome) (v : Stream) : StepRes :=
  let st := v.step
  let nrows := stepArg st.word 25 10 + 1
  let cur := (s.kernel x.ctx).cursor c v.entry
  let n := cur.1 * e.drows + cur.2
  let m := issueRows lay.1 lay.2 nrows (e.nz * e.drows - n)
  let j := v.rows.length
  s.streamRuns c x (fun i => e.inRuns (n + i)) j m
    (fun i =>
      let (t, w) := s.inPart c x e lay v (s.inRows x e (n + j) (i - j)) (filledRows lay.1 i)
      t.setCore c ((t.core c).park w))
    .done
    (fun _ => s.checkedRead c x ecc (((upTo (m - j)).flatMap (fun i => e.inRuns (n + j + i))).flatMap (s.runReads x)) (fun s =>
      let (t, _) := s.inPart c x e lay v (s.inRows x e (n + j) (m - j)) nrows
      let t := (t.setCore c ((t.core c).unpark v)).moveCursor x.ctx c v.entry e.drows (n + m)
      match t.spost c c x.ctx st 35 with
      | some t => .done t
      | none => .fault 0x23))

/-- A DMAIN: rows of its entry from the cursor on, in the OSP, the issue's other rows +0 (R368). -/
def State.dmainStep (s : State) (c : Nat) (st : Step) (x : Desc) : StepRes :=
  let w := st.word
  let i := stepArg w 13 8
  let k := s.core c
  match (s.kernel x.ctx).plan.xfers[i]? with
  | none => .fault 0x03
  | some bs =>
    let e := xferOf bs
    if !e.stepOk bs false then .fault 0x03
    else if k.entryBusy i then .hold .stream
    else match k.inDest x.ctx st (stepArg w 25 10 + 1) with
      | (.fault v, _, _) => .fault v
      | (.hold, _, _) => .hold (if stepArg w 24 1 = 1 then .fill else .bank)
      | (.ok, k', row) =>
        (s.setCore c k').dmainRun c x e (e.layBytes (s.halfLine c x st e)) st.ecc
          { step := (plainStep st), skein := k.actingSkein, row := row, rows := [], moved := 0 }

/-- The halted transfer of a core that a command goes on with, and its descriptor: its kernel runs, and no fault of the transfer's
next rows waits for its reply (R376, R377). -/
def State.parked (s : State) (c : Nat) (st : Step) : Option (Desc × Stream) :=
  (s.core c).ctx.bind (fun ctx =>
    (s.pisteDesc (c / 4) ctx).bind (fun x =>
      ((s.core c).streams.find? (fun v => v.step == (plainStep st))).map (fun v => (x, v))))

/-- What a halted transfer that goes on comes to: one that waits stays as it is. -/
def State.goesOn (s : State) (c : Nat) : StepRes → State
  | .done t | .halt t | .over t => t
  | .hold _ => s
  | .fault e => s.coreFault c e

/-- A halted DMAIN goes on. -/
def State.dmainOn (s : State) (c : Nat) (x : Desc) (v : Stream) (ecc : EccOutcome) : State :=
  match ((s.kernel x.ctx).plan.xfers[v.entry]?).map xferOf with
  | some e =>
    let cur := (s.kernel x.ctx).cursor c v.entry
    if (e.inRuns (cur.1 * e.drows + cur.2 + v.rows.length)).any (s.faultAt x.did c) then s
    else s.goesOn c (s.dmainRun c x e (e.layBytes (s.halfLine c x v.step e)) ecc v)
  | none => s

/-- DMAIN (R341). -/
def execDmain (core : Nat) (st : Step) (s : State) : Host.Outcome State Fault Refusal :=
  .next (match s.parked core st with
    | some (x, v) => if stepOp st.word = 0x30 then s.dmainOn core x v st.ecc else s
    | none => s.issue core st 0x30 42 (fun s x => s.dmainStep core st x))

/-! ### DMAOUT (R314, R340, R366 to R368, R370) -/

/-- Memory runs that source rows (z, y) reach: their rows, or under TURN every row of their planes. -/
def Xfer.outRuns (e : Xfer) (rows : List (Nat × Nat)) : List Run :=
  let ds := if e.turn then ((rows.map Prod.fst).dedup).flatMap (fun z => (upTo e.nx).map (fun y => (z, y))) else rows
  ds.map (fun p => e.outRun p.1 p.2) ++ (if e.word.dscale = 1 then ds.map (fun p => e.outScale p.1 p.2) else [])
    ++ (if e.word.dscale = 2 then ds.map (fun p => e.supplied p.1 p.2) else [])

/-- Source rows of an issue as OSP bytes hold them: each its elements and its scale bytes. -/
def Xfer.outSource (e : Xfer) (bs : List Byte) (m : Nat) : List (List Byte) :=
  let b := elemBytes e.word.src e.nx
  (upTo m).map (fun i => packedRow bs b i ++ (if e.word.sscale then packedScales bs b (scaleBytes e.nx) m i else []))

/-- Codes and values of a source row. -/
def Xfer.rowOf (e : Xfer) (bs : List Byte) : List Nat × List Value :=
  let c := e.word
  let codes := unpack c.src e.nx bs
  (codes, valuesOf c.src codes (if c.sscale then some (bs.drop (elemBytes c.src e.nx)) else none))

/-- Elements of destination row (z, y) from its element `first`, a multiple of 32, converted for their place (R64). -/
def State.outPart (s : State) (x : Desc) (e : Xfer) (z y first : Nat) (r : List Nat × List Value) : RowOut :=
  let c := e.word
  let p := s.passCtl x 0
  if c.copies then { codes := r.1, scales := [], flags := 0, stored := r.1.map (decodeCode c.dst) }
  else convPart c p.iovf p.seed { y := z * e.drows + y, len := e.dcols, first := first } r.2
    (if c.dscale = 2 then (s.fetchRun s.store x (e.supplied z y)).drop (first / 32) else [])

/-- Rows of an issue by plane: plane, first row, rows. -/
def byPlane {α : Type} (ny : Nat) (n : Nat) (rows : List α) : List (Nat × Nat × List α) :=
  (upTo (ceilDiv (n % ny + rows.length) ny)).map (fun i =>
    let z := n / ny + i
    let skip := z * ny - n
    let y := if i = 0 then n % ny else 0
    (z, y, (rows.drop skip).take (ny - y)))

/-- Under TURN a piece of a plane begins with the rows held of a block that was not complete (R111). -/
def turnPieces (ny n : Nat) (held rows : List (List Byte)) : List (Nat × Nat × List (List Byte)) :=
  (byPlane ny n rows).zipIdx.map (fun q =>
    let p := q.1
    if q.2 = 0 then (p.1, p.2.1 - held.length, held ++ p.2.2) else p)

/-- Rows of a piece in blocks of `g` source rows that are complete: all of them at the end of the plane. -/
def turnReady (g ny : Nat) (p : Nat × Nat × List (List Byte)) : Nat :=
  let n := p.2.1 + p.2.2.length
  if n = ny then p.2.2.length else n / g * g - p.2.1

/-- The complete blocks of the pieces: turned rows are converted and stored from whole blocks, so that no store is made of a
part of a block (R62, R111, R112, R294). -/
def turnDone (g ny n : Nat) (held rows : List (List Byte)) : List (Nat × Nat × List (List Byte)) :=
  ((turnPieces ny n held rows).map (fun p => (p.1, p.2.1, p.2.2.take (turnReady g ny p)))).filter (fun p => !p.2.2.isEmpty)

/-- The rows held after an issue. -/
def turnHeld (g ny n : Nat) (held rows : List (List Byte)) : List (List Byte) :=
  match (turnPieces ny n held rows).getLast? with
  | some p => p.2.2.drop (turnReady g ny p)
  | none => held

/-- Source rows of a block of a turn into memory (R111). -/
def turnBlock : Nat := 128

/-- The rows held for a (core, entry) pair. -/
def Kernel.held (k : Kernel) (c i : Nat) : List (List Byte) := getAt [] k.turns (256 * c + i)

/-- The turned rows of a piece of plane `z`: their elements from column `first` on. -/
def State.turnCols (s : State) (x : Desc) (e : Xfer) (z first : Nat) (rows : List (List Byte)) : List RowOut :=
  let src := rows.map e.rowOf
  ((turned e.nx (src.map Prod.fst)).zip (turned e.nx (src.map Prod.snd))).zipIdx.map (fun q => s.outPart x e z q.2 first q.1)

/-- Columns from `first` on stored in the rows of plane `z` in memory. -/
def State.putCols (s : State) (x : Desc) (e : Xfer) (m : Store) (z first : Nat) (outs : List RowOut) : Store :=
  outs.zipIdx.foldl (fun m q =>
    let old := unpack e.word.dst e.ny (s.fetchRun m x (e.outRun z q.2))
    let m := s.storeRun m x (e.outRun z q.2)
      (padUnit (pack e.word.dst (old.take first ++ q.1.codes ++ old.drop (first + q.1.codes.length))))
    if e.word.dscale = 1 then
      let olds := s.fetchRun m x (e.outScale z q.2)
      s.storeRun m x (e.outScale z q.2)
        (olds.take (first / 32) ++ q.1.scales ++ olds.drop (first / 32 + q.1.scales.length))
    else m) m

/-- Source rows from row number `n` stored in memory under an entry, with the flags they raise. -/
def State.outMemory (s : State) (c : Nat) (x : Desc) (e : Xfer) (i n : Nat) (rows : List (List Byte)) : State × FlagSet :=
  let k := s.kernel x.ctx
  if e.turn then
    let held := k.held c i
    let s := s.setKernel x.ctx { k with turns := putAt [] k.turns (256 * c + i) (turnHeld turnBlock e.ny n held rows) }
    (turnDone turnBlock e.ny n held rows).foldl (fun a p =>
      let outs := a.1.turnCols x e p.1 p.2.1 p.2.2
      let s := (a.1.withStore (a.1.putCols x e a.1.store p.1 p.2.1 outs)).countStored x e outs
      (s, a.2 ||| orFlags (outs.map RowOut.flags))) (s, 0)
  else
    let outs := rows.zipIdx.map (fun r =>
      let p := Xfer.place e.ny (n + r.2)
      (p, s.outPart x e p.1 p.2 0 (e.rowOf r.1)))
    ((s.withStore (outs.foldl (fun m r => s.putOut x e m r.1.1 r.1.2 r.2) s.store)).countStored x e (outs.map Prod.snd),
      orFlags (outs.map (fun r => r.2.flags)))

/-- The state of rows at a target: ready, held, or without power. -/
inductive BankMeet where
  | ready | held | dark
  deriving DecidableEq, Repr

/-- A bank without power that no kernel start has asked for (R325 to R327). -/
def Bank.dark (b : Bank) : Bool := b.st == .isolating || (b.st == .off && !b.wake)

/-- What `n` rows from a physical row of a core, in the area of a context, meet (R302, R320, R325 to R327). -/
def Core.bankMeet (k : Core) (ctx row n : Nat) : BankMeet :=
  let bs := (banksOf row n).map k.bank
  if bs.any Bank.dark then .dark
  else if (k.area ctx).clearing || bs.any (fun b => b.st == .off || b.st == .wake || b.st == .clearing || b.classClear) then .held
  else .ready

/-- A write that reached a bank without power and was never counted (R327): dropped, logged with its source's code, and its
writer's context torn down with INTERNAL. -/
def State.bankDrop (s : State) (src target row n code : Nat) : State :=
  let b := ((banksOf row n).find? (fun b => ((s.core target).bank b).dark)).getD 0
  let ctx := (s.core src).ctx.getD 0xFFFF
  (s.logEvent 0x06 2 0 target (b + 256 * code) ctx).coreFault src 0x7F

/-- Whole OSP rows for a window from a row offset (R294). -/
structure OutBlock where
  off : Nat
  rows : List Byte
  deriving DecidableEq, Repr

/-- Source rows from row number `n` as blocks for a window, with the flags they raise and the rows held: a turned plane goes
once all its rows are read (R294, R366; log 42). -/
def State.outBlocks (s : State) (x : Desc) (e : Xfer) (n : Nat) (held rows : List (List Byte)) :
    List OutBlock × FlagSet × List (List Byte) :=
  if e.turn then
    let outs := (turnDone e.ny e.ny n held rows).map (fun p => (p, s.turnCols x e p.1 p.2.1 p.2.2))
    (outs.map (fun o =>
        { off := o.1.1 * e.yb,
          rows := packBlock (elemBytes e.word.dst e.ny) (o.2.map (fun r => pack e.word.dst r.codes)) (o.2.map RowOut.scales) }),
      orFlags (outs.flatMap (fun o => o.2.map RowOut.flags)), turnHeld e.ny e.ny n held rows)
  else
    let b := elemBytes e.word.dst e.nx
    let parts := (byPlane e.ny n rows).map (fun p =>
      (p, p.2.2.zipIdx.map (fun r => s.outPart x e p.1 (p.2.1 + r.2) 0 (e.rowOf r.1))))
    (parts.map (fun p => { off := p.1.1 * e.yb + packedRows b p.1.2.1, rows := rowsBlock e p.2 }),
      orFlags (parts.flatMap (fun p => p.2.map RowOut.flags)), [])

/-- A new write of a block may start: its rows, where the window names them, are in banks that are ON and clear (R302, R320,
R325, R326). -/
def State.blockStarts (s : State) (c : Nat) (e : Xfer) (b : OutBlock) : Bool :=
  let n := b.rows.length / 512
  let t := s.core e.tcore
  match s.windowRow c e.tcore e.win (BitVec.ofNat 16 e.bref) false b.off n with
  | some r => t.bankMeet (t.rwin e.win).ctx r n == .ready && (banksOf r n).all (fun i => (t.bank i).st == .on)
  | none => true

/-- A block sent on the Loom to the entry's window: it counts at the banks that the window names now, and is acknowledged once
it has arrived (R22, R314, R318, R324). -/
def State.sendBlock (s : State) (c ctx : Nat) (e : Xfer) (b : OutBlock) : State :=
  let gen := BitVec.ofNat 16 e.bref
  let n := b.rows.length / 512
  if n = 0 then s
  else
    let row := s.windowRow c e.tcore e.win gen false b.off n
    let s := match row with
      | some r => s.setCore e.tcore ((s.core e.tcore).countWrites r n false)
      | none => s
    let (sent, s) := s.stampLoom
    let w : LoomWrite :=
      { src := c, ctx := ctx, target := e.tcore, win := e.win, gen := gen, offset := b.off, rows := b.rows, counted := row,
        sent := sent }
    let s := { s with loom := s.loom ++ [w] }
    s.setCore c { s.core c with loomDue := (s.core c).loomDue ++ [e.tcore] }

/-- The end of a DMAOUT of rows up to row number `n`: the cursor, the flags on the core and the descriptor (R68), and SPOST. -/
def State.outDone (s : State) (c : Nat) (st : Step) (x : Desc) (e : Xfer) (i n : Nat) (f : FlagSet) (target : Nat) : StepRes :=
  match ((s.moveCursor x.ctx c i e.ny n).sfuFlags c x f).spost c target x.ctx st 31 with
  | some t => .done t
  | none => .fault 0x23

/-- The supplied scale bytes that a DMAOUT to a window reads for its destination rows. -/
def Xfer.windowRuns (e : Xfer) (n : Nat) (held rows : List (List Byte)) : List Run :=
  if e.word.dscale = 2 then
    (if e.turn then (turnDone e.ny e.ny n held rows).flatMap (fun p => (upTo e.nx).map (fun j => e.supplied p.1 j))
     else (byPlane e.ny n rows).flatMap (fun p => (upTo p.2.2.length).map (fun j => e.supplied p.1 (p.2.1 + j))))
  else []

/-- A DMAOUT of rows to memory from the rows that it has written on (R376, R377). -/
def State.dmaoutMemory (s : State) (c : Nat) (x : Desc) (e : Xfer) (n : Nat) (v : Stream) : StepRes :=
  let src := v.rows.map Prod.fst
  let m := src.length
  let runs := fun (j : Nat) => e.outRuns [Xfer.place e.ny (n + j)]
  s.streamRuns c x runs v.moved m
    (fun j =>
      let (t, f) := s.outMemory c x e v.entry (n + v.moved) ((src.take j).drop v.moved)
      (t.setCore c ((t.core c).park { v with moved := j })).sfuFlags c x f)
    .done
    (fun _ =>
      let (t, f) := s.outMemory c x e v.entry (n + v.moved) (src.drop v.moved)
      (t.setCore c ((t.core c).unpark v)).outDone c v.step x e v.entry (n + m) f c)

/-- A DMAOUT of rows to a window: it waits for the banks of the window, and halts where the scale bytes that it reads are not
resident (R314, R326, R376). -/
def State.dmaoutWindow (s : State) (c : Nat) (x : Desc) (e : Xfer) (n : Nat) (v : Stream) : StepRes :=
  let src := v.rows.map Prod.fst
  let held := (s.kernel x.ctx).held c v.entry
  s.streamRuns c x (fun _ => e.windowRuns n held src) 0 1 (fun _ => s.setCore c ((s.core c).park v)) .done (fun _ =>
    let (blocks, f, held) := s.outBlocks x e n held src
    if !(blocks.all (s.blockStarts c e)) then .hold .bank
    else
      let k := s.kernel x.ctx
      let s := s.setKernel x.ctx { k with turns := putAt [] k.turns (256 * c + v.entry) held }
      let s := blocks.foldl (fun s b => s.sendBlock c x.ctx e b) s
      (s.setCore c ((s.core c).unpark v)).outDone c v.step x e v.entry (n + src.length) f e.tcore)

/-- A DMAOUT from the source rows that it has. -/
def State.dmaoutRun (s : State) (c : Nat) (x : Desc) (e : Xfer) (v : Stream) : StepRes :=
  let cur := (s.kernel x.ctx).cursor c v.entry
  let n := cur.1 * e.ny + cur.2
  if e.kind = 1 then s.dmaoutWindow c x e n v else s.dmaoutMemory c x e n v

/-- A DMAOUT: rows from the OSP to memory or to a window, from the cursor on (R368). -/
def State.dmaoutStep (s : State) (c : Nat) (st : Step) (x : Desc) : StepRes :=
  let w := st.word
  let i := stepArg w 13 8
  let nrows := stepArg w 21 10 + 1
  let k := s.core c
  match (s.kernel x.ctx).plan.xfers[i]? with
  | none => .fault 0x03
  | some bs =>
    let e := xferOf bs
    if !e.stepOk bs true then .fault 0x03
    else if k.entryBusy i then .hold .stream
    else
      let (a, row) := k.relRows x.ctx false 5 (fieldAt st false (stepArg w 0 13)) nrows
      let cur := (s.kernel x.ctx).cursor c i
      let m := issueRows (elemBytes e.word.src e.nx) (if e.word.sscale then scaleBytes e.nx else 0) nrows
        (e.nz * e.ny - (cur.1 * e.ny + cur.2))
      guardAcc a (fun _ => s.checkedRead c x st.ecc ((upTo nrows).map (fun j => ReadAt.osp (row + j))) (fun s =>
        s.dmaoutRun c x e { step := (plainStep st), skein := k.actingSkein, row := row,
                            rows := (e.outSource (k.rows row nrows) m).map (fun r => (r, [])), moved := 0 }))

/-- A halted DMAOUT goes on. -/
def State.dmaoutOn (s : State) (c : Nat) (x : Desc) (v : Stream) : State :=
  match ((s.kernel x.ctx).plan.xfers[v.entry]?).map xferOf with
  | some e =>
    let k := s.kernel x.ctx
    let cur := k.cursor c v.entry
    let n := cur.1 * e.ny + cur.2
    let runs := if e.kind = 1 then e.windowRuns n (k.held c v.entry) (v.rows.map Prod.fst)
      else e.outRuns [Xfer.place e.ny (n + v.moved)]
    if runs.any (s.faultAt x.did c) then s else s.goesOn c (s.dmaoutRun c x e v)
  | none => s

/-- DMAOUT (R368). -/
def execDmaout (core : Nat) (st : Step) (s : State) : Host.Outcome State Fault Refusal :=
  .next (match s.parked core st with
    | some (x, v) => if stepOp st.word = 0x31 then s.dmaoutOn core x v else s
    | none => s.issue core st 0x31 38 (fun s x => s.dmaoutStep core st x))

/-! ### Holds (R339) -/

/-- HOLD_TIMEOUT (R339): a queue held for 10 ms ends its context; a stream that waits for the host is no such hold (R376). -/
def execHoldTimeout (core : Nat) (s : State) : Host.Outcome State Fault Refusal :=
  .next (
    let k := s.core core
    if core < 32 && s.serving && k.hold.isSome && !(s.faults.any (fun f => some f.ctx == k.ctx)) then s.coreFault core 0x70 else s)

end Sys2Proof.Machine
end

