-- ==== Sys2Proof/Machine/Skeins.lean ====
section
/-!
DEFINITION. The skein scheduler of a core (R18, R135, R336).
-/

namespace Sys2Proof.Machine

/-- Skein slot `n` of a core. -/
def Core.skein (k : Core) (n : Nat) : Skein := getAt Skein.reset k.skeins n
/-- Skein slot `n` made `v`. -/
def Core.setSkein (k : Core) (n : Nat) (v : Skein) : Core := { k with skeins := putAt Skein.reset k.skeins n v }

/-- A started skein, which holds its AM tiles. -/
def Skein.started (v : Skein) : Bool := v.st == .parked || v.st == .ready || v.st == .running

/-- AM tile `t` is held by a started skein. -/
def Core.tileHeld (k : Core) (t : Nat) : Bool :=
  k.skeins.any (fun p => p.2.started && decide (p.2.tile ≤ t) && decide (t < p.2.tile + p.2.tiles))

/-- The first of `n` free AM tiles within the kernel's claim. -/
def Core.freeTiles (k : Core) (n : Nat) : Option Nat :=
  (upTo 17).find? (fun t => decide (t + n ≤ k.amClaim) && (upTo n).all (fun i => !k.tileHeld (t + i)))

/-- The context whose SKEIN body runs on a core, with the SKEIN word's place. -/
def State.skeinBody (s : State) (c : Nat) : Option (Nat × Nat) :=
  match (s.core c).ctx with
  | some ctx =>
    if c < 32 && (s.pisteDesc (c / 4) ctx).isSome then (s.pisteAt (c / 4) ctx).skein.map (fun q => (ctx, q)) else none
  | none => none

/-- The region whose slot a skein of core `i` of the cluster takes first in the body at word `q`. -/
def Piste.firstTake (p : Piste) (i q : Nat) : Option Nat :=
  (p.steps.find? (fun j => q < j && j ≤ q + bodyLen (p.word q) && stepOp (p.word j) == 0x42
    && (stepMask (p.word j)).testBit i)).map (fun j => stepArg (p.word j) 0 3)

/-- A skein as it starts with AM tile `t`: ready where the slot it takes first is full, or it takes none; else parked on
that region (R18). -/
def Core.startSkein (k : Core) (n t q : Nat) (take : Option Nat) : Core :=
  let v := { k.skein n with since := k.stamp, tile := t, cur := { pc := q + 1, frames := [] }, rep := 0, stats := [] }
  let v := match take with
    | none => { v with st := .ready }
    | some r =>
      if ((getAt Region.reset k.regions r).toTake (some n)).isSome then { v with st := .ready } else { v with st := .parked, wait := some r }
  { k.setSkein n v with stamp := k.stamp + 1 }

/-- SKEIN_START (R18): the lowest skein not yet started starts once its AM tiles are free. None starts once the context's
budget has expired (R470, R471). -/
def State.skeinStart (s : State) (c n : Nat) : State :=
  let k := s.core c
  match s.skeinBody c, k.freeTiles (k.skein n).tiles with
  | some (ctx, q), some t =>
    if (k.skein n).st == .unstarted && !(k.skeins.any (fun p => p.1 < n && p.2.st == .unstarted)) && !(s.ctx ctx).expired then
      s.setCore c (k.startSkein n t q ((s.pisteAt (c / 4) ctx).firstTake (c % 4) q))
    else s
  | _, _ => s

/-- SKEIN_START (R18). -/
def execSkeinStart (core slot : Nat) (s : State) : Host.Outcome State Fault Refusal := .next (s.skeinStart core slot)

/-- The ready skein that has waited longest; of equals the one in the lower slot (R18). -/
def Core.nextSkein (k : Core) : Option Nat :=
  ((k.skeins.filter (fun p => p.2.st == .ready)).foldl (fun (b : Option (Nat × Skein)) p =>
    match b with
    | some q => if p.2.since < q.2.since then some p else b
    | none => some p) none).map Prod.fst

/-- SKEIN_DISPATCH (R18). -/
def State.skeinDispatch (s : State) (c : Nat) : State :=
  let k := s.core c
  match s.skeinBody c, k.nextSkein with
  | some _, some n => if k.runningSkein.isNone then s.setCore c (k.setSkein n { k.skein n with st := .running }) else s
  | _, _ => s

/-- SKEIN_DISPATCH (R18). -/
def execSkeinDispatch (core : Nat) (s : State) : Host.Outcome State Fault Refusal := .next (s.skeinDispatch core)

/-- A running skein has issued the whole body: no step of it is left (R336). -/
def Piste.bodyDone (p : Piste) (i q : Nat) (v : Skein) : Bool := decide (q + bodyLen (p.word q) < (p.skeinPlace i q v).pc)

/-- SKEIN_FINISH (R18, R336): the running skein has issued its body and its output is stored; its slot and AM are free. -/
def State.skeinFinish (s : State) (c n : Nat) : State :=
  let k := s.core c
  match s.skeinBody c with
  | some (ctx, q) =>
    let p := s.pisteAt (c / 4) ctx
    if (k.skein n).st == .running && k.hold.isNone && !(k.streams.any (fun t => t.skein == some n))
        && p.bodyDone (c % 4) q (k.skein n) then
      s.setCore c (k.setSkein n Skein.reset)
    else s
  | none => s

/-- SKEIN_FINISH (R18). -/
def execSkeinFinish (core slot : Nat) (s : State) : Host.Outcome State Fault Refusal := .next (s.skeinFinish core slot)

end Sys2Proof.Machine
end

