-- ==== Sys2Proof/Machine/Control.lean ====
section
/-!
DEFINITION. Control cores and turns: watchdog, take-back, budget and turn end (R29 to R32, R470 to R473).
-/

namespace Sys2Proof.Machine

/-- What strikes a control core (R29, R480, R481, R484): a word right when read again is logged and counted; one that is lost is
treated as an expiry of the watchdog, as is what the watchdog itself finds. -/
def State.ccoreStruck (s : State) (n : Nat) : CcoreEvent → State
  | .corrected _ => s
  | .retried word => (s.logEvent 0x01 1 2 n (word % 2 ^ 18)).noteRepeat 0x01 2 n (word % 2 ^ 18)
  | .lost word imemOk => (s.logEvent 0x02 2 2 n (word % 2 ^ 18)).ccoreExpiry n imemOk
  | .watchdog imemOk => s.ccoreExpiry n imemOk

/-- WATCHDOG_EXPIRY (R29): the core is reset, its instruction memory checked, and it restarts or leaves service. -/
def execWatchdogExpiry (ccore : Nat) (e : CcoreEvent) (s : State) : Host.Outcome State Fault Refusal :=
  .next (if ccore < 4 && s.serving && (s.ccore ccore).inService then s.ccoreStruck ccore e else s)

/-- The control core that a context number names (R25). -/
def ownCcore (ctx : Nat) : Nat := ctx % 4

/-- A context is at a kernel boundary: no kernel of it runs, has yielded or is halted, and no loop of it is within a step (R30,
R375, R471). -/
def State.betweenKernels (s : State) (ctx : Nat) : Bool :=
  !(s.kernel ctx).live && !(s.kernel ctx).paused
    && !(s.descs.any (fun x => x.ctx == ctx && x.st == .halted && isKernelOp x.opcode))
    && (s.ctxLoops ctx).all (fun n => !(s.loopAt n).inStep)

/-- CONTROL_CORE_TAKEBACK (R30): at the context's kernel boundary. -/
def execControlCoreTakeback (ctx : Nat) (s : State) : Host.Outcome State Fault Refusal :=
  .next (
    let c := s.ctx ctx
    let n := ownCcore ctx
    if ctx < 32 && s.serving && c.enable && (s.ccore n).inService && (s.ccore n).restarted && s.betweenKernels ctx then
      s.setCtx ctx { c with owner := n, uTurn := false, uExpired := false }
    else s)

/-- BUDGET_EXPIRY (R470, R472): the turn on the cluster set goes on to its next preemption point; on the control core the context's
commands pause where they are, for each is past such a point when its command is over. -/
def execBudgetExpiry (t : TurnOf) (s : State) : Host.Outcome State Fault Refusal :=
  .next (
    let c := s.ctx t.ctx
    if !(t.ctx < 32 && s.serving) then s
    else if t.unit then (if c.uTurn then s.setCtx t.ctx { c with uExpired := true } else s)
    else if c.turn then s.setCtx t.ctx { c with expired := true } else s)

/-- A skein halted on a range fault: a transfer of its own waits for the host (R376). -/
def Core.haltedSkein (k : Core) (n : Nat) (v : Skein) : Bool :=
  k.streams.any (fun t => t.skein == some n) || (v.st == .running && k.streaming)

/-- A core that keeps its kernel from yielding: steps before the SKEIN body or posts are left, a transfer that is no skein's
waits for the host, or a started skein that is not halted on a range fault (R471). -/
def Core.keepsTurn (k : Core) : Bool :=
  k.queue.any (fun q => !q.after) || !k.inPosts.isEmpty || k.streams.any (fun t => t.skein.isNone)
    || (k.streaming && k.runningSkein.isNone) || k.skeins.any (fun p => p.2.started && !k.haltedSkein p.1 p.2)

/-- A table of a kernel is at or past its SKEIN body, or over. -/
def Piste.mayYield (p : Piste) : Bool := p.skein.isSome || p.done

/-- A preemption point of the context: no kernel runs, or one inside its SKEIN body that has no started skein (R471). -/
def State.atPreemption (s : State) (ctx : Nat) : Bool :=
  let k := s.kernel ctx
  let ps := k.plan.tables.map (fun t => s.pisteAt t.1 ctx)
  !k.live || (ps.any (fun p => p.skein.isSome) && ps.all Piste.mayYield && (s.kernelCores ctx).all (fun c => !(s.core c).keepsTurn))

/-- A skein as a yield leaves it: one that a range fault halted is abandoned and starts again (R471). -/
def keptSkein (p : Plan) (c n : Nat) (v : Skein) : Skein :=
  if v.started then ((p.skeins.find? (fun q => q.core == c && q.slot == n)).map skeinOf).getD Skein.reset else v

/-- What a yielding kernel keeps of a core. -/
def State.saveCore (s : State) (ctx c : Nat) : SavedCore :=
  let k := s.core c
  { core := c,
    was := { k with skeins := k.skeins.foldl (fun t p => putAt Skein.reset t p.1 (keptSkein (s.kernel ctx).plan c p.1 p.2)) [] } }

/-- The kernel of a context yields: its Rink slots and cores are emptied, its areas and remote windows stay, and it resumes with
its remaining skeins (R471). -/
def State.yieldKernel (s : State) (ctx : Nat) : State :=
  let k := s.kernel ctx
  if k.live then
    let saved := (s.kernelCores ctx).map (s.saveCore ctx)
    let s := (s.kernelCores ctx).foldl (fun s c => s.setCore c { (s.core c).torn ctx with wins := (s.core c).wins }) s
    let s := k.ssWins.foldl (fun s n => s.setSsWin n (s.ssWin n).closed) s
    s.setKernel ctx { k with live := false, paused := true, saved := saved, ssWins := [] }
  else s

/-- A turn on the control core that is over: the scans of the context leave their units (R444, R472). -/
def State.endUnitTurn (s : State) (ctx overrun : Nat) : State :=
  let c := s.ctx ctx
  if c.uTurn && (c.uExpired || !s.unitReady ctx) then (s.leaveCvus ctx).passTurnOf true ctx overrun else s

/-- A turn on the cluster set that is over (R470, R471). -/
def State.endSetTurn (s : State) (ctx overrun : Nat) : State :=
  let c := s.ctx ctx
  if c.turn && (c.expired || (!s.kernelReady ctx && !(s.kernel ctx).live)) && s.atPreemption ctx then
    (s.yieldKernel ctx).passTurn ctx overrun
  else s

/-- TURN_END (R470 to R473). -/
def execTurnEnd (t : TurnOf) (overrun : Nat) (s : State) : Host.Outcome State Fault Refusal :=
  .next (
    if !(t.ctx < 32 && s.serving) then s
    else if t.unit then s.endUnitTurn t.ctx overrun
    else s.endSetTurn t.ctx overrun)

end Sys2Proof.Machine
end

