-- ==== Sys2Proof/Machine/Fabric.lean ====
section
/-!
DEFINITION. The fabric ports: link-up, credits, regulators, the DMA hub's queues, bulk requests and their responses, fences and timeouts
(R255, R305, R352 to R363, R371, R376, R379, R380, R392, R469, R480 to R484).
-/

namespace Sys2Proof.Machine

/-! ### Bulk requests (R255, R305, R356, R361, R363, R371, R376, R392, R469) -/

/-- The first free tags of a bulk request's kind: 2,048 reads, one for each beat, and 1,024 writes (R354, R355). -/
def FPort.newTags (p : FPort) (wr : Bool) (n : Nat) : Option Nat :=
  if wr then p.freeTags 1 1024 2048 else p.freeTags n 2048 0

/-- The run of a request. -/
def requestRun (r : DmaRequest) : Run :=
  { ref := 2 ^ 63 + r.handle * 2 ^ 44, off := r.offset, len := 64 * r.units, wr := r.isWrite }

/-- OSP rows of a request: one per beat. -/
def requestBeats (r : DmaRequest) : Nat := ceilDiv r.units 8

/-- A transfer as the requests it is split into at a 4 KiB boundary; none where a piece would not be whole rows of at least 512 bytes
(R361; log 34). Addresses and offsets have the same low 12 bits. -/
def splitRequest (r : DmaRequest) : Option (List DmaRequest) :=
  let n := (4096 - r.offset % 4096) / 64
  if r.units < 8 then none
  else if r.units ≤ n then some [r]
  else if n % 8 = 0 && 8 ≤ r.units - n then
    some [{ r with units := n },
          { r with offset := r.offset + 64 * n, units := r.units - n, row := r.row + n / 8, enables := r.enables >>> n }]
  else none

/-- A fill would run past the slot of its first row (R305). -/
def Core.fillOverruns (k : Core) (r : DmaRequest) : Bool :=
  r.region.isSome && (match k.slotOf r.row with
    | some (n, i) =>
      let g := getAt Region.reset k.regions n
      decide (g.start + (i + 1) * g.slotRows < r.row + requestBeats r)
    | none => false)

/-- What the OSP side of a request meets: it may issue, waits, or a first overflow. -/
def State.requestRows (s : State) (x : Desc) (r : DmaRequest) : RowAcc :=
  let k := s.core r.core
  let a := k.area x.ctx
  if r.row < a.base || a.base + a.bound < r.row + requestBeats r then .fault 0x20
  else if k.fillOverruns r then .fault 0x22
  else (upTo (requestBeats r)).foldl (fun w i => w.worse (k.rowAcc x.ctx (!r.isWrite) (if r.isWrite then 5 else 1) (r.row + i))) .ok

/-- The core of a fill with its slot: the slot at TAIL is allocated by the first request into it, for the skein whose turn it is, and
a later one is that skein's too; none where the fill must wait (R255, R305, R371). -/
def Core.fillSlot (k : Core) (ctx : Nat) (r : DmaRequest) : Option Core :=
  match r.region with
  | none => some k
  | some n => match k.ownRegion ctx n, k.slotOf r.row with
    | some g, some (m, i) =>
      if m != n then none
      else if g.slot i == .filling then (if g.owner.getD i none == r.skein then some k else none)
      else if i = g.tail && k.nextOwner n == r.skein then k.allocate n
      else none
    | _, _ => none

/-- The page of a pool whose DATA range a handle names, and the offset in it, where an address lies. -/
def State.pageOf (s : State) (handle a : Nat) : Option (PageRef × Nat) :=
  (s.pools.find? (fun p => p.2.live && p.2.handles.head? == some handle && decide (p.2.data ≤ a))).map
    (fun p => ({ pool := p.1, page := (a - p.2.data) / p.2.psize }, (a - p.2.data) % p.2.psize))

/-- A view of a descriptor holds a page (R254). -/
def Desc.viewsPage (x : Desc) (r : PageRef) : Bool :=
  x.views.any (fun v => v.pages.any (fun l => l.contains r) || (v.pool == r.pool && v.prov.contains r.page))

/-- The physical address of a request under a range's entry as it stands. -/
def State.requestAt (s : State) (r : DmaRequest) : Nat :=
  let e := s.range r.handle
  e.base + r.offset - 4096 * e.start

/-- What a request meets in its range: a read of a page that the descriptor views meets the pool's range (R255, R371, R392). -/
def State.requestAcc (s : State) (x : Desc) (r : DmaRequest) : Acc :=
  match (if r.isWrite then none else s.pageOf r.handle (s.requestAt r)) with
  | some (p, o) =>
    if x.viewsPage p && decide (o + 64 * r.units ≤ (s.pool p.pool).psize) then
      match (s.pageReach p false).2 with
      | .ok tier _ => .ok tier (s.requestAt r)
      | a => a
    else .bad
  | none => s.access x (requestRun r)

/-- A request as it stands under its tags. -/
def bulkOut (x : Desc) (r : DmaRequest) (a : Nat) : Out :=
  { op := if r.isWrite then .wr else .rd, addr := a, units := r.units, d := some x.did, handle := some r.handle, core := r.core,
    row := r.row, region := r.region, error := 0, timedOut := false, unsent := false, seq := 0, watch := none,
    enables := r.enables, data := [] }

/-- Beat `i` of a read. -/
def Out.beat (o : Out) (i : Nat) : Out :=
  { o with addr := o.addr + 512 * i, units := min 8 (o.units - 8 * i), row := o.row + i }

/-- A read sent: a tag for each beat, one credit. -/
def FPort.sendRead (p : FPort) (t : Nat) (o : Out) : FPort :=
  let o := { o with seq := p.sent }
  let p := { p with sent := p.sent + 1, req := p.req - 1 }
  (upTo (ceilDiv o.units 8)).foldl (fun p i => p.setOut (t + i) (some (o.beat i))) p

/-- A request sent under the tags from `t`: a write carries its data. -/
def State.sendRequest (s : State) (x : Desc) (r : DmaRequest) (a t : Nat) (k : Core) : State :=
  let port := portOf a
  let o := bulkOut x r a
  let p := { s.fport port with lastQueue := 2 * r.core + r.isWrite.toNat }
  let p := if r.isWrite then p.send t { o with data := (k.rows r.row (requestBeats r)).take (64 * r.units) } else p.sendRead t o
  let s := (s.takeUnits (s.partOf x) r.units).setFport port p
  s.setCore r.core (if r.isWrite then k else k.countWrites r.row (requestBeats r) false)

/-- How the head of a queue went: it waits, it left its queue, or it stays there with its stream halted. -/
inductive DmaHead where
  | waits
  | gone (s : State)
  | stays (s : State)
  deriving DecidableEq, Repr

/-- A request whose range resolves, issued where tags, credits, space and the regulator allow. -/
def State.issueRequest (s : State) (x : Desc) (r : DmaRequest) (tier a : Nat) : DmaHead :=
  let p := s.fport (portOf a)
  if tier = 2 then .gone s
  else if !p.pays (bulkOut x r a) || !(s.part (s.partOf x)).admits r.units then .waits
  else match s.requestRows x r with
    | .fault e => .gone (s.coreFault r.core e)
    | .hold => .waits
    | .ok => match p.newTags r.isWrite (requestBeats r), (if r.isWrite then some (s.core r.core) else (s.core r.core).fillSlot x.ctx r) with
      | some t, some k => match s.checkRows r.core x r.ecc (if r.isWrite then (upTo (requestBeats r)).map (fun i => .osp (r.row + i)) else []) with
        | (true, u) => .gone (u.sendRequest x r a t (if r.isWrite then u.core r.core else k))
        | (false, u) => .gone u
      | _, _ => .waits

/-- A request of a stream that waits for the host: its core, range and direction are those of a fault without its reply (R376). -/
def State.streamWaits (s : State) (x : Desc) (r : DmaRequest) : Bool :=
  s.faults.any (fun f => f.d == some x.did && f.core == some r.core && f.handle == r.handle && f.isWrite == r.isWrite)

/-- A request brings its bytes as they are: into the OSP it may only fetch rows that need neither conversion nor rotation (R76). -/
def State.rawFill (s : State) (x : Desc) (r : DmaRequest) : Bool :=
  r.isWrite || (match s.tensorAt x (requestRun r) with
    | some (t, _) => t.conv.copies && t.rope.isNone
    | none => true)

/-- The descriptor whose kernel may have a request issued on its core. -/
def State.requestDesc (s : State) (r : DmaRequest) : Option Desc :=
  match s.desc? r.d with
  | some x =>
    if s.serving && x.dequeued && x.st != .prepared && r.core < 32 && (s.core r.core).ctx == some x.ctx
        && (s.kernel x.ctx).live && (s.kernel x.ctx).d == x.did then some x
    else none
  | none => none

/-- The head of a queue tried (R363, R376, R392). -/
def State.tryHead (s : State) (r : DmaRequest) : DmaHead :=
  match s.requestDesc r with
  | none => .gone s
  | some x =>
    if s.streamWaits x r then .waits
    else match s.requestAcc x r with
      | .ok tier a => s.issueRequest x r tier a
      | .lost row => .gone (s.rowLost x row)
      | .halt => .stays (s.haltStream r.core x.did (requestRun r))
      | .stale => .gone ((s.stopKernel x).retire x 0x11 0)
      | .bad => .gone ((s.stopKernel x).retire x 0x03 0xFFFF)

/-- The queue of a request: each core has one for each direction (R363). -/
def queueOf (r : DmaRequest) : Nat := 2 * r.core + r.isWrite.toNat

/-- The heads of the queues whose next request goes to a port, in round-robin order after the queue it served last (R363). -/
def State.portHeads (s : State) (port : Nat) : List DmaRequest :=
  let heads := (upTo 64).filterMap (fun q => s.dmaQ.find? (fun r => queueOf r == q))
  let mine := heads.filter (fun r => portOf (s.requestAt r) == port)
  let last := (s.fport port).lastQueue
  mine.filter (fun r => last < queueOf r) ++ mine.filter (fun r => queueOf r ≤ last)

/-- The first head of a list that does not wait. -/
def State.serveHead (s : State) : List DmaRequest → Option State
  | [] => none
  | r :: t => match s.tryHead r with
    | .waits => s.serveHead t
    | .gone u => some { u with dmaQ := u.dmaQ.erase r }
    | .stays u => some u

/-- Each port serves its queues while a request is ready for it. -/
def State.servePorts (s : State) : Nat → State
  | 0 => s
  | n + 1 => match (upTo 12).findSome? (fun p => s.serveHead (s.portHeads p)) with
    | some t => t.servePorts n
    | none => s

/-- The requests of the DMA hub's queues that are ready go (R363). -/
def State.pumpDma (s : State) : State := if s.serving then s.servePorts (2 * s.dmaQ.length) else s

/-- A port that has gained a credit, a tag or its link: repeats that waited go first, then small requests, then the queues. -/
def State.pumpPort (s : State) (port : Nat) : State := ((s.setFport port (s.fport port).resend).pumpSmalls).pumpDma

/-- DMA_REQUEST_ISSUE (R361, R363): a transfer joins its core's queue, split at a 4 KiB boundary, and every request that is ready goes. -/
def execDmaRequestIssue (req : DmaRequest) (s : State) : Host.Outcome State Fault Refusal :=
  .next (match s.requestDesc req, splitRequest req with
    | some x, some rs =>
      if decide (req.units ≤ 64) && decide (req.handle < 16384) && decide (req.offset < 2 ^ 44) && req.offset % 64 == 0
          && s.rawFill x req then
        ({ s with dmaQ := s.dmaQ ++ rs } : State).pumpDma
      else s.pumpDma
    | _, _ => s.pumpDma)

/-! ### Link-up, credits and regulators (R358, R380, R469) -/

/-- FABRIC_LINK_UP (R358). -/
def execFabricLinkUp (port req wdat rsp : Nat) (s : State) : Host.Outcome State Fault Refusal :=
  .next (
    let p := s.fport port
    if port < 12 && s.mgmt.power == .on && !p.up then
      (s.setFport port { p with up := true, req := req, wdat := wdat, rsp := rsp, reqGrant := req, wdatGrant := wdat,
                                rspGrant := rsp }).pumpPort port
    else s)

/-- CREDIT_RETURN (R358): channel 0 is REQ, channel 1 WDAT. -/
def execCreditReturn (port chan n : Nat) (s : State) : Host.Outcome State Fault Refusal :=
  .next (
    let p := s.fport port
    if port < 12 && s.mgmt.power == .on && p.up then
      if chan = 0 then (s.setFport port { p with req := p.req + n }).pumpPort port
      else if chan = 1 then (s.setFport port { p with wdat := p.wdat + n }).pumpPort port
      else s
    else s)

/-- REGULATOR_REFILL (R469). -/
def execRegulatorRefill (part : Nat) (s : State) : Host.Outcome State Fault Refusal :=
  .next (
    let p := s.part part
    if part < 8 && s.mgmt.power == .on && p.enable && p.rate != 0 then
      (s.setPart part { p with tokens := min p.burst (p.tokens + p.rate) }).pumpDma
    else s)

/-! ### Responses (R355 to R357, R359, R379, R481) -/

/-- The context that a request was made for. -/
def State.outCtx (s : State) (o : Out) : Nat := match o.d with
  | some d => (s.sub d.ring).ctx
  | none => 0xFFFF

/-- The live descriptor of a request. -/
def State.outDesc (s : State) (o : Out) : Option Desc := o.d.bind s.desc?

/-- A response that the fabric may send under a tag: to a request that has been sent, and that no earlier FENCE holds (R359). -/
def FPort.answers (p : FPort) (t : Nat) : Option Out := (p.out t).filter (fun o => !o.unsent && !p.holds o)

/-- A repeat that succeeded, logged under its event (R480, R484, R501). -/
def State.repeatSaid (s : State) (port e : Nat) (o : Out) : State :=
  let tag := match s.outDesc o with
    | some x => x.tag
    | none => 0
  let s := (s.logEvent e 1 3 port o.addr (s.outCtx o) tag).noteRepeat e 3 port o.addr
  match o.d with
  | some d => s.noteStatus d 0x31 0xFFFE
  | none => s

/-- The repeat for a missing response was answered. -/
def State.answered (s : State) (port : Nat) (o : Out) : State := if o.timedOut then s.repeatSaid port 0x05 o else s

/-- The repeats of a request that has now succeeded: one for an error, one for a missing response (R482). -/
def State.repeatDone (s : State) (port : Nat) (o : Out) : State :=
  (if o.error = 0 then s else s.repeatSaid port 0x04 o).answered port o

/-- A request taken out of its port; the row of a bulk read is given back to its bank's counter. -/
def State.dropOut (s : State) (port t : Nat) (o : Out) : State :=
  let s := s.setFport port ((s.fport port).setOut t none)
  if t < 2048 then s.setCore o.core ((s.core o.core).countWrites o.row 1 true) else s

/-- A quarantined tag whose late response arrives: it is discarded, and the tag is free again (R379). -/
def State.lateResponse (s : State) (port t : Nat) : State :=
  let p := s.fport port
  (s.setFport port { p with quarTags := p.quarTags.filter (fun q => q.1 != t) }).pumpPort port

/-- A beat's 512 bytes: units beyond the request's length are zero (R355), and so are the unwritten positions of a page (R230). -/
def State.beatBytes (s : State) (o : Out) : List Byte :=
  let bs := match o.handle.bind (fun h => s.pageOf h o.addr) with
    | some (r, at_) => ((s.pageImage r).drop at_).take (64 * o.units)
    | none => s.memAt o.addr (64 * o.units)
  bs ++ List.replicate (512 - bs.length) 0

/-- A beat placed in its row (R305, R350): a write into a FULL or HELD slot is not performed. -/
def State.placeBeat (s : State) (o : Out) : State :=
  let k := s.core o.core
  match (if k.ctx == some (s.outCtx o) then k.countRow o.row else some k) with
  | some k => (s.setCore o.core k).writeRowsAt o.core o.row (s.beatBytes o)
  | none => s.coreFault o.core 0x22

/-- A beat at its bank (R324 to R327): held, dropped where the bank has no power, which only a beat that was never counted can
meet, or placed. -/
def State.readBeat (s : State) (port t : Nat) (o : Out) : State :=
  match (s.core o.core).bankMeet (s.outCtx o) o.row 1 with
  | .held => s
  | .dark => (((s.repeatDone port o).dropOut port t o).bankDrop o.core o.core o.row 1 1).pumpPort port
  | .ready => (((s.repeatDone port o).dropOut port t o).placeBeat o).pumpPort port

/-- FABRIC_READ_BEAT (R355): a beat of a bulk read; what the Bobbin path reads for a watch returns by PROD_READ_RETURN or
LOOP_RESUME. -/
def execFabricReadBeat (port tag : Nat) (s : State) : Host.Outcome State Fault Refusal :=
  .next (match (s.fport port).answers tag, (s.fport port).out tag with
    | some o, _ => if o.op == .rd && tag < 2048 then s.readBeat port tag o else s
    | none, some _ => s
    | none, none => s.lateResponse port tag)

/-- FABRIC_WRITE_OK (R356): the write is visible, and posts that waited for it may go (R340). -/
def execFabricWriteOk (port tag : Nat) (s : State) : Host.Outcome State Fault Refusal :=
  .next (match (s.fport port).answers tag, (s.fport port).out tag with
    | some o, _ =>
      if o.isWrite then
        let s := ((s.repeatDone port o).dropOut port tag o).landOut o
        (if tag < 3072 then s.sendPosts o.core else s).pumpPort port
      else s
    | none, some _ => s
    | none, none => s.lateResponse port tag)

/-- The status of a lasting error, by what its repeat was for: 1 POISON, 2 DECODE or ABORT, 3 a missing response (R481). -/
def lastingStatus (kind : Nat) : Nat := if kind = 1 then 0x30 else if kind = 2 then 0x7F else 0x70

/-- Event code of an error (R501). -/
def retryEvent (kind : Nat) : Nat := if kind = 3 then 0x05 else 0x04

/-- A lasting error of a request (R357, R379, R485): logged, and its descriptor's context torn down; one that serves no live
descriptor is logged only (log 34). -/
def State.requestFails (s : State) (port : Nat) (o : Out) (kind : Nat) : State :=
  match s.outDesc o with
  | some x => (s.logEvent (retryEvent kind) 2 3 port o.addr x.ctx x.tag).descFault x (lastingStatus kind)
  | none => s.logEvent (retryEvent kind) 2 3 port o.addr (s.outCtx o)

/-- A request whose descriptor is gone: it is not repeated. -/
def State.orphan (s : State) (o : Out) : Bool := o.d.isSome && (s.outDesc o).isNone

/-- An error response: the request repeats once for it; where it was such a repeat, or its descriptor is gone, it ends and is logged
(R482, R485). -/
def State.errorResponse (s : State) (port tag kind : Nat) : State :=
  match (s.fport port).answers tag, (s.fport port).out tag with
  | some o, _ =>
    if (kind = 1 && o.op != .rd) || o.op == .fence then s
    else if o.error = 0 && !s.orphan o then s.setFport port ((s.fport port).again tag { o with error := kind })
    else ((((s.answered port o).dropOut port tag o).requestFails port o (if o.error = 0 then kind else o.error))).pumpPort port
  | none, some _ => s
  | none, none => s.lateResponse port tag

/-- FABRIC_POISON (R357). -/
def execFabricPoison (port tag : Nat) (s : State) : Host.Outcome State Fault Refusal := .next (s.errorResponse port tag 1)

/-- FABRIC_DECODE (R357). -/
def execFabricDecode (port tag : Nat) (s : State) : Host.Outcome State Fault Refusal := .next (s.errorResponse port tag 2)

/-- FABRIC_ABORT (R357): as DECODE. -/
def execFabricAbort (port tag : Nat) (s : State) : Host.Outcome State Fault Refusal := .next (s.errorResponse port tag 2)

/-! ### Timeouts and fences (R359, R379) -/

/-- A tag quarantined with the context it was used for. -/
def State.quarantineTag (s : State) (port tag : Nat) (o : Out) : State :=
  let s := s.dropOut port tag o
  let p := s.fport port
  let s := s.setFport port { p with quarTags := p.quarTags ++ [(tag, s.outCtx o)] }
  if o.isWrite then s.cutOut o else s

/-- A tag of a torn-down context that is quarantined counts as held, not as returned (R497). -/
def State.tagHeld (s : State) (ctx : Nat) : State :=
  let c := s.ctx ctx
  match c.teardown with
  | some t => s.setCtx ctx { c with teardown := some { t with tags := t.tags - 1 } }
  | none => s

/-- A free tag for the repeat of a request, of the kind of its own tag (R354). -/
def State.retryTag (s : State) (port tag : Nat) (o : Out) : Option Nat :=
  if tag < 3072 then (s.fport port).newTags o.isWrite 1
  else match o.op with
    | .watch => s.watchTag
    | .fence => (s.fport port).fenceTag
    | .rd | .wr => s.bobTag

/-- A request sent again under a new tag, its old tag quarantined; it waits where no tag is free. -/
def State.retryTimeout (s : State) (port tag : Nat) (o : Out) : State :=
  let p := s.fport port
  match s.retryTag port tag o with
  | some t => s.setFport port (({ p with quarTags := p.quarTags ++ [(tag, s.outCtx o)] }.setOut tag none).again t { o with timedOut := true })
  | none => s

/-- REQUEST_TIMEOUT (R379): a request that has been sent repeats under a new tag; a repeat that is not answered ends its
descriptor. -/
def State.requestTimeout (s : State) (port tag : Nat) : State :=
  match ((s.fport port).out tag).filter (fun o => !o.unsent) with
  | some o =>
    if s.orphan o then (((s.quarantineTag port tag o).tagHeld (s.outCtx o)).logEvent 0x05 2 3 port o.addr (s.outCtx o)).pumpPort port
    else if !o.timedOut then s.retryTimeout port tag o
    else ((s.quarantineTag port tag o).requestFails port o 3).pumpPort port
  | none => s

/-- REQUEST_TIMEOUT (R379). -/
def execRequestTimeout (port tag : Nat) (s : State) : Host.Outcome State Fault Refusal :=
  .next (s.requestTimeout port tag)

/-- FENCE_OK (R359): every earlier request of the port has completed, and later ones may be answered. -/
def execFenceOk (port tag : Nat) (s : State) : Host.Outcome State Fault Refusal :=
  .next (
    let p := s.fport port
    match p.out tag with
    | some o =>
      if o.op == .fence && !o.unsent && p.drained o then ((s.answered port o).setFport port (p.setOut tag none)).pumpPort port else s
    | none => s.lateResponse port tag)

end Sys2Proof.Machine
end

