-- ==== Sys2Proof/Machine/Faults.lean ====
section
/-!
DEFINITION. Range faults: their records, and the host's replies (R376 to R378, R400 to R402).
-/

namespace Sys2Proof.Machine

/-- A halted stream tests RES again (R402): it resolves its range anew and resumes, or halts under a new id. Its descriptor
runs on once none of its streams is halted. -/
def State.resumeStream (s : State) (f : PFault) : State :=
  let s := { s with faults := s.faults.filter (fun g => g != f) }
  let e := s.range f.handle
  if !e.res then { s with faults := s.faults ++ [{ f with id := none }] }
  else match f.d.bind s.desc? with
    | some x =>
      let r := s.resolveMissing f.part (keepTrans x.trans (transOf f.handle e)) x.bytes
      match r.status with
      | some (st, det) => (s.stopKernel x).retire x st det
      | none =>
        let st := if s.faults.any (fun g => g.d == some x.did) then DState.halted else .running
        s.openDesc { x with st := st, trans := r.trans }
    | none => s

/-- RANGE_FAULT noted for the descriptor or loop of a halted stream (R402). -/
def State.noteFailed (s : State) (f : PFault) : State :=
  match f.d with
  | none => s
  | some d => match s.loopOf d with
    | some n => s.noteLoop n 0x10
    | none => s.noteStatus d 0x10 0

/-- A halted stream that the host fails: its context is torn down (R402). -/
def State.failStream (s : State) (f : PFault) : State :=
  if s.faults.contains f then
    (({ s with faults := s.faults.filter (fun g => g != f) } : State).noteFailed f).tearDown f.ctx 0x10 0xFF 0 f.d
  else s

/-- The pending faults that a REPLY acts on (R402). -/
def State.replyFaults (s : State) (x : Desc) : List PFault :=
  s.faults.filter (fun f => f.part == s.partOf x && f.id.isSome
    && (if bitOf (byteOf x.bytes 9) 1 then f.handle == x.handle else f.id == some (x.field 10 2)))

/-- A REPLY performed with an action on each fault: a FAIL ends every descriptor that it names in RANGE_FAULT, also those
that the first teardown takes with it (R402, R466). -/
def State.reply (s : State) (d : Did) (fail : Bool) (act : State → PFault → State) : State :=
  match s.running? d [0x42] with
  | some x =>
    if adviseOp x.bytes != 3 || bitOf (byteOf x.bytes 9) 0 != fail then s
    else if (s.range x.handle).gen != x.gen then s.retire x 0x11 0
    else if !s.ownsHandle (s.partOf x) x.handle then s.retire x 0x03 16
    else
      let fs := s.replyFaults x
      if fs.any (fun f => f.handle != x.handle) then s.retire x 0x03 10
      else if fs.isEmpty then s.retire x 0x02 0
      else
        let s := fs.foldl act (if fail then fs.foldl State.noteFailed s else s)
        match s.desc? d with
        | some x => s.retire x 0 0
        | none => s
  | none => s

/-- ADVISE_REPLY_RESUME (R377, R402). -/
def execAdviseReplyResume (d : Did) (s : State) : Host.Outcome State Fault Refusal :=
  .next (s.reply d false State.resumeStream)

/-- ADVISE_REPLY_FAIL (R402). -/
def execAdviseReplyFail (d : Did) (s : State) : Host.Outcome State Fault Refusal :=
  .next (s.reply d true State.failStream)

/-- A fault record (R400). -/
def faultBytes (f : PFault) (id : Nat) : List Byte :=
  natLe 2 id ++ natLe 2 f.handle ++ natLe 2 f.gen.toNat ++ natLe 1 f.reason ++ natLe 1 f.isWrite.toNat
    ++ natLe 8 f.offset ++ natLe 2 f.ctx ++ natLe 2 0 ++ natLe 4 f.tag.toNat ++ natLe 8 0

/-- The first fault id not in use among `n` from `i`, wrapping around. -/
def freeId (used : List Nat) : Nat → Nat → Option Nat
  | 0, _ => none
  | n + 1, i => if used.contains (i % 4096) then freeId used n (i + 1) else some (i % 4096)

/-- A fault given its id and its record written; one that no stream waits on gives its id back. -/
def State.sendFault (s : State) (f : PFault) (id : Nat) : State :=
  let s := s.pushFault f.part (faultBytes f id)
  let fs := s.faults.erase f
  { s with faults := if f.reason = 0 then fs ++ [{ f with id := some id }] else fs, nextFault := (id + 1) % 4096 }

/-- RANGE_FAULT_RECORD (R376, R400, R401): the oldest record of the partition that waits. -/
def execRangeFaultRecord (part : Nat) (s : State) : Host.Outcome State Fault Refusal :=
  let p := s.part part
  match s.faults.find? (fun f => f.part == part && f.id.isNone),
      freeId (s.faults.filterMap PFault.id) Config.maxFaults s.nextFault with
  | some f, some id =>
    if part < 8 && s.serving && ringRoom p.fl p.faultProd (s.faultCons part) then
      if pastEnd p.fbase (ringSpan p.fl 32) || pastEnd p.fmsg 4 then .fault .addressSpace
      else .next (s.sendFault f id)
    else .next s
  | _, _ => .next s

end Sys2Proof.Machine
end

