-- ==== Sys2Proof/Machine/Loom.lean ====
section
/-!
DEFINITION. What arrives over the Loom, the SS, corrected rows and the patrol scrubber (R22, R307 to R318, R321 to R323, R327).
-/

namespace Sys2Proof.Machine

/-! ### Acknowledgements (R22) -/

/-- A node has taken a write of a core that it has not acknowledged: those in flight are not among them. -/
def State.ackDue (s : State) (c node : Nat) : Bool :=
  decide ((s.loom.filter (fun w => w.src == c && w.target == node)).length < ((s.core c).loomDue.filter (· == node)).length)

/-- LOOM_WRITE_ACK (R22): the oldest write of the core that has arrived and is not acknowledged; its posts go once none is
left. -/
def execLoomWriteAck (core : Nat) (s : State) : Host.Outcome State Fault Refusal :=
  .next (
    let k := s.core core
    match k.loomDue.find? (s.ackDue core) with
    | none => s
    | some node =>
      if core < 32 && s.serving then (s.setCore core { k with loomDue := k.loomDue.erase node }).sendPosts core else s)

/-! ### Remote accesses (R313 to R318, R326, R327) -/

/-- The admitted rows of a remote access. -/
def State.remoteRow (s : State) (a : RemoteAccess) (rd : Bool) (n : Nat) : Option Nat :=
  s.windowRow a.src a.target a.win a.gen rd a.offset n

/-- A write in flight has arrived: the banks that counted it give its count back (R324). -/
def State.takeWrite (s : State) (w : LoomWrite) : State :=
  let s := { s with loom := s.loom.erase w }
  match w.counted with
  | some r => s.setCore w.target ((s.core w.target).countWrites r (w.rows.length / 512) true)
  | none => s

/-- A refused write: its credit comes back, and only its writer's context is torn down (R314). -/
def State.refuseWrite (s : State) (w : LoomWrite) : State :=
  let k := s.core w.src
  let s := s.setCore w.src { k with loomDue := k.loomDue.erase w.target }
  if k.ctx == some w.ctx then s.coreFault w.src 0x25 else s

/-- A write in flight at its target (R314): refused, held, dropped where no counter saw it, or performed. -/
def State.arriveWrite (s : State) (w : LoomWrite) : State :=
  let n := w.rows.length / 512
  match s.windowRow w.src w.target w.win w.gen false w.offset n with
  | none => (s.takeWrite w).refuseWrite w
  | some r =>
    match (s.core w.target).bankMeet ((s.core w.target).rwin w.win).ctx r n with
    | .ready => (s.takeWrite w).writeRowsAt w.target r w.rows
    | .held => s
    | .dark => if w.counted.isSome then s else (s.takeWrite w).bankDrop w.src w.target r n 3

/-- A remote write that no counter saw leave (R327): refused, held, dropped or written; an admitted write is acknowledged
later. -/
def State.remoteWrite (s : State) (a : RemoteAccess) (rows : List Byte) : State :=
  let n := rows.length / 512
  match s.remoteRow a false n with
  | none => s.coreFault a.src 0x25
  | some r =>
    match (s.core a.target).bankMeet ((s.core a.target).rwin a.win).ctx r n with
    | .ready =>
      let s := s.writeRowsAt a.target r rows
      s.setCore a.src { s.core a.src with loomDue := (s.core a.src).loomDue ++ [a.target] }
    | .held => s
    | .dark => s.bankDrop a.src a.target r n 3

/-- The oldest write in flight from a core to another, where it may arrive: messages of a pair of nodes arrive in the order in
which they were issued (R22). -/
def State.oldestWrite (s : State) (src target : Nat) : Option LoomWrite :=
  (s.loom.find? (fun w => w.src == src && w.target == target)).filter (fun w => s.loomFirst src target w.sent)

/-- REMOTE_WRITE_ARRIVE (R22, R314): the oldest write in flight of the pair, or one that no counter saw leave. -/
def execRemoteWriteArrive (acc : RemoteAccess) (rows : List Byte) (s : State) : Host.Outcome State Fault Refusal :=
  .next (
    if !(s.serving && acc.src < 32 && acc.target < 32) then s
    else if acc.counted then match s.oldestWrite acc.src acc.target with
      | some w => s.arriveWrite w
      | none => s
    else if acc.win < 4 && decide (512 ≤ rows.length) && rows.length % 512 == 0 then s.remoteWrite acc rows
    else s)

/-- Rows that the remote read path brings to a core (R23). -/
def State.bringRows (s : State) (c : Nat) (bs : List Byte) : State := s.setCore c { s.core c with inbox := bs }

/-- A remote read at its target (R23, R314, R320 to R322, R326): refused, held, or its rows brought to the source with what
their code checks met; a lasting error ends the reading context. -/
def State.remoteRead (s : State) (a : RemoteAccess) (n : Nat) : State :=
  match s.remoteRow a true n with
  | none => s.coreFault a.src 0x25
  | some r =>
    match (s.core a.target).bankMeet ((s.core a.target).rwin a.win).ctx r n,
      (s.core a.src).ctx.bind (fun ctx => s.desc? (s.kernel ctx).d) with
    | .ready, some x => match s.checkRows a.target x a.ecc ((upTo n).map (fun i => .osp (r + i))) with
      | (true, t) => t.bringRows a.src ((s.core a.target).rows r n)
      | (false, t) => t
    | _, _ => s

/-- REMOTE_READ_ARRIVE (R314). -/
def execRemoteReadArrive (acc : RemoteAccess) (nrows : Nat) (s : State) : Host.Outcome State Fault Refusal :=
  .next (
    if s.serving && acc.src < 32 && acc.target < 32 && acc.win < 4 && decide (1 ≤ nrows) then s.remoteRead acc nrows else s)

/-! ### The Sequence Store (R307 to R312, R319 to R323) -/

/-- A core's access to a row of an SS window (R310): refused, written, or read with what its code check met. -/
def State.ssAccess (s : State) (a : SsAccess) (x : Desc) (row : List Byte) : State :=
  match s.ssRows a.core x.ctx a.win a.isWrite a.offset 1 with
  | none => s.coreFault a.core 0x25
  | some r =>
    if a.isWrite then
      let s := s.putSsRows r row
      s.setCore a.core { s.core a.core with loomDue := (s.core a.core).loomDue ++ [32] }
    else match s.checkRows a.core x a.ecc [.ss r] with
      | (true, t) => t.bringRows a.core (memRead s.ss (512 * r) 512)
      | (false, t) => t

/-- SS_REQUEST (R308, R310). -/
def execSsRequest (acc : SsAccess) (row : List Byte) (s : State) : Host.Outcome State Fault Refusal :=
  .next (match (s.core acc.core).ctx.bind (fun ctx => s.desc? (s.kernel ctx).d) with
    | some x =>
      if s.serving && acc.core < 32 && acc.win < 128 && (!acc.isWrite || row.length == 512) then s.ssAccess acc x row else s
    | none => s)

/-- ECC_WRITEBACK (R321): written back in an idle cycle or abandoned, the data is the corrected data either way. -/
def execEccWriteback (place : EccPlace) (_idle : Bool) (s : State) : Host.Outcome State Fault Refusal :=
  .next { s with wback := s.wback.erase place }

/-- A patrol read of a row with what it found (R323). -/
def State.scrub (s : State) (r : Nat) (found : EccFound) : State :=
  match (if s.ssPoison.contains r then .uncorrectable else found) with
  | .clean => s
  | .correctable => s.countCorrectedSs
  | .uncorrectableOnce => (s.logEvent 0x01 1 1 (r % 64) r).noteRepeat 0x01 1 (r % 64) r
  | .uncorrectable => (s.poisonRow 0 (.ss r)).logEvent 0x02 2 1 (r % 64) r

/-- SS_SCRUB_TICK (R323). -/
def execSsScrubTick (found : EccFound) (s : State) : Host.Outcome State Fault Refusal :=
  .next (if s.serving then { s.scrub s.scrubRow found with scrubRow := (s.scrubRow + 1) % 262144 } else s)

end Sys2Proof.Machine
end

