-- ==== Sys2Proof/Machine/Spi.lean ====
section
/-!
DEFINITION. The serial-memory registers and their operations (R509, R548, R549).
-/

namespace Sys2Proof.Machine

/-- Why a start of an operation is refused: it touches the factory region, crosses a page, or is not aligned
to its erase size (R509, R549). -/
def spiRefused (op : SpiOp) (addr len : Nat) : Bool :=
  match op with
  | .program => addr < 2 ^ 20 || addr / 256 != (addr + len - 1) / 256
  | .erase4k => addr < 2 ^ 20 || addr % 4096 != 0
  | .erase64k => addr < 2 ^ 20 || addr % 65536 != 0
  | _ => false

/-- ZT_SPI_CTL written with an operation and a length in bytes (R548, R549); a refusal for the factory region is logged (R509). -/
def State.spiStart (s : State) (op : SpiOp) (len : Nat) : State :=
  if !s.portOk then s
  else if s.mgmt.phase ≠ .ready then
    ({ s with mgmt := { s.mgmt with spiDone := true, spiErr := 3 } } : State).cfgIgnored 0x4000
  else if s.mgmt.spiBusy then s.cfgIgnored 0x4000
  else if spiRefused op s.mgmt.spiAddr.toNat len then
    let s := { s with mgmt := { s.mgmt with spiDone := true, spiErr := 1 } }
    if s.mgmt.spiAddr.toNat < 2 ^ 20 then s.cfgIgnored 0x4000 else s
  else { s with mgmt := { s.mgmt with spiBusy := true, spiErr := 0, spiOp := some (op, len) } }

/-- SPI_READ (R548). -/
def execSpiRead (len : Nat) (s : State) : Host.Outcome State Fault Refusal :=
  .next (if 1 ≤ len && len ≤ 256 then s.spiStart .read len else s)

/-- SPI_PROGRAM (R549). -/
def execSpiProgram (len : Nat) (s : State) : Host.Outcome State Fault Refusal :=
  .next (if 1 ≤ len && len ≤ 256 then s.spiStart .program len else s)

/-- SPI_ERASE_4K (R549). -/
def execSpiErase4k (s : State) : Host.Outcome State Fault Refusal := .next (s.spiStart .erase4k 4096)

/-- SPI_ERASE_64K (R549). -/
def execSpiErase64k (s : State) : Host.Outcome State Fault Refusal := .next (s.spiStart .erase64k 65536)

/-- SPI_READ_SFDP (R548). -/
def execSpiReadSfdp (len : Nat) (s : State) : Host.Outcome State Fault Refusal :=
  .next (if 1 ≤ len && len ≤ 256 then s.spiStart .readSfdp len else s)

/-- SPI_OP_DONE (R549): BUSY clears, DONE is set, a device error gives ERR = DEVICE. -/
def execSpiOpDone (deviceError : Bool) (s : State) : Host.Outcome State Fault Refusal :=
  .next (
    if !s.mgmt.spiBusy then s
    else match s.mgmt.spiOp with
      | some (op, len) =>
        let s := if deviceError then s.spiFailed op len else s.spiEffect op len
        { s with mgmt := { s.mgmt with spiBusy := false, spiDone := true, spiOp := none,
                                       spiErr := if deviceError then 2 else 0 } }
      | none => { s with mgmt := { s.mgmt with spiBusy := false, spiDone := true } })

/-- The operation of a ZT_SPI_CTL code (R548). -/
def spiOpOf : Nat → Option SpiOp
  | 0 => some .read
  | 1 => some .program
  | 2 => some .erase4k
  | 3 => some .erase64k
  | 4 => some .readSfdp
  | _ => none

/-- A write of ZT_SPI_CTL. A reserved code starts nothing and is logged CFG_IGNORED (DESIGN CHOICE, log 54: R11 says only that
it must not be used); before READY any code records NOT_READY (R549). -/
def State.spiCtlWrite (s : State) (value : Nat) : State :=
  match spiOpOf (bitsOf value 0 3) with
  | some .erase4k => s.spiStart .erase4k 4096
  | some .erase64k => s.spiStart .erase64k 65536
  | some op => s.spiStart op (bitsOf value 8 8 + 1)
  | none => if s.mgmt.phase = .ready then s.cfgIgnored 0x4000 else s.spiStart .read 1

/-- A write of ZT_SPI_ADDR or a buffer word, READY: ignored and logged while BUSY (R549). -/
def State.spiDataWrite (s : State) (offset value : Nat) : State :=
  if s.mgmt.spiBusy then s.cfgIgnored offset
  else if offset = 0x4004 then { s with mgmt := { s.mgmt with spiAddr := BitVec.ofNat 32 value } }
  else { s with mgmt := { s.mgmt with spiBuf := writeRun 0 s.mgmt.spiBuf (offset - 0x4100) (natLe 4 value) } }

end Sys2Proof.Machine
end

