-- ==== Sys2Proof/Machine/Registers.lean ====
section
/-!
DEFINITION. The register window: reads, writes, pairs, the log's snapshots, and the TAP instruments
(R527 to R551).
-/

namespace Sys2Proof.Machine

/-! ### Reads -/

/-- Bits of a mask (R535). -/
def onesOf (m : BitVec 8) : Nat := popcount m.toNat 8

/-- ZT_ID (R535). -/
def State.zid (s : State) : Nat := s.mgmt.part.rev.toNat + 0x0531 * 2 ^ 8 + 0x5D * 2 ^ 24

/-- A value that reads 0 until READY (R505, R535). -/
def State.untilReady (s : State) (v : Nat) : Nat := if s.mgmt.phase = .ready then v else 0

/-- ZT_CAP0 (R535). -/
def State.cap0 (s : State) : Nat :=
  let n := onesOf s.mgmt.clmask
  s.untilReady (s.mgmt.clmask.toNat + 4 * n * 2 ^ 12 + n * 2 ^ 18 + s.mgmt.part.config * 2 ^ 22)

/-- Phase codes (R504). -/
def phaseCode : Phase → Nat
  | .reset => 0
  | .sfdp => 1
  | .factory => 2
  | .records => 3
  | .calib => 4
  | .selftest => 5
  | .sfucheck => 6
  | .fwsig => 7
  | .fwread => 8
  | .fwload => 9
  | .ready => 10
  | .startFail => 15

/-- Power state codes (R543). -/
def pwrCode : PwrState → Nat
  | .p0 => 0
  | .p1 => 1
  | .p2 => 2
  | .changing => 3

/-- ZT_PWR_STATE (R543). -/
def State.pwrStateReg (s : State) : Nat :=
  phaseCode s.mgmt.phase + s.mgmt.image * 2 ^ 4 + s.mgmt.fatal.toNat * 2 ^ 5 + s.mgmt.cmdref.toNat * 2 ^ 6
    + s.mgmt.cause * 2 ^ 8

/-- A word of partition `n`'s block (R537). -/
def State.partReg (s : State) (n o : Nat) : Nat :=
  let p := s.part n
  match o with
  | 0 => p.enable.toNat + p.admin.toNat * 2 + p.clusters.toNat * 2 ^ 8 + p.fl * 2 ^ 24
  | 4 => p.seqBase + p.seqCntM1 * 2 ^ 16
  | 8 => p.hBase + p.hCntM1 * 2 ^ 16
  | 12 => p.rate
  | 16 => p.burst
  | 20 => p.fbase % 2 ^ 32
  | 24 => p.fbase / 2 ^ 32
  | 28 => p.fmsg % 2 ^ 32
  | 32 => p.fmsg / 2 ^ 32
  | 36 => p.fdata.toNat
  | 40 =>
    (s.faults.filter (fun f => f.part == n)).length
      + (s.loops.filter (fun l => l.2.live && s.partOf l.2.desc == n)).length * 2 ^ 16
  | _ => 0

/-- A word of context `n`'s block (R538). -/
def State.ctxReg (s : State) (n o : Nat) : Nat :=
  let c := s.ctx n
  match o with
  | 0 => c.enable.toNat + c.stopped.toNat * 2 + c.part * 2 ^ 4 + c.clusters.toNat * 2 ^ 8
  | 4 => c.slice
  | 8 => (s.descs.filter (fun x => x.ctx == n)).length
  | _ => 0

/-- A word of core `n`'s block (R540): zero outside CLMASK. -/
def State.coreReg (s : State) (n o : Nat) : Nat :=
  if 32 ≤ n || !s.clusterOn (n / 4) then 0
  else
    let k := s.core n
    match o with
    | 0 => k.arraySet.toNat + k.sfuSet.toNat * 2 ^ 8
    | 4 => k.cecc.toNat
    | 8 => k.bubbles.toNat % 2 ^ 32
    | _ => k.bubbles.toNat / 2 ^ 32

/-- A change of frequency is in progress or waits for a kernel boundary (R541). -/
def Cluster.waits (c : Cluster) : Bool :=
  c.change != .none || c.req != c.appReq || c.mbxLim != c.appMbx || c.target != c.cur

/-- A word of cluster `n`'s clock registers (R541). -/
def State.clkReg (s : State) (n o : Nat) : Nat :=
  if 8 ≤ n then 0
  else
    let c := s.cluster n
    if o = 0 then c.req
    else c.cur + c.target * 2 ^ 5 + c.mbxLim * 2 ^ 10 + codeOf c.thermMhz * 2 ^ 15 + codeOf c.ceilMhz * 2 ^ 20
      + c.waits.toNat * 2 ^ 25 + bandOf (mhzOf c.cur) * 2 ^ 26

/-- A word of ring block `k` (R539). -/
def State.ringReg (s : State) (k o : Nat) : Nat :=
  if k < 64 then
    let r := s.sub k
    match o with
    | 0 => r.base % 2 ^ 32
    | 4 => r.base / 2 ^ 32
    | 8 => r.enable.toNat + r.l * 2 ^ 4 + r.ctx * 2 ^ 16 + r.cring * 2 ^ 24
    | 28 => (s.descs.filter (fun x => x.ring == k && x.st == .fetched)).length + r.halted.toNat * 2 ^ 7
    | _ => 0
  else
    let r := s.comp (k - 64)
    match o with
    | 0 => r.base % 2 ^ 32
    | 4 => r.base / 2 ^ 32
    | 8 => r.enable.toNat + r.l * 2 ^ 4 + r.part * 2 ^ 16
    | 12 => r.msgAddr % 2 ^ 32
    | 16 => r.msgAddr / 2 ^ 32
    | 20 => r.msgData.toNat
    | 24 => r.coalCnt + r.coalTime * 2 ^ 16
    | _ => min 256 r.waiting.length

/-- A telemetry word (R546). -/
def State.telReg (s : State) (o : Nat) : Nat :=
  if o < 160 then
    let x := s.sensor (o / 4)
    x.temp.toNat + x.valid.toNat * 2 ^ 16
  else match o with
    | 0xC0 => wrapOf s.mgmt.point 16
    | 0xC4 => wrapOf (s.mgmt.point + 120) 16
    | 0xC8 => s.mgmt.demand + s.mgmt.early.toNat * 2 ^ 12
    | _ => 0

/-- The 32 bytes of log entry `n` as it stands; zero where none was written. -/
def State.logEntryBytes (s : State) (n : Nat) : List Byte :=
  if n < s.log.head then logBytes (getAt LogEntry.reset s.log.entries n) else List.replicate 32 0

/-- The current contents of a register (R528 to R548); a reserved offset and a write-only register read 0. ZT_CLK_CURn
of a fused-off cluster shows the FREQ the record holds (DESIGN CHOICE, log 59). -/
def State.regRead (s : State) (o : Nat) : Nat :=
  if o < 0x100 then
    match o with
    | 0x00 => s.zid
    | 0x04 => s.cap0
    | 0x08 => s.untilReady 2
    | 0x0C => s.untilReady (s.mgmt.part.chip.toNat + 7 * 2 ^ 16)
    | 0x10 => s.untilReady 0x044F3FFF
    | 0x14 => s.verSel
    | 0x18 => s.rangeBase % 2 ^ 32
    | 0x1C => s.rangeBase / 2 ^ 32
    | 0x20 => s.collFlags.toNat
    | 0x24 => s.ssCecc.toNat
    | 0x28 => s.log.head % 2 ^ 32
    | 0x2C => s.log.lost.toNat
    | _ => 0
  else if o < 0x300 then s.partReg ((o - 0x100) / 64) (o % 64)
  else if o < 0x400 then 0
  else if o < 0x600 then s.ctxReg ((o - 0x400) / 16) (o % 16)
  else if o < 0x800 then 0
  else if o < 0xB00 then s.coreReg ((o - 0x800) / 16) (o % 16)
  else if o < 0xC00 then 0
  else if o < 0xC60 then s.clkReg ((o - 0xC00) / 8) (o % 8)
  else if o < 0xD00 then 0
  else if o < 0xDB0 then
    if o = 0xD00 then s.pwrStateReg
    else if 0xD40 ≤ o && o < 0xD60 then
      let c := s.cluster ((o - 0xD40) / 4)
      c.pwrReq + pwrCode (s.clusterPower ((o - 0xD40) / 4)) * 2 ^ 4
    else if 0xD80 ≤ o && o < 0xDA0 then (s.cluster ((o - 0xD80) / 4)).req
    else 0
  else if o < 0xE00 then 0
  else if o < 0xED0 then s.telReg (o - 0xE00)
  else if o < 0x1000 then 0
  else if o < 0x2000 then s.ringReg ((o - 0x1000) / 32) (o % 32)
  else if o < 0x4000 then fieldOf (s.logEntryBytes ((o - 0x2000) / 32)) (o % 32) 4
  else match o with
    | 0x4004 => s.mgmt.spiAddr.toNat
    | 0x4008 => s.mgmt.spiBusy.toNat + s.mgmt.spiDone.toNat * 2 + s.mgmt.spiErr * 4
    | 0x400C => s.untilReady (s.mgmt.spiLogBits + s.mgmt.spiMhz * 2 ^ 8)
    | _ => if 0x4100 ≤ o && o < 0x4200 then leNat (readRun 0 s.mgmt.spiBuf (o - 0x4100) 4) else 0

/-! ### Pairs (R531) -/

/-- An offset that is the lower word of a 64-bit pair. -/
def isLower (o : Nat) : Bool :=
  o == 0x18
    || (0x100 ≤ o && o < 0x300 && (o % 64 == 20 || o % 64 == 28))
    || (0x800 ≤ o && o < 0xA00 && o % 16 == 8)
    || (0x1000 ≤ o && o < 0x2000 && (o % 32 == 0 || (0x1800 ≤ o && o % 32 == 12)))

/-- An offset that is the upper word of a pair. -/
def isUpper (o : Nat) : Bool := 4 ≤ o && isLower (o - 4)

/-- The key of an initiator's staged word or shadow. -/
def portKey (init o : Nat) : Nat := 65536 * init + o

/-- A read by an initiator that the port performs (R531, R550): a lower word latches the upper word into a
shadow, which the next upper read returns; word 0 of a log entry latches the whole entry. -/
def State.portRead (s : State) (init o : Nat) : State :=
  let v := s.regRead o
  if isLower o then
    { s with port := { s.port with
      regOut := BitVec.ofNat 32 v,
      shadow := (s.port.shadow.filter (fun p => p.1 != portKey init (o + 4)))
        ++ [(portKey init (o + 4), BitVec.ofNat 32 (s.regRead (o + 4)))] } }
  else if isUpper o then
    match s.port.shadow.find? (fun p => p.1 == portKey init o) with
    | some p =>
      { s with port := { s.port with
        regOut := p.2, shadow := s.port.shadow.filter (fun q => q.1 != portKey init o) } }
    | none => { s with port := { s.port with regOut := BitVec.ofNat 32 v } }
  else if 0x2000 ≤ o && o < 0x4000 then
    let n := (o - 0x2000) / 32
    if o % 32 = 0 then
      { s with port := { s.port with
        regOut := BitVec.ofNat 32 v, snap := putAt (256, []) s.port.snap init (n, s.logEntryBytes n) } }
    else
      let sn := getAt (256, []) s.port.snap init
      let w := if sn.1 = n then fieldOf sn.2 (o % 32) 4 else v
      { s with port := { s.port with regOut := BitVec.ofNat 32 w } }
  else { s with port := { s.port with regOut := BitVec.ofNat 32 v } }

/-- ERR_LOG_ENTRY_LATCH (R550). -/
def execErrLogEntryLatch (init entry : Nat) (s : State) : Host.Outcome State Fault Refusal :=
  .next (if s.portOk && entry < 256 then s.portRead init (0x2000 + 32 * entry) else s)

/-- REG_PAIR_LOWER_READ (R531). -/
def execRegPairLowerRead (init offset : Nat) (s : State) : Host.Outcome State Fault Refusal :=
  .next (if s.portOk && isLower offset then s.portRead init offset else s)

/-! ### Writes -/

/-- A register that a write does not change now: one of an enabled object's block that is not its configuration register
(R533), or the mirror base while a partition is enabled (R536). -/
def State.blockLocked (s : State) (o : Nat) : Bool :=
  if 0x100 ≤ o && o < 0x300 then (s.part ((o - 0x100) / 64)).enable
  else if 0x400 ≤ o && o < 0x600 then (s.ctx ((o - 0x400) / 16)).enable
  else if 0x1000 ≤ o && o < 0x1800 then (s.sub ((o - 0x1000) / 32)).enable
  else if 0x1800 ≤ o && o < 0x2000 then (s.comp ((o - 0x1800) / 32)).enable
  else (o == 0x18 || o == 0x1C) && s.parts.any (fun p => p.2.enable)

/-- A lower word held until the upper word is written (R531). -/
def State.stageLower (s : State) (init o : Nat) (value : Word) : State :=
  let key := portKey init o
  { s with port := { s.port with
    staged := s.port.staged.filter (fun p => p.1 != key) ++ [(key, value)] } }

/-- The 64-bit value that a write of an upper word makes: with the staged lower word, or with the current
one (R531); the staged word is used up. -/
def State.pairValue (s : State) (init o : Nat) (upper : Word) : Nat × State :=
  let key := portKey init (o - 4)
  match s.port.staged.find? (fun p => p.1 == key) with
  | some p =>
    (p.2.toNat + upper.toNat * 2 ^ 32,
     { s with port := { s.port with staged := s.port.staged.filter (fun q => q.1 != key) } })
  | none => (s.regRead (o - 4) + upper.toNat * 2 ^ 32, s)

/-- Address bits [56:12] of a pair: a 4 KiB aligned base. -/
def base4k (v : Nat) : Nat := bitsOf v 12 45 * 4096

/-- ZT_RANGE_TBL_BASE written (R536): only while every partition is disabled. -/
def State.rangeBaseWrite (s : State) (v : Nat) : State :=
  if s.parts.any (fun p => p.2.enable) then s.cfgIgnored 0x001C else { s with rangeBase := base4k v }

/-- A write of a pair's upper word that takes effect (R531, R536, R537, R539). -/
def State.pairWrite (s : State) (init o : Nat) (upper : Word) : State :=
  let (v, s) := s.pairValue init o upper
  if o = 0x1C then s.rangeBaseWrite v
  else if s.blockLocked o then s.cfgIgnored o
  else if 0x100 ≤ o && o < 0x300 then
    let n := (o - 0x100) / 64
    if o % 64 = 24 then s.setPart n { s.part n with fbase := base4k v }
    else s.setPart n { s.part n with fmsg := bitsOf v 2 55 * 4 }
  else if 0x1000 ≤ o && o < 0x1800 then
    let n := (o - 0x1000) / 32
    s.setSub n { s.sub n with base := base4k v }
  else if 0x1800 ≤ o && o < 0x2000 then
    let n := (o - 0x1800) / 32
    if o % 32 = 4 then s.setComp n { s.comp n with base := base4k v }
    else s.setComp n { s.comp n with msgAddr := bitsOf v 2 55 * 4 }
  else s

/-- A partition's word registers (R537). -/
def State.partWrite (s : State) (n o : Nat) (v : Nat) : State :=
  let p := s.part n
  match o with
  | 4 => s.setPart n { p with seqBase := bitsOf v 0 16, seqCntM1 := bitsOf v 16 16 }
  | 8 => s.setPart n { p with hBase := bitsOf v 0 14, hCntM1 := bitsOf v 16 14 }
  | 12 => s.setPart n { p with rate := bitsOf v 0 17 }
  | 16 => s.setPart n { p with burst := bitsOf v 0 21 }
  | 36 => s.setPart n { p with fdata := BitVec.ofNat 32 v }
  | _ => s

/-- A completion ring's word registers (R539). -/
def State.compWrite (s : State) (n o : Nat) (v : Nat) : State :=
  let c := s.comp n
  match o with
  | 20 => s.setComp n { c with msgData := BitVec.ofNat 32 v }
  | 24 => s.setComp n { c with coalCnt := bitsOf v 0 8, coalTime := bitsOf v 16 16 }
  | _ => s

/-- A write of a reserved offset: ignored, and logged when the data is nonzero (R528, R529). -/
def State.reservedWrite (s : State) (o v : Nat) : State := if v = 0 then s else s.cfgIgnored o

/-- A core's word registers (R540): those of an absent core ignore writes. -/
def State.coreWrite (s : State) (n o : Nat) (value : Word) : State :=
  if 32 ≤ n then s.reservedWrite (0x800 + 16 * n + o) value.toNat
  else if !s.clusterOn (n / 4) then s
  else match o with
    | 0 => s.clearFlags n value 0
    | 4 => s.setCore n { s.core n with cecc := value }
    | _ => s

/-- A 32-bit aligned write that is not the lower word of a pair, the engine READY (R528 to R549). -/
def State.wordWrite (s : State) (init o : Nat) (value : Word) : State :=
  let v := value.toNat
  if isUpper o && !(0x800 ≤ o && o < 0xB00) then s.pairWrite init o value
  else if o < 0x100 then
    match o with
    | 0x14 => s.verSelWrite value
    | 0x20 => { s with collFlags := s.collFlags &&& ~~~(value.setWidth 4) }
    | 0x24 => { s with ssCecc := value }
    | _ => if o < 0x30 then s else s.reservedWrite o v
  else if o < 0x300 then
    let n := (o - 0x100) / 64
    if o % 64 = 0 then (if bitOf v 0 then s.partEnable n value else s.partDisable n value)
    else if 40 < o % 64 then s.reservedWrite o v
    else if s.blockLocked o then s.cfgIgnored o
    else s.partWrite n (o % 64) v
  else if 0x400 ≤ o && o < 0x600 then
    let n := (o - 0x400) / 16
    match o % 16 with
    | 0 => if bitOf v 0 then s.ctxEnable n value else s.ctxDisable n value
    | 4 => if s.blockLocked o then s.cfgIgnored o else s.setCtx n { s.ctx n with slice := bitsOf v 0 27 }
    | 8 => if s.blockLocked o then s.cfgIgnored o else s
    | _ => s.reservedWrite o v
  else if 0x800 ≤ o && o < 0xB00 then s.coreWrite ((o - 0x800) / 16) (o % 16) value
  else if 0xC00 ≤ o && o < 0xC60 then
    let n := (o - 0xC00) / 8
    if 8 ≤ n then s.reservedWrite o v else if o % 8 = 0 then s.freqWrite o n value else s
  else if o = 0xD00 then
    { s with mgmt := { s.mgmt with cmdref := s.mgmt.cmdref && !bitOf v 6 } }
  else if o = 0xD04 then s.pwrCmd (bitsOf v 0 8) (bitsOf v 16 16)
  else if 0xD40 ≤ o && o < 0xD60 then
    s.powerWrite ((o - 0xD40) / 4) (bitsOf v 0 2)
  else if 0xD80 ≤ o && o < 0xDA0 then s.freqWrite o ((o - 0xD80) / 4) value
  else if 0xE00 ≤ o && o < 0xED0 then
    (if o = 0xEC0 then s.throttleWrite value
     else if o < 0xEA0 || o = 0xEC4 || o = 0xEC8 then s else s.reservedWrite o v)
  else if 0x1000 ≤ o && o < 0x1800 then
    let n := (o - 0x1000) / 32
    match o % 32 with
    | 8 => if bitOf v 0 then s.subEnable n value else s.subDisable n value
    | 28 => if s.blockLocked o then s.cfgIgnored o else s
    | _ => s.reservedWrite o v
  else if 0x1800 ≤ o && o < 0x2000 then
    let n := (o - 0x1800) / 32
    match o % 32 with
    | 8 => if bitOf v 0 then s.compEnable n value else s.compDisable n value
    | _ => if s.blockLocked o then s.cfgIgnored o else s.compWrite n (o % 32) v
  else if 0x2000 ≤ o && o < 0x4000 then s
  else if o = 0x4000 then s.spiCtlWrite v
  else if o = 0x4004 || (0x4100 ≤ o && o < 0x4200) then s.spiDataWrite o v
  else if o = 0x4008 then { s with mgmt := { s.mgmt with spiDone := s.mgmt.spiDone && !bitOf v 1 } }
  else if o = 0x400C then s
  else s.reservedWrite o v

/-- The offsets whose writes are taken before READY: ZT_PWR_ and ZT_TEL_ (R505). -/
def earlyWrite (o : Nat) : Bool := (0xD00 ≤ o && o < 0xDB0) || (0xE00 ≤ o && o < 0xED0)

/-- A write of `size` bytes by an initiator (R505, R529, R531). -/
def State.portWrite (s : State) (init o size : Nat) (value : Word) : State :=
  if size != 4 || o % 4 != 0 then s.cfgIgnored o
  else if s.mgmt.phase ≠ .ready && !earlyWrite o then
    (if o = 0x4000 then s.spiCtlWrite value.toNat else s.cfgIgnored o)
  else if isLower o then
    (if 0x800 ≤ o && o < 0xB00 then s
     else if s.blockLocked o then s.cfgIgnored o else s.stageLower init o value)
  else s.wordWrite init o value

/-- REG_WRITE (R529). -/
def execRegWrite (init offset size : Nat) (value : Word) (s : State) : Host.Outcome State Fault Refusal :=
  .next (if s.portOk && offset < 65536 then s.portWrite init offset size value else s)

/-- REG_PAIR_LOWER_WRITE (R531). -/
def execRegPairLowerWrite (init offset : Nat) (value : Word) (s : State) : Host.Outcome State Fault Refusal :=
  .next (if s.portOk && isLower offset then s.portWrite init offset 4 value else s)

/-- ZT_RANGE_TBL_BASE_WRITE (R536): the write of the upper word. -/
def execZtRangeTblBaseWrite (init : Nat) (upper : Word) (s : State) : Host.Outcome State Fault Refusal :=
  .next (if s.portOk then s.portWrite init 0x1C 4 upper else s)

/-- ZT_CORE_FLAGS_CLEAR (R70, R532): `raised` are the flags raised in the same cycle. -/
def execZtCoreFlagsClear (core : Nat) (value raised : Word) (s : State) : Host.Outcome State Fault Refusal :=
  .next (
    if core < 32 then
      s.setupWrite (0x0800 + 16 * core) (fun s =>
        if s.clusterOn (core / 4) then s.clearFlags core value raised else s)
    else s)

/-! ### The TAP (R527) -/

/-- Data shifted out. -/
def State.tapOut (s : State) (v : Nat) : State :=
  { s with port := { s.port with regOut := BitVec.ofNat 32 v } }

/-- The condition of a production part: START_FAIL, or P0 with every context disabled. -/
def State.tapOpen (s : State) : Bool :=
  s.mgmt.power == .on && (s.mgmt.phase == .startFail
    || (s.ctxs.all (fun c => !c.2.enable) && (upTo 8).all (fun n => !s.clusterOn n || (s.cluster n).pwr == .p0)))

/-- TAP_IDCODE: the identity as ZT_ID reports it (log 20). -/
def execTapIdcode (s : State) : Host.Outcome State Fault Refusal :=
  .next (if s.mgmt.power = .on then s.tapOut s.zid else s)

/-- TAP_BYPASS: the chain passes through. -/
def execTapBypass (bit : Bool) (s : State) : Host.Outcome State Fault Refusal :=
  .next (if s.mgmt.power = .on then s.tapOut bit.toNat else s)

/-- Offsets the bridge always reads: ZT_ID, ZT_PWR_STATE and ZT_ERR_LOG. -/
def tapAlways (o : Nat) : Bool :=
  o == 0 || o == 0xD00 || o == 0x28 || o == 0x2C || (0x2000 ≤ o && o < 0x4000)

/-- TAP_REGISTER_BRIDGE: initiator 1; outside its condition a read gives zero and a write does nothing. -/
def execTapRegisterBridge (isWrite : Bool) (offset : Nat) (value : Word) (s : State) :
    Host.Outcome State Fault Refusal :=
  .next (
    if !s.portOk || 65536 ≤ offset then s
    else if isWrite then (if s.tapOpen then s.portWrite 1 offset 4 value else s)
    else if offset % 4 != 0 then (s.tapOut 0).cfgIgnored offset
    else if s.tapOpen || tapAlways offset then s.portRead 1 offset
    else s.tapOut 0)

/-- TAP_SRAM_SELFTEST: a run answers whether it found a fault; a readout gives the first word of the repair
map; zero outside the condition (log 20). -/
def execTapSramSelftest (run : Bool) (f : SramFaults) (s : State) : Host.Outcome State Fault Refusal :=
  .next (
    if s.mgmt.power ≠ .on then s
    else if !s.tapOpen then s.tapOut 0
    else if run then s.tapOut (!(f.clusters.isEmpty && f.ccores.isEmpty && !f.shared)).toNat
    else s.tapOut (fieldOf s.mgmt.repairMap 0 4))

/-- TAP_SPI_DIRECT: in START_FAIL only, never the factory region. -/
def execTapSpiDirect (isWrite : Bool) (addr : Nat) (data : List Byte) (s : State) :
    Host.Outcome State Fault Refusal :=
  .next (
    if s.mgmt.power ≠ .on then s
    else if s.mgmt.phase = .startFail && 2 ^ 20 ≤ addr then
      if isWrite then
        let new := programBytes (s.flashAt addr data.length) data
        { s with mgmt := { s.mgmt with flash := writeRun blankFlash s.mgmt.flash addr new } }
      else s.tapOut (leNat (s.flashAt addr 4))
    else s.tapOut 0)

end Sys2Proof.Machine
end

