-- ==== Sys2Proof/Machine/Rings.lean ====
section
/-!
DEFINITION. Descriptor rings: watches, fetch, dequeue, completion records, NOP, FENCE and ABORT (R360, R447 to R450,
R454 to R459, R464 to R468, R474 to R477).
-/

namespace Sys2Proof.Machine

/-! ### Watches (R360, R448) -/

/-- A WATCH answered: it is in place under its tag, and where it still has an owner its line is read (R360). -/
def State.armWatch (s : State) (n : Nat) (at_ : Nat × Nat) : State :=
  let w := s.watch n
  let s := s.setWatch n { w with armed := true, readDue := w.owner.isSome, tag := at_.2 }
  let s := s.watchDone at_
  if w.owner.isNone then s
  else s.ask { port := portOf (s.watchLine n), op := .rd, addr := s.watchLine n, data := [], fenced := false, d := none, watch := some n }

/-- WATCH_ARMED (R360): a WATCH that has been sent is answered. -/
def execWatchArmed (watch : Nat) (s : State) : Host.Outcome State Fault Refusal :=
  .next (match s.watchOut watch .watch with
    | some at_ => s.armWatch watch at_
    | none => s)

/-- A watch that is gone, and is sent again where it has an owner; the read of its line follows its arming (R360). -/
def State.rearm (s : State) (n : Nat) : State :=
  let w := s.watch n
  let t := s.setWatch n { w with armed := false }
  if !w.armed then s else if w.owner.isSome then t.sendWatch n else t

/-- WATCH_HIT (R360). -/
def execWatchHit (watch : Nat) (s : State) : Host.Outcome State Fault Refusal := .next (s.rearm watch)

/-- WATCH_LOST (R360). -/
def execWatchLost (watch : Nat) (s : State) : Host.Outcome State Fault Refusal := .next (s.rearm watch)

/-- A ring whose descriptors the engine fetches (R449, R453, R478). -/
def State.fetching (s : State) (n : Nat) : Bool :=
  let r := s.sub n
  n < 64 && s.serving && r.enable && !r.draining && !(s.ctx r.ctx).stopped

/-- PROD of a submission ring, as memory holds it. -/
def State.hostProd (s : State) (n : Nat) : Word := BitVec.ofNat 32 (leNat (s.memAt (s.sub n).base 4))

/-- A record queued whose RETIRE is stamped when it is written (R449). -/
def State.pushStamped (s : State) (cring : Nat) (bytes : List Byte) : State :=
  s.setComp cring ((s.comp cring).take { bytes := bytes, irq := true, stamp := true, d := none })

/-- A ring halted by a PROD beyond its depth (R449): logged, and one record. -/
def State.haltRing (s : State) (n : Nat) (prod : Word) : State :=
  let r := s.sub n
  if r.halted then s
  else
    let s := s.setSub n { r with halted := true }
    let s := s.logEvent 0x0D 0 0xFF 0 (prod.toNat + n * 2 ^ 32) r.ctx
    s.pushStamped r.cring (recordBytes 0 0x03 0 0x00 n r.cons r.ctx 0 0 0)

/-- PROD read: a valid distance lets fetching go on, any other halts the ring (R448, R449). -/
def State.takeProd (s : State) (n : Nat) (prod : Word) : State :=
  let r := s.sub n
  if 2 ^ r.l < (prod - r.cons).toNat then s.haltRing n prod
  else s.setSub n { r with prod := prod, halted := false }

/-- A submission ring's memory runs past the physical space (log 18). -/
def State.subPastEnd (s : State) (n : Nat) : Bool := pastEnd (s.sub n).base (ringSpan (s.sub n).l 64)

/-- PROD_READ_RETURN (R360, R448, R449): the read that followed the arming of a ring's watch returns. -/
def execProdReadReturn (ring : Nat) (s : State) : Host.Outcome State Fault Refusal :=
  match s.watchOut ring .rd with
  | none => .next s
  | some at_ =>
    if !s.fetching ring then .next ((s.watchDone at_).readSeen ring)
    else if s.subPastEnd ring then .fault .addressSpace
    else .next (((s.watchDone at_).readSeen ring).takeProd ring (s.hostProd ring))

/-! ### Fetch (R448, R456, R390) -/

/-- Fetched descriptors of a ring that are not dequeued. -/
def State.undequeued (s : State) (n : Nat) : List Desc := s.descs.filter (fun x => x.ring == n && x.st == .fetched)

/-- A ring that has a descriptor to fetch and room for it (R448). -/
def State.mayFetch (s : State) (n : Nat) : Bool :=
  let r := s.sub n
  s.fetching n && !r.halted && r.prod != r.cons && decide ((s.undequeued n).length < Config.maxFetched)

/-- A descriptor begun: its place in dequeue order and its time (R458, R464 ELAPSED), the kernel that a SEM_OP acts on (R460), and
its context's turn on the control core (R472). -/
def State.begin (s : State) (x : Desc) : State :=
  let x := { x with st := .running, order := s.order + 1, tDeq := s.clkCtl, semKernel := s.semBound x }
  (({ s with order := s.order + 1 }).setDesc x).takeUnit x

/-- A fetched descriptor checked, its references resolved (R390, R456); an ABORT acts from here on (R475). -/
def State.accept (s : State) (x : Desc) : State :=
  match firstFail (headerChecks x.bytes x.ctx s.verSel ++ s.opChecks x.ctx x.bytes) with
  | some pos => s.retire x 0x03 pos
  | none =>
    let r := s.resolveAll (s.partOf x) [] x.bytes
    match r.status with
    | some (st, det) => s.retire x st det
    | none =>
      let x := { x with trans := r.trans }
      if x.opcode = 0x7E then s.begin x else s.setDesc x

/-- The slot of a ring at CONS. -/
def State.slotAt (s : State) (n : Nat) : Nat := let r := s.sub n; r.base + 128 + 64 * (r.cons.toNat % 2 ^ r.l)

/-- The read of a descriptor's 64 bytes at an address may meet this. -/
def slotRead (a : Nat) : BadRead → Bool
  | .poison b | .decode b | .silent b => decide (a ≤ b) && decide (b < a + 64)
  | .ssRow _ | .page _ _ => false

/-- A descriptor whose read failed twice: it ends with the status of the error, without its bytes, and its context is torn down
(R357, R379, R481; DESIGN CHOICE, log 69). -/
def State.fetchLost (s : State) (x : Desc) (r : BadRead) : State :=
  let x := { x with bytes := natLe 64 0 }
  (({ s with descs := s.descs ++ [x] } : State).readLost x r).descFault x (readStatus r)

/-- A descriptor copied into the engine, once the checks of its read are met. -/
def State.fetchMet (s : State) (x : Desc) (a : Nat) (c : ReadCheck) : State :=
  let take := fun (s : State) (x : Desc) => ({ s with descs := s.descs ++ [x] } : State).accept x
  match c with
  | .lasting r => if slotRead a r then s.fetchLost x r else take s x
  | .retried r => if slotRead a r then take (s.readCured x r) { x with status := 0x31, detail := 0xFFFE } else take s x
  | .clean | .corrected _ => take s x

/-- The descriptor at CONS copied into the engine over the Bobbin path, and CONS past it (R364, R365, R448). -/
def State.fetchNext (s : State) (n : Nat) (reads : ReadCheck) : State :=
  let r := s.sub n
  let a := s.slotAt n
  let x : Desc := { Desc.reset with ring := n, index := r.cons, bytes := s.memAt a 64, ctx := r.ctx }
  let s := ((s.bobSpend a).setSub n { r with cons := r.cons + 1 }).bobWrite (portOf r.base) (r.base + 64)
    (natLe 4 (r.cons + 1).toNat) false none
  s.fetchMet x a reads

/-- DESC_FETCH (R364, R390, R448, R456). -/
def execDescFetch (c : FetchCmd) (s : State) : Host.Outcome State Fault Refusal :=
  if s.mayFetch c.ring && s.bobReady (s.slotAt c.ring) then
    if s.subPastEnd c.ring then .fault .addressSpace else .next (s.fetchNext c.ring c.reads)
  else .next s

/-! ### Dequeue (R391, R398, R450, R458, R459) -/

/-- The scope of a FENCE takes in a ring (R459). -/
def State.fenceCovers (s : State) (f : Desc) (n : Nat) : Bool :=
  if bitOf (byteOf f.bytes 8) 0 then (s.sub n).ctx == f.ctx else f.ring == n

/-- A dequeued descriptor that holds back those of a ring (R398, R459). -/
def State.blocks (s : State) (y : Desc) (n : Nat) : Bool :=
  y.dequeued && ((y.opcode == 0x60 && s.fenceCovers y n) || (y.opcode == 0x41 && y.ring == n))

/-- A reference of a descriptor waits for an entry being retired, and none has ended (R391). -/
def State.rangesWait (s : State) (x : Desc) : Bool :=
  let hs := s.namedHandles x
  hs.any (fun h => (s.range h).st == .retiring)
    && hs.all (fun h => (s.range h).st == .retiring || (s.range h).st == .valid)

/-- The descriptor of a ring that may be dequeued now. -/
def State.ready? (s : State) (n : Nat) : Option Desc :=
  match s.undequeued n with
  | [] => none
  | x :: _ =>
    if n < 64 && s.serving && !(s.ctx x.ctx).stopped
        && decide ((s.comp (s.sub n).cring).waiting.length < Config.maxWaiting) && (s.comp (s.sub n).cring).held.isEmpty
        && !(s.descs.any (fun y => s.blocks y n)) && !s.rangesWait x && s.viewRoom x then some x
    else none

/-- The ring of a context whose turn it is: the next with a ready descriptor, in increasing number (R458). `rr` holds
one more than the last ring served. -/
def State.nextRing (s : State) (ctx : Nat) : Option Nat :=
  let ready := (upTo 64).filter (fun n => (s.sub n).ctx == ctx && (s.ready? n).isSome)
  match ready.find? (fun n => getAt 0 s.rr ctx ≤ n) with
  | some n => some n
  | none => ready.head?

/-- A translation that holds no more: marked, or of an older generation (R391). -/
def State.outdated (s : State) (t : Trans) : Bool := t.stale || t.gen != (s.range t.handle).gen

/-- The references of a descriptor as it starts (R391): used as they are, or resolved again; one that a block holds which could
not be read at the fetch is resolved now. -/
def State.startRefs (s : State) (x : Desc) : Resolved :=
  if x.trans.any (fun t => (s.range t.handle).st == .invalid || (s.range t.handle).st == .quarantined) then
    { trans := x.trans, stale := true, bad := false }
  else if x.trans.any s.outdated then
    s.resolveAll (s.partOf x) (x.trans.filter (fun t => !s.outdated t)) x.bytes
  else s.resolveMissing (s.partOf x) x.trans x.bytes

/-- A descriptor dequeued. -/
def State.dequeue (s : State) (x : Desc) : State :=
  let s := ({ s with rr := putAt 0 s.rr x.ctx (x.ring + 1) }).begin x
  let r := s.startRefs x
  match s.desc? x.did, r.status with
  | some x, some (st, det) => s.retire x st det
  | some x, none => (s.openDesc { x with trans := r.trans }).collTake { x with trans := r.trans }
  | none, _ => s

/-- DESC_DEQUEUE (R458). -/
def execDescDequeue (ring : Nat) (s : State) : Host.Outcome State Fault Refusal :=
  .next (match s.ready? ring with
    | some x => if s.nextRing x.ctx = some ring then s.dequeue x else s
    | none => s)

/-! ### NOP and FENCE (R459) -/

/-- NOP (R459). -/
def execNop (d : Did) (s : State) : Host.Outcome State Fault Refusal :=
  .next (match s.running? d [0x00] with
    | some x => s.retire x 0 0
    | none => s)

/-- A descriptor that a FENCE still waits for. -/
def State.fenceWaits (s : State) (f y : Desc) : Bool := y.dequeued && decide (y.order < f.order) && s.fenceCovers f y.ring

/-- FENCE (R459). -/
def execFence (d : Did) (s : State) : Host.Outcome State Fault Refusal :=
  .next (match s.running? d [0x60] with
    | some x => if s.descs.any (s.fenceWaits x) then s else s.retire x 0 0
    | none => s)

/-! ### ABORT (R291, R474 to R477) -/

/-- An ABORT that has been fetched, acting or waiting for what it has stopped. -/
def State.abort? (s : State) (d : Did) : Option Desc :=
  match s.desc? d with
  | some x => if (x.st == .running || x.st == .waiting) && x.opcode == 0x7E && s.serving then some x else none
  | none => none

/-- A descriptor has neither retired nor, as a running loop, ended. -/
def State.inFlight (s : State) (d : Did) : Bool := (s.desc? d).isSome || (s.loopOf d).isSome

/-- A record of a descriptor waits, or writes of it have not got their OK: its record then waits for them (R465). -/
def State.recordPending (s : State) (d : Did) : Bool :=
  s.comps.any (fun c => (c.2.waiting ++ c.2.held).any (fun r => r.d == some d)) || s.writesOut d

/-- What an ABORT waits for before its own record: its targets drain first (R477). -/
def State.abortWaits (s : State) (d : Did) : Bool := s.inFlight d || s.recordPending d

/-- A running loop aborted: at once at a step boundary, else when its step has completed (R291). -/
def State.stopLoop (s : State) (n : Nat) : State :=
  let s := s.setLoop n { s.loopAt n with aborting := true }
  if s.loopLive n && !(s.loopAt n).inStep then s.loopOutcome n (s.abortLoop n) else s

/-- A descriptor claimed by an ABORT (R477). -/
def State.stop (s : State) (d : Did) : State :=
  match s.desc? d, s.loopOf d with
  | some y, _ => if y.pastNoAbort then s else (s.stopKernel y).cutDesc y
  | none, some n => s.stopLoop n
  | none, none => s

/-- The ABORT completes OK, or waits for what it has stopped. -/
def State.abortSettle (s : State) (x : Desc) (ds : List Did) : State :=
  let left := ds.filter s.abortWaits
  if left.isEmpty then s.retire x 0 0 else s.setDesc { x with st := .waiting, waits := left }

/-- What an ABORT finds of a target that is not in flight (R475): fetched by and by (none), or a status. -/
def State.abortMissing (s : State) (t : Did) : Option (Nat × Nat) :=
  let r := s.sub t.ring
  let ahead := (t.index - r.cons).toNat
  if ahead < (s.hostProd t.ring - r.cons).toNat then
    (if s.fetching t.ring && !r.halted then none else some (0x03, 12))
  else if ahead < 2 ^ 31 then some (0x03, 12)
  else some (0x02, 0)

/-- An ABORT of one descriptor. -/
def State.abortTarget (s : State) (x : Desc) (t : Did) : State :=
  if t = x.did then s.retire x 0x01 0
  else match s.desc? t, s.loopOf t with
    | some y, _ => if y.pastNoAbort then s else (s.stop t).abortSettle x [t]
    | none, some _ => (s.stop t).abortSettle x [t]
    | none, none =>
      if s.recordPending t then s
      else match s.abortMissing t with
        | some (st, det) => s.retire x st det
        | none => s

/-- ABORT_ONE (R475 to R477). -/
def execAbortOne (d : Did) (s : State) : Host.Outcome State Fault Refusal :=
  .next (match s.abort? d with
    | some x =>
      if abortContext x.bytes then s
      else if x.st = .waiting then s.abortSettle x x.waits
      else s.abortTarget x (abortTarget x.bytes)
    | none => s)

/-- Every descriptor of a context in flight, running loops included, but for one. -/
def State.ctxDids (s : State) (ctx : Nat) (but : Did) : List Did :=
  ((s.descs.filter (fun y => y.ctx == ctx && y.did != but)).map Desc.did) ++ (s.ctxLoops ctx).map (fun n => (s.loopAt n).d)

/-- ABORT_CONTEXT (R475 to R477). -/
def execAbortContext (d : Did) (s : State) : Host.Outcome State Fault Refusal :=
  .next (match s.abort? d with
    | some x =>
      if !abortContext x.bytes then s
      else if x.st = .waiting then s.abortSettle x x.waits
      else
        let ds := s.ctxDids (abortCtx x.bytes) x.did
        (ds.foldl State.stop s).abortSettle x ds
    | none => s)

/-! ### Completion records and interrupts (R450, R464 to R468) -/

/-- CONS of a completion ring, written by the host. -/
def State.compCons (s : State) (n : Nat) : Word := BitVec.ofNat 32 (leNat (s.memAt ((s.comp n).base + 64) 4))

/-- The interrupt message of a completion ring, behind a FENCE on the ring's port; it clears the counts (R467, R468; log 31). -/
def State.sendMessage (s : State) (n : Nat) : State :=
  let c := s.comp n
  (s.bobWrite (portOf c.base) c.msgAddr (natLe 4 c.msgData.toNat) true none).setComp n { c with landed := 0 }

/-- The bytes of a record as it is written: RETIRE of a halted ring's is the count now (R449). -/
def State.recordNow (s : State) (r : Rec) : List Byte :=
  if r.stamp then r.bytes.take 16 ++ natLe 8 s.clkCtl ++ r.bytes.drop 24 else r.bytes

/-- A completion ring without the first of its waiting records: the first of those that are held waits in its place (R450). -/
def CompRing.drop (c : CompRing) : CompRing := { c with waiting := c.waiting.drop 1 ++ c.held.take 1, held := c.held.drop 1 }

/-- A record sent to its slot, then PROD behind a FENCE, then the message where one is due, all on the port of the ring's base
(R365, R467). -/
def State.landRecord (s : State) (n : Nat) (r : Rec) : State :=
  let c := s.comp n
  let at_ := portOf c.base
  let s := s.setComp n { c.drop with prod := c.prod + 1, landed := c.landed + 1 }
  let s := s.bobWrite at_ (c.base + 128 + 32 * (c.prod.toNat % 2 ^ c.l)) (s.recordNow r) false none
  let s := s.bobWrite at_ c.base (natLe 4 (c.prod + 1).toNat) true none
  if r.irq || (1 ≤ c.coalCnt && decide (c.coalCnt ≤ c.landed + 1)) then s.sendMessage n else s

/-- A completion ring's memory or message address runs past the physical space (log 18). -/
def State.compPastEnd (s : State) (n : Nat) : Bool :=
  let c := s.comp n
  pastEnd c.base (ringSpan c.l 32) || pastEnd c.msgAddr 4

/-- A record that may be sent: every write of its descriptor has its OK (R365, R465). -/
def State.recordReady (s : State) (r : Rec) : Bool := r.d.all (fun d => !s.writesOut d)

/-- COMPLETION_RECORD_WRITE (R365, R450, R465). -/
def execCompletionRecordWrite (cring : Nat) (s : State) : Host.Outcome State Fault Refusal :=
  let c := s.comp cring
  match c.waiting with
  | [] => .next s
  | r :: _ =>
    if cring < 64 && s.serving && c.enable && ringRoom c.l c.prod (s.compCons cring) && s.recordReady r then
      if s.compPastEnd cring then .fault .addressSpace else .next (s.landRecord cring r)
    else .next s

/-- COALESCE_TIMEOUT (R468). -/
def execCoalesceTimeout (cring : Nat) (s : State) : Host.Outcome State Fault Refusal :=
  let c := s.comp cring
  .next (
    if cring < 64 && s.serving && c.enable && decide (1 ≤ c.coalTime) && decide (1 ≤ c.landed) then s.sendMessage cring
    else s)

end Sys2Proof.Machine
end

