-- ==== Sys2Proof/Machine/Swap.lean ====
section
/-!
DEFINITION. The flip of a TABLE_SWAP at the kernel boundary of each core that it names (R177).
-/

namespace Sys2Proof.Machine

/-- A word that issues SFU bundles: an SFU or EPI step (R137, R154). -/
def isBundle (w : BitVec 128) : Bool := [0x20, 0x21].contains (stepOp w)

/-- Steps up to word `hi` that a cursor has yet to pass: those from its place on, and the bodies of its LOOPs that run again. -/
def Piste.ahead (p : Piste) (c : Cursor) (hi : Nat) : List Nat :=
  p.steps.filter (fun j => (decide (c.pc ≤ j) && decide (j ≤ hi))
    || c.frames.any (fun f => decide (f.2 < stepRpt (p.word f.1)) && decide (f.1 < j) && decide (j ≤ f.1 + bodyLen (p.word f.1))))

/-- A core has SFU bundles of its table yet to issue: in its queue, in the SKEIN body that a skein of it runs, or in the words
that the sequencer has yet to write. -/
def Core.bundlesLeft (k : Core) (c : Nat) (p : Piste) : Bool :=
  let own := fun (j : Nat) => isBundle (p.word j) && (stepMask (p.word j)).testBit (c % 4)
  let skeins := k.skeins.filter (fun v => v.2.st != .none)
  k.queue.any (fun q => isBundle (p.word q.word))
    || p.skein.any (fun q => skeins.any (fun v =>
        (p.ahead (if v.2.started then v.2.cur else { pc := q + 1, frames := [] }) (q + bodyLen (p.word q))).any own))
    || (!p.done && (p.ahead p.cur (p.len - 1)).any (fun j => own j && (!skeins.isEmpty || (p.around 0x03 j).isEmpty)))

/-- A core is at the boundary of R177: of the context's kernels before the TABLE_SWAP none is unfinished but one that runs
and has issued its last SFU bundle on this core. -/
def State.swapBoundary (s : State) (x : Desc) (c : Nat) : Bool :=
  s.descs.all (fun y => !(y.ctx == x.ctx && isKernelOp y.opcode && y.dequeued && y.order < x.order)
    || ((s.kernel x.ctx).live && (s.kernel x.ctx).d == y.did
      && ((s.core c).ctx != some x.ctx || !(s.core c).bundlesLeft c (s.pisteAt (c / 4) x.ctx))))

/-- The cores of a TABLE_SWAP that stand at their boundary and have not flipped yet. -/
def State.flipsDue (s : State) (x : Desc) : List Nat :=
  (maskOnes (x.field 16 4) 32).filter (fun c => !x.prog.testBit c && s.swapBoundary x c)

/-- The named slots of the cores at their boundary flipped; the record follows when every named core has flipped (R177). -/
def State.swapFlip (s : State) (x : Desc) : State :=
  let cs := s.flipsDue x
  let s := cs.foldl (fun s c => (maskOnes (x.field 8 8) 64).foldl (fun s k => s.flipSlot c k) s) s
  let x := { x with prog := x.prog + (cs.map (2 ^ ·)).sum }
  if (maskOnes (x.field 16 4) 32).all (fun c => x.prog.testBit c) then (s.setDesc x).retire x 0 0 else s.setDesc x

/-- TABLE_SWAP_FLIP (R177). -/
def execTableSwapFlip (d : Did) (s : State) : Host.Outcome State Fault Refusal :=
  .next (match s.desc? d with
    | some x => if x.st == .prepared && x.opcode == 0x59 && s.serving then s.swapFlip x else s
    | none => s)

end Sys2Proof.Machine
end

