-- ==== Sys2Proof/Machine/Dispatch.lean ====
section
/-!
DEFINITION. What each command does: one arm per row of the opcode table.
-/

namespace Sys2Proof.Machine

/-- The effect of a command on everything but the queue. -/
def exec (i : Instr) (s : State) : Host.Outcome State Fault Refusal :=
  match i with
  | .powerOn => Sys2Proof.Machine.execPowerOn s
  | .blockReset => Sys2Proof.Machine.execBlockReset s
  | .wakeFromP3 => Sys2Proof.Machine.execWakeFromP3 s
  | .startupPllLock locked => Sys2Proof.Machine.execStartupPllLock locked s
  | .sfdpDiscoveryDone found => Sys2Proof.Machine.execSfdpDiscoveryDone found s
  | .factoryRecordRead => Sys2Proof.Machine.execFactoryRecordRead s
  | .userRecordsRead => Sys2Proof.Machine.execUserRecordsRead s
  | .calibrationApplied => Sys2Proof.Machine.execCalibrationApplied s
  | .sramSelftestDone faults => Sys2Proof.Machine.execSramSelftestDone faults s
  | .sfuSeedCheckDone seedFails segFails => Sys2Proof.Machine.execSfuSeedCheckDone seedFails segFails s
  | .fwsigCheckDone sigOk => Sys2Proof.Machine.execFwsigCheckDone sigOk s
  | .fwreadDone hashOk => Sys2Proof.Machine.execFwreadDone hashOk s
  | .fwloadReady => Sys2Proof.Machine.execFwloadReady s
  | .mbxStatusRequest => Sys2Proof.Machine.execMbxStatusRequest s
  | .mbxFreqLimit cluster code => Sys2Proof.Machine.execMbxFreqLimit cluster code s
  | .mbxReset => Sys2Proof.Machine.execMbxReset s
  | .mbxP3 => Sys2Proof.Machine.execMbxP3 s
  | .mbxP3Force => Sys2Proof.Machine.execMbxP3Force s
  | .mbxWake => Sys2Proof.Machine.execMbxWake s
  | .memoryStackLost loss => Sys2Proof.Machine.execMemoryStackLost loss s
  | .watchArmed watch => Sys2Proof.Machine.execWatchArmed watch s
  | .watchHit watch => Sys2Proof.Machine.execWatchHit watch s
  | .watchLost watch => Sys2Proof.Machine.execWatchLost watch s
  | .prodReadReturn ring => Sys2Proof.Machine.execProdReadReturn ring s
  | .descFetch c => Sys2Proof.Machine.execDescFetch c s
  | .descDequeue ring => Sys2Proof.Machine.execDescDequeue ring s
  | .nop d => Sys2Proof.Machine.execNop d s
  | .attnFwd c => Sys2Proof.Machine.execAttnFwd c s
  | .attnBwd c => Sys2Proof.Machine.execAttnBwd c s
  | .gemm c => Sys2Proof.Machine.execGemm c s
  | .conv c => Sys2Proof.Machine.execConv c s
  | .norm c => Sys2Proof.Machine.execNorm c s
  | .sfuMap c => Sys2Proof.Machine.execSfuMap c s
  | .mergeFold c => Sys2Proof.Machine.execMergeFold c s
  | .mergeMaxslot c => Sys2Proof.Machine.execMergeMaxslot c s
  | .mergeRescale c => Sys2Proof.Machine.execMergeRescale c s
  | .mergeFinish c => Sys2Proof.Machine.execMergeFinish c s
  | .move c => Sys2Proof.Machine.execMove c s
  | .convert c => Sys2Proof.Machine.execConvert c s
  | .turn c => Sys2Proof.Machine.execTurn c s
  | .boltStep c => Sys2Proof.Machine.execBoltStep c s
  | .boltAtomicPhase d => Sys2Proof.Machine.execBoltAtomicPhase d s
  | .boltCommit c => Sys2Proof.Machine.execBoltCommit c s
  | .boltMigrateMove c => Sys2Proof.Machine.execBoltMigrateMove c s
  | .boltMigrateExport c => Sys2Proof.Machine.execBoltMigrateExport c s
  | .boltMigrateImport c => Sys2Proof.Machine.execBoltMigrateImport c s
  | .boltMigrateCheck c => Sys2Proof.Machine.execBoltMigrateCheck c s
  | .boltPoolCreate c => Sys2Proof.Machine.execBoltPoolCreate c s
  | .boltPoolDestroy c => Sys2Proof.Machine.execBoltPoolDestroy c s
  | .boltPoolReset c => Sys2Proof.Machine.execBoltPoolReset c s
  | .boltPoolQuery c => Sys2Proof.Machine.execBoltPoolQuery c s
  | .boltPoolSeqtab c => Sys2Proof.Machine.execBoltPoolSeqtab c s
  | .boltPoolSync c => Sys2Proof.Machine.execBoltPoolSync c s
  | .leaveReferenceDrop seq => Sys2Proof.Machine.execLeaveReferenceDrop seq s
  | .pageRetirePush pool isIndex number => Sys2Proof.Machine.execPageRetirePush pool isIndex number s
  | .seqCacheFill seq firstOk => Sys2Proof.Machine.execSeqCacheFill seq firstOk s
  | .collReduce c => Sys2Proof.Machine.execCollReduce c s
  | .collCreate c => Sys2Proof.Machine.execCollCreate c s
  | .collDestroy c => Sys2Proof.Machine.execCollDestroy c s
  | .collRound group => Sys2Proof.Machine.execCollRound group s
  | .collPollReturn group peer => Sys2Proof.Machine.execCollPollReturn group peer s
  | .collRetransmit group peer => Sys2Proof.Machine.execCollRetransmit group peer s
  | .collLocalComplete group => Sys2Proof.Machine.execCollLocalComplete group s
  | .collVote group => Sys2Proof.Machine.execCollVote group s
  | .collVerdict group => Sys2Proof.Machine.execCollVerdict group s
  | .collTimeout p => Sys2Proof.Machine.execCollTimeout p s
  | .crcScan d run => Sys2Proof.Machine.execCrcScan d run s
  | .crcScanResume d run => Sys2Proof.Machine.execCrcScanResume d run s
  | .rangeSyncUpdate d => Sys2Proof.Machine.execRangeSyncUpdate d s
  | .rangeSyncNew d => Sys2Proof.Machine.execRangeSyncNew d s
  | .rangeRetire d => Sys2Proof.Machine.execRangeRetire d s
  | .retireDrainPhase d => Sys2Proof.Machine.execRetireDrainPhase d s
  | .adviseReside d => Sys2Proof.Machine.execAdviseReside d s
  | .adviseDemote d => Sys2Proof.Machine.execAdviseDemote d s
  | .advisePrefetch d => Sys2Proof.Machine.execAdvisePrefetch d s
  | .prefetchOldGenDrained d => Sys2Proof.Machine.execPrefetchOldGenDrained d s
  | .adviseReplyResume d => Sys2Proof.Machine.execAdviseReplyResume d s
  | .adviseReplyFail d => Sys2Proof.Machine.execAdviseReplyFail d s
  | .semOpPost d => Sys2Proof.Machine.execSemOpPost d s
  | .semOpWait d => Sys2Proof.Machine.execSemOpWait d s
  | .loop d => Sys2Proof.Machine.execLoop d s
  | .loopStep loop => Sys2Proof.Machine.execLoopStep loop s
  | .loopResume loop => Sys2Proof.Machine.execLoopResume loop s
  | .tableLoad d => Sys2Proof.Machine.execTableLoad d s
  | .tableSwap d => Sys2Proof.Machine.execTableSwap d s
  | .tableSwapFlip d => Sys2Proof.Machine.execTableSwapFlip d s
  | .seedTableReload core fn => Sys2Proof.Machine.execSeedTableReload core fn s
  | .fence d => Sys2Proof.Machine.execFence d s
  | .abortOne d => Sys2Proof.Machine.execAbortOne d s
  | .abortContext d => Sys2Proof.Machine.execAbortContext d s
  | .completionRecordWrite cring => Sys2Proof.Machine.execCompletionRecordWrite cring s
  | .coalesceTimeout cring => Sys2Proof.Machine.execCoalesceTimeout cring s
  | .kernelStart d plan => Sys2Proof.Machine.execKernelStart d plan s
  | .kernelEnd ctx => Sys2Proof.Machine.execKernelEnd ctx s
  | .pisteHead cluster ctx firstOk => Sys2Proof.Machine.execPisteHead cluster ctx firstOk s
  | .pisteNop core st => Sys2Proof.Machine.execPisteNop core st s
  | .pisteEnd core st => Sys2Proof.Machine.execPisteEnd core st s
  | .pisteLoop cluster ctx st => Sys2Proof.Machine.execPisteLoop cluster ctx st s
  | .pisteSkein cluster ctx st => Sys2Proof.Machine.execPisteSkein cluster ctx st s
  | .skeinStart core slot => Sys2Proof.Machine.execSkeinStart core slot s
  | .skeinDispatch core => Sys2Proof.Machine.execSkeinDispatch core s
  | .skeinFinish core slot => Sys2Proof.Machine.execSkeinFinish core slot s
  | .pass core st => Sys2Proof.Machine.execPass core st s
  | .swap core st => Sys2Proof.Machine.execSwap core st s
  | .shload core st => Sys2Proof.Machine.execShload core st s
  | .tclr core st => Sys2Proof.Machine.execTclr core st s
  | .mvec core st => Sys2Proof.Machine.execMvec core st s
  | .mvmat core st => Sys2Proof.Machine.execMvmat core st s
  | .sfu core st => Sys2Proof.Machine.execSfu core st s
  | .epi core st => Sys2Proof.Machine.execEpi core st s
  | .dmain core st => Sys2Proof.Machine.execDmain core st s
  | .dmaout core st => Sys2Proof.Machine.execDmaout core st s
  | .semw core st => Sys2Proof.Machine.execSemw core st s
  | .semp core st => Sys2Proof.Machine.execSemp core st s
  | .semaphorePostArrive core => Sys2Proof.Machine.execSemaphorePostArrive core s
  | .rtake core st => Sys2Proof.Machine.execRtake core st s
  | .rrel core st => Sys2Proof.Machine.execRrel core st s
  | .wopen core st => Sys2Proof.Machine.execWopen core st s
  | .wclose core st => Sys2Proof.Machine.execWclose core st s
  | .teardownDrained ctx => Sys2Proof.Machine.execTeardownDrained ctx s
  | .holdTimeout core => Sys2Proof.Machine.execHoldTimeout core s
  | .dmaRequestIssue req => Sys2Proof.Machine.execDmaRequestIssue req s
  | .rangeFaultRecord part => Sys2Proof.Machine.execRangeFaultRecord part s
  | .regulatorRefill part => Sys2Proof.Machine.execRegulatorRefill part s
  | .fabricReadBeat port tag => Sys2Proof.Machine.execFabricReadBeat port tag s
  | .fabricWriteOk port tag => Sys2Proof.Machine.execFabricWriteOk port tag s
  | .fabricPoison port tag => Sys2Proof.Machine.execFabricPoison port tag s
  | .fabricDecode port tag => Sys2Proof.Machine.execFabricDecode port tag s
  | .fabricAbort port tag => Sys2Proof.Machine.execFabricAbort port tag s
  | .fenceOk port tag => Sys2Proof.Machine.execFenceOk port tag s
  | .creditReturn port chan n => Sys2Proof.Machine.execCreditReturn port chan n s
  | .requestTimeout port tag => Sys2Proof.Machine.execRequestTimeout port tag s
  | .loomWriteAck core => Sys2Proof.Machine.execLoomWriteAck core s
  | .remoteWriteArrive acc rows => Sys2Proof.Machine.execRemoteWriteArrive acc rows s
  | .remoteReadArrive acc nrows => Sys2Proof.Machine.execRemoteReadArrive acc nrows s
  | .ssRequest acc row => Sys2Proof.Machine.execSsRequest acc row s
  | .eccWriteback place idle => Sys2Proof.Machine.execEccWriteback place idle s
  | .ssScrubTick found => Sys2Proof.Machine.execSsScrubTick found s
  | .areaClearDone core ctx => Sys2Proof.Machine.execAreaClearDone core ctx s
  | .bankClassClearDone core bank => Sys2Proof.Machine.execBankClassClearDone core bank s
  | .bankIsolate core bank => Sys2Proof.Machine.execBankIsolate core bank s
  | .bankOff core bank => Sys2Proof.Machine.execBankOff core bank s
  | .bankWakeDone core bank => Sys2Proof.Machine.execBankWakeDone core bank s
  | .bankClearDone core bank => Sys2Proof.Machine.execBankClearDone core bank s
  | .watchdogExpiry ccore e => Sys2Proof.Machine.execWatchdogExpiry ccore e s
  | .controlCoreTakeback ctx => Sys2Proof.Machine.execControlCoreTakeback ctx s
  | .budgetExpiry t => Sys2Proof.Machine.execBudgetExpiry t s
  | .turnEnd t overrun => Sys2Proof.Machine.execTurnEnd t overrun s
  | .mirrorSweep r => Sys2Proof.Machine.execMirrorSweep r s
  | .pllRelockDone cluster => Sys2Proof.Machine.execPllRelockDone cluster s
  | .powerGood cluster => Sys2Proof.Machine.execPowerGood cluster s
  | .clusterP2Entry cluster => Sys2Proof.Machine.execClusterP2Entry cluster s
  | .clusterRampStart cluster => Sys2Proof.Machine.execClusterRampStart cluster s
  | .clusterWakeDone cluster => Sys2Proof.Machine.execClusterWakeDone cluster s
  | .thermalSample sensor raw => Sys2Proof.Machine.execThermalSample sensor raw s
  | .throttleStep cluster => Sys2Proof.Machine.execThrottleStep cluster s
  | .demandReport halfAmps => Sys2Proof.Machine.execDemandReport halfAmps s
  | .ztVerSelWrite value => Sys2Proof.Machine.execZtVerSelWrite value s
  | .ztRangeTblBaseWrite init upper => Sys2Proof.Machine.execZtRangeTblBaseWrite init upper s
  | .partitionEnable n value => Sys2Proof.Machine.execPartitionEnable n value s
  | .partitionDisable n value => Sys2Proof.Machine.execPartitionDisable n value s
  | .contextEnable n value => Sys2Proof.Machine.execContextEnable n value s
  | .contextDisable n value => Sys2Proof.Machine.execContextDisable n value s
  | .submissionRingEnable n value => Sys2Proof.Machine.execSubmissionRingEnable n value s
  | .submissionRingDisable n value => Sys2Proof.Machine.execSubmissionRingDisable n value s
  | .completionRingEnable n value => Sys2Proof.Machine.execCompletionRingEnable n value s
  | .completionRingDisable n value => Sys2Proof.Machine.execCompletionRingDisable n value s
  | .ztCoreFlagsClear core value raised => Sys2Proof.Machine.execZtCoreFlagsClear core value raised s
  | .ztClkReqWrite cluster value => Sys2Proof.Machine.execZtClkReqWrite cluster value s
  | .ztPwrFlimWrite cluster value => Sys2Proof.Machine.execZtPwrFlimWrite cluster value s
  | .pwrCmdBlockReset key => Sys2Proof.Machine.execPwrCmdBlockReset key s
  | .pwrCmdEnterP3 key => Sys2Proof.Machine.execPwrCmdEnterP3 key s
  | .clusterP0Request cluster => Sys2Proof.Machine.execClusterP0Request cluster s
  | .clusterP1Request cluster => Sys2Proof.Machine.execClusterP1Request cluster s
  | .clusterP2Request cluster => Sys2Proof.Machine.execClusterP2Request cluster s
  | .ztTelThrottleWrite value => Sys2Proof.Machine.execZtTelThrottleWrite value s
  | .spiRead len => Sys2Proof.Machine.execSpiRead len s
  | .spiProgram len => Sys2Proof.Machine.execSpiProgram len s
  | .spiErase4k => Sys2Proof.Machine.execSpiErase4k s
  | .spiErase64k => Sys2Proof.Machine.execSpiErase64k s
  | .spiReadSfdp len => Sys2Proof.Machine.execSpiReadSfdp len s
  | .spiOpDone deviceError => Sys2Proof.Machine.execSpiOpDone deviceError s
  | .errLogEntryLatch init entry => Sys2Proof.Machine.execErrLogEntryLatch init entry s
  | .regPairLowerRead init offset => Sys2Proof.Machine.execRegPairLowerRead init offset s
  | .regPairLowerWrite init offset value => Sys2Proof.Machine.execRegPairLowerWrite init offset value s
  | .regWrite init offset size value => Sys2Proof.Machine.execRegWrite init offset size value s
  | .tapIdcode => Sys2Proof.Machine.execTapIdcode s
  | .tapBypass bit => Sys2Proof.Machine.execTapBypass bit s
  | .tapRegisterBridge isWrite offset value => Sys2Proof.Machine.execTapRegisterBridge isWrite offset value s
  | .tapSramSelftest run faults => Sys2Proof.Machine.execTapSramSelftest run faults s
  | .tapSpiDirect isWrite addr data => Sys2Proof.Machine.execTapSpiDirect isWrite addr data s
  | .fabricLinkUp port req wdat rsp => Sys2Proof.Machine.execFabricLinkUp port req wdat rsp s
  | .registerPortReady => Sys2Proof.Machine.execRegisterPortReady s
  | .mailboxStatusReady => Sys2Proof.Machine.execMailboxStatusReady s

end Sys2Proof.Machine
end

