-- ==== Sys2Proof/Safety.lean ====
section
/-!
DEFINITION. What every step keeps, in the terms the statements use: the canonical form of the memories, and what no command may change.
-/

namespace Sys2Proof.Machine

/-- Memory outside the block and the Sequence Store are in canonical form. -/
def State.MemOk (s : State) : Prop := Memory.wf blankByte s.mem = true ∧ Memory.wf blankByte s.ss = true

/-- Both memories of a store are in canonical form. -/
def Store.Ok (m : Store) : Prop := Memory.wf blankByte m.mem = true ∧ Memory.wf blankByte m.ss = true

/-- The store a descriptor's work leaves, where it leaves one, is in canonical form. -/
def Work.Ok : Work → Prop
  | .done _ _ _ m => m.Ok
  | _ => True

/-- A state with a given queue whose part is the one manufacture fixed (R1, R24, R535), its memories in canonical form. -/
def State.Good (q : List Instr) (p : Part) (s : State) : Prop := s.pending = q ∧ s.mgmt.part = p ∧ s.MemOk

end Sys2Proof.Machine
end

