-- ==== Sys2Proof/Certificates/Slice0/Obligations.lean ====
section
/-!
DEFINITION. The statements about the ZS1 engine: for every command where it completes and with what state, the rules of
the spec that say what a command or the engine does, and what every step keeps.
-/

open Sys2Proof Sys2Proof.Machine

/-! ### The block as a whole -/

/-- A step performs the command at the front of the queue on the state with the queue's rest; on an empty queue CLK_CTL
counts (the model's choice, log 1). -/
def Obligations.StepRunsFrontCommand : Prop :=
  (∀ (c : Instr) (q : List Instr) (s : State), step { s with pending := c :: q } = exec c { s with pending := q })
    ∧ ∀ s : State, s.pending = [] → step s = .next { s with clkCtl := s.clkCtl + 1 }

/-- Every command of every state completes, but the five that read or write a ring's memory, which complete or stop where no
such address exists (log 18); no command is refused. -/
def Obligations.EveryCommandCompletesOrFaultsOnAddress : Prop :=
  ∀ (i : Instr) (s : State),
    match i with
    | .completionRecordWrite _ | .prodReadReturn _ | .descFetch _ | .rangeFaultRecord _ | .teardownDrained _ =>
      (∃ t, exec i s = .next t) ∨ exec i s = .fault .addressSpace
    | _ => ∃ t, exec i s = .next t

/-- Every step, from any state whose memories are in canonical form, leaves them so, takes one command off the queue and
leaves the part that manufacture fixed (R1, R24). -/
def Obligations.StepKeepsCanonicalMemoriesAndPart : Prop :=
  ∀ s t : State, s.MemOk → step s = .next t → t.MemOk ∧ t.mgmt.part = s.mgmt.part ∧ t.pending = s.pending.tail

/-- The reset state has canonical memories and an empty queue. -/
def Obligations.ResetMeetsInvariant : Prop :=
  State.reset.MemOk ∧ State.reset.pending = []

/-- What reset leaves, as the register map gives it: the phase is RESET and ZT_PWR_STATE shows it, no version is selected, no
partition, context or ring is enabled, FREQ of the requested and of the running frequency is 20, MBXLIM and THLIM are 24,
every cluster is in P0, and the core, collective and error flags are clear. -/
def Obligations.ResetLeavesMappedValues : Prop :=
  let s := State.reset
  s.mgmt.phase = .reset ∧ s.mgmt.power = .on ∧ s.mgmt.cause = 0 ∧ s.mgmt.fatal = false ∧ s.verSel = 0 ∧ s.rangeBase = 0
    ∧ (∀ n, (s.part n).enable = false) ∧ (∀ n, (s.ctx n).enable = false) ∧ (∀ n, (s.sub n).enable = false)
    ∧ (∀ n, (s.comp n).enable = false)
    ∧ (∀ n, (s.cluster n).req = 20 ∧ (s.cluster n).cur = 20 ∧ (s.cluster n).mbxLim = 24 ∧ (s.cluster n).thermMhz = 600 + 25 * 24
        ∧ (s.cluster n).pwrReq = 0 ∧ (s.cluster n).pwr = .p0)
    ∧ (∀ n, (s.core n).aflags = 0 ∧ (s.core n).sflags = 0) ∧ s.collFlags = 0 ∧ s.ssCecc = 0
    ∧ (∀ h, (s.range h).st = .invalid ∧ (s.range h).gen = 0) ∧ (∀ n, (s.sensor n).valid = false ∧ (s.sensor n).temp = 0)
    ∧ s.mgmt.spiBusy = false ∧ s.mgmt.spiDone = false ∧ s.log.head = 0

/-! ### Start-up, the mailbox and power -/

/-- The three ways of starting. Everything is as after reset but what lies outside the block: memory (where a write that was
in flight may be cut), the part, the serial memory (where an operation in progress may be cut) and what the mailbox has said;
the log survives a block reset alone. -/
def Obligations.StartsClearAllButTheLog : Prop :=
  ∀ (s : State) (key : BitVec 16),
    let after := fun (log : ErrLog) (power : BlockPower) (s : State) => ({ State.reset with
      pending := s.pending, mem := s.cutOuts.cutSpi.mem, free := s.cutOuts.cutSpi.free, log := log,
      mgmt := { Mgmt.reset with part := s.mgmt.part, power := power, flash := s.cutOuts.cutSpi.mgmt.flash, sfdp := s.mgmt.sfdp,
                                mbxOut := s.mgmt.mbxOut, mbxReports := s.mgmt.mbxReports } } : State)
    let kept := { s.log with repeats := [], weakAt := [] }
    exec .powerOn s = .next (after ErrLog.reset .on s)
      ∧ (s.mgmt.power = .on → exec .blockReset s = .next (after kept .on s))
      ∧ (s.mgmt.power = .p3 → exec .wakeFromP3 s = .next (after ErrLog.reset .on s))
      ∧ (s.mgmt.power = .p3 → exec .mbxWake s = .next (after ErrLog.reset .on s))
      ∧ (s.portOk = true → key = 0x5A31 → exec (.pwrCmdBlockReset key) s = .next (after kept .on s))
      ∧ (s.portOk = true → key = 0x5A31 → s.quiet = true → exec (.pwrCmdEnterP3 key) s = .next (after ErrLog.reset .p3 s))
      ∧ (s.mgmt.power = .on → s.mgmt.mbxReady = true → s.mgmt.phase = .ready →
          exec .mbxReset s = .next (after kept .on (s.mbxSay .done))
            ∧ (s.quiet = true → exec .mbxP3 s = .next (after ErrLog.reset .p3 (s.mbxSay .done)))
            ∧ exec .mbxP3Force s = .next (after ErrLog.reset .p3 (s.mbxSay .done)))

/-- The phases of start-up in their order, each begun by the end of the one above it. The self-tests of start-up: without
faults the phases go on; an unrepaired fault of a cluster takes it out of the enabled mask, one of shared memory stops
start-up, and a seed table that fails twice puts its function in recovery. -/
def Obligations.StartUpPhasesAndSelfTests : Prop :=
  (∀ (s : State), s.mgmt.power = .on →
     let fail := fun (cause : Nat) (s : State) =>
       ({ s with mgmt := { s.mgmt with phase := .startFail, cause := cause } } : State).logEvent 0x14 3 0xFF 0 cause
     let enter := fun (p : Phase) (s : State) => ({ s with mgmt := { s.mgmt with phase := p } } : State)
     (s.mgmt.phase = .reset → exec (.startupPllLock true) s = .next (enter .sfdp s)
         ∧ exec (.startupPllLock false) s = .next (fail 1 s))
       ∧ (s.mgmt.phase = .sfdp → ∀ f : SfdpFound,
           exec (.sfdpDiscoveryDone f) s =
             .next (if f.readable ∧ 28 ≤ f.logBits ∧ f.fast144 ∧ 25 ≤ f.maxMhz then
                 { s with mgmt := { s.mgmt with
                     phase := .factory, spiLogBits := f.logBits,
                     spiMhz := if 100 ≤ f.maxMhz then 100 else if 50 ≤ f.maxMhz then 50 else 25 } }
               else fail 2 s))
       ∧ (s.mgmt.phase = .factory → ∀ h es, s.recordAt 0 1 (2 ^ 20 - 32) 8 = some (h, es) → fieldOf h 4 4 = 0 →
           ∃ cal map, exec .factoryRecordRead s = .next { s with mgmt := { s.mgmt with
             phase := .records, minver := fieldOf h 12 4, calFactory := cal, repairMap := map } })
       ∧ (s.mgmt.phase = .factory → s.recordAt 0 1 (2 ^ 20 - 32) 8 = none → exec .factoryRecordRead s = .next (fail 3 s))
       ∧ (s.mgmt.phase = .records → ∃ t, exec .userRecordsRead s = .next t ∧ t.mgmt.phase = .calib ∧ t.mgmt.tried = []
           ∧ t.mgmt.choice = some (if s.imageVersion 0 < s.imageVersion 1 then 1 else 0))
       ∧ (s.mgmt.phase = .calib → ∃ t, exec .calibrationApplied s = .next t ∧ t.mgmt.phase = .selftest
           ∧ t.mgmt.calPoint = (s.mgmt.effective 5 0).getD 800 ∧ t.mgmt.point = (s.mgmt.effective 5 0).getD 800)
       ∧ (s.mgmt.phase = .fwsig → ∀ i, s.mgmt.choice = some i → s.imageHeaderOk i = true →
           exec (.fwsigCheckDone true) s = .next (enter .fwread s))
       ∧ (s.mgmt.phase = .fwread → ∀ i, s.mgmt.choice = some i → exec (.fwreadDone true) s = .next (enter .fwload s))
       ∧ (s.mgmt.phase = .fwload → exec .fwloadReady s =
           .next { s with mgmt := { s.mgmt with phase := .ready, image := s.mgmt.choice.getD 0 } }))
    ∧ (∀ (s : State), s.mgmt.power = .on →
         (s.mgmt.phase = .selftest → (s.ccore 0).inService = true → s.mgmt.part.fused ≠ 0 →
             exec (.sramSelftestDone { clusters := [], ccores := [], shared := false }) s =
               .next { s with mgmt := { s.mgmt with clmask := s.mgmt.part.fused, phase := .sfucheck } })
           ∧ (s.mgmt.phase = .selftest → (s.ccore 0).inService = true → ∀ n core row : Nat,
               s.mgmt.part.fused &&& ~~~(1#8 <<< n) ≠ 0 →
               ∃ t, exec (.sramSelftestDone { clusters := [(n, core, row)], ccores := [], shared := false }) s = .next t
                 ∧ t.mgmt.phase = .sfucheck ∧ t.mgmt.clmask = s.mgmt.part.fused &&& ~~~(1#8 <<< n))
           ∧ (s.mgmt.phase = .selftest → (s.ccore 0).inService = true →
               ∃ t, exec (.sramSelftestDone { clusters := [], ccores := [], shared := true }) s = .next t
                 ∧ t.mgmt.phase = .startFail ∧ t.mgmt.cause = 5)
           ∧ (s.mgmt.phase = .sfucheck → s.mgmt.clmask ≠ 0 → exec (.sfuSeedCheckDone [] []) s =
               .next { s with mgmt := { s.mgmt with phase := .fwsig } })
           ∧ (s.mgmt.phase = .sfucheck → s.mgmt.clmask ≠ 0 → ∀ core fn : Nat, s.clusterOn (core / 4) = true →
               ∃ t, exec (.sfuSeedCheckDone [(core, fn)] []) s = .next t ∧ t.mgmt.phase = .fwsig
                 ∧ t.cores = (s.setCore core { s.core core with
                     seeds := putAt SeedTab.reset (s.core core).seeds fn
                       { getAt SeedTab.reset (s.core core).seeds fn with recovery := true } }).cores))

/-- The mailbox before and after READY, and the two readiness marks of the register port and the mailbox. The loss of a
memory stack is the declared fatal state with cause 8, logged and reported; that of shared state without a retained copy is
the declared fatal state with cause 10. -/
def Obligations.MailboxAndStackLoss : Prop :=
  (∀ (s : State), s.mgmt.power = .on →
     let say := fun (r : MbxReply) (s : State) => ({ s with mgmt := { s.mgmt with mbxOut := s.mgmt.mbxOut ++ [r] } } : State)
     exec .registerPortReady s = .next { s with mgmt := { s.mgmt with portReady := true } }
       ∧ exec .mailboxStatusReady s = .next { s with mgmt := { s.mgmt with mbxReady := true } }
       ∧ (s.mgmt.mbxReady = true →
           exec .mbxStatusRequest s = .next (say (.status s.mgmt.phase s.mgmt.cause) s)
             ∧ (s.mgmt.phase = .ready → ∀ n code, n < 8 → code ≤ 24 →
                 exec (.mbxFreqLimit n code) s = .next (say .done (s.setCluster n { s.cluster n with mbxLim := code })))
             ∧ (s.mgmt.phase = .ready → s.quiet = false → exec .mbxP3 s = .next (say .busy s))
             ∧ (s.mgmt.phase ≠ .ready → ∀ n code,
                 exec (.mbxFreqLimit n code) s = .next (say .busy s) ∧ exec .mbxReset s = .next (say .busy s)
                   ∧ exec .mbxP3 s = .next (say .busy s) ∧ exec .mbxP3Force s = .next (say .busy s))))
    ∧ (∀ (s : State) (loss : SharedLoss), s.mgmt.power = .on → s.mgmt.fatal = false →
         ∃ t, exec (.memoryStackLost loss) s = .next t ∧ t.mgmt.fatal = true ∧ t.serving = false
           ∧ (∀ stack : Nat, loss = .stack stack → t.mgmt.cause = 8
               ∧ t.mgmt.mbxReports = s.mgmt.mbxReports ++ [256 * 0x12 + stack % 256, 256 * 0x14 + 8])
           ∧ (loss = .tagTable ∨ loss = .credits ∨ loss = .loomRouting → t.mgmt.cause = 10
               ∧ t.mgmt.mbxReports = s.mgmt.mbxReports ++ [256 * 0x14 + 10])
           ∧ t = { s with log := t.log, mgmt := { s.mgmt with fatal := true, cause := t.mgmt.cause, mbxReports := t.mgmt.mbxReports } })

/-- A cluster's change of frequency: a completed relock or power-good switches to the code it was for and takes up a new
target, but where the cluster is fused off, whose clock is stopped; a write through either offset of the request stores the
code, and one above 24 is ignored and logged. A change begins toward the lowest of the four limits, downward by a relock and
upward through power-good, and only when none is in progress. -/
def Obligations.ClusterFrequencyFollowsItsLimits : Prop :=
  (∀ (s : State) (n : Nat) (k : Nat) (v : Word),
     (s.mgmt.part.fused.getLsbD n = true →
         ((s.cluster n).change = .relock k → exec (.pllRelockDone n) s =
             .next (s.setCluster n ({ s.cluster n with cur := k, change := .none } : Cluster).startChange))
           ∧ ((s.cluster n).change = .awaitPower k → exec (.powerGood n) s =
               .next (s.setCluster n ({ s.cluster n with cur := k, change := .none } : Cluster).startChange)))
       ∧ (s.mgmt.part.fused.getLsbD n = false → exec (.pllRelockDone n) s = .next s ∧ exec (.powerGood n) s = .next s)
       ∧ (s.portOk = true → n < 8 →
           exec (.ztPwrFlimWrite n v) s = .next (if v.toNat % 32 ≤ 24 then
               s.setCluster n { s.cluster n with req := v.toNat % 32 } else s.cfgIgnored (0xD80 + 4 * n))
             ∧ (s.mgmt.phase = .ready → exec (.ztClkReqWrite n v) s = .next (if v.toNat % 32 ≤ 24 then
                 s.setCluster n { s.cluster n with req := v.toNat % 32 } else s.cfgIgnored (0xC00 + 8 * n)))
             ∧ (s.mgmt.phase ≠ .ready → exec (.ztClkReqWrite n v) s = .next (s.cfgIgnored (0xC00 + 8 * n)))))
    ∧ (∀ c : Cluster,
         let goal := min (min c.appReq c.appMbx) (min ((c.ceilMhz - 600) / 25) ((c.thermMhz - 600) / 25))
         c.startChange =
           if c.change ≠ .none then c
           else if goal < c.cur then { c with change := .relock goal }
           else if c.cur < goal then { c with change := .awaitPower goal }
           else c)

/-- Cluster power states: P1 and P0 requests (a cluster in P2 begins to wake), a P2 request (refused and logged while an
enabled context names the cluster), entry once every bank has drained, one ramp at a time 20 µs apart, and the end of a wake. -/
def Obligations.ClusterPowerStates : Prop :=
  ∀ (s : State) (n : Nat),
    let c := s.cluster n
    (s.portOk = true → n < 8 → s.clusterOn n = true →
        (c.pwr ≠ .p2 → c.entering = false →
          exec (.clusterP0Request n) s = .next (s.setCluster n { c with pwrReq := 0 })
            ∧ exec (.clusterP1Request n) s = .next (s.setCluster n { c with pwrReq := 1 })
            ∧ (s.clusterNamed n = false → exec (.clusterP2Request n) s =
                .next (s.setCluster n { c with pwrReq := 2, pwr := .changing, entering := true })))
          ∧ (c.pwr = .p2 →
              exec (.clusterP0Request n) s = .next (s.setCluster n { c with pwrReq := 0, pwr := .changing })
                ∧ exec (.clusterP1Request n) s = .next (s.setCluster n { c with pwrReq := 1, pwr := .changing }))
          ∧ (s.clusterNamed n = true → exec (.clusterP2Request n) s = .next (s.cfgIgnored (0xD40 + 4 * n))))
      ∧ (c.entering = true → c.ramping = false → s.clusterDrained n = true → ∃ t, exec (.clusterP2Entry n) s = .next t
          ∧ t = ({ s with cores := t.cores, piste := t.piste } : State).setCluster n
              { c with entering := false, wakeAfter := false, pwr := if c.wakeAfter then .changing else .p2 })
      ∧ (c.pwr = .changing → c.entering = false → c.ramping = false → (∀ t, s.mgmt.lastRamp = some t → t + 20000 ≤ s.clkCtl) →
          ∃ t, exec (.clusterRampStart n) s = .next t ∧ t.mgmt.lastRamp = some s.clkCtl
            ∧ t = { s.setCluster n { c with ramping := true } with mgmt := t.mgmt }
            ∧ t.mgmt.clusters = putAt Cluster.reset s.mgmt.clusters n { c with ramping := true })
      ∧ (∀ t, s.mgmt.lastRamp = some t → s.clkCtl < t + 20000 → exec (.clusterRampStart n) s = .next s)
      ∧ (c.ramping = true → c.entering = false → exec (.clusterWakeDone n) s = .next (s.setCluster n { c with ramping := false, pwr := .p0 }))

/-- A write of the throttle point stores the lower of the written and the effective calibrated value, never raising it; the
trip point follows it, the next throttle decision uses it, and the two writes of the rule's example read back as it says. -/
def Obligations.ThrottlePointIsNeverRaised : Prop :=
  ∀ (s : State) (v : Word), s.portOk = true → ∃ t, exec (.ztTelThrottleWrite v) s = .next t
    ∧ t.mgmt.point = min (signedOf v.toNat 16) s.mgmt.calPoint ∧ t.mgmt.point ≤ s.mgmt.calPoint
    ∧ t.regRead 0x0EC0 = wrapOf t.mgmt.point 16 ∧ t.regRead 0x0EC4 = wrapOf (t.mgmt.point + 120) 16
    ∧ t = { s with mgmt := { s.mgmt with point := t.mgmt.point } }
    ∧ (∀ n : Nat, n < 8 → ∀ x ∈ s.temps n, min (signedOf v.toNat 16) s.mgmt.calPoint < x →
        let c : Cluster := { t.cluster n with thermMhz := max 600 ((t.cluster n).thermMhz - 50) }
        exec (.throttleStep n) t = .next (t.setCluster n (if s.mgmt.part.fused.getLsbD n then c.startChange else c)))
    ∧ (s.mgmt.calPoint = 0x02F8 → v = 0x0320 → t.regRead 0x0EC0 = 0x02F8)
    ∧ (s.mgmt.calPoint = 0x02F8 → v = 0x02D0 → t.regRead 0x0EC0 = 0x02D0 ∧ t.regRead 0x0EC4 = 0x0348)

/-- Temperature samples, the thermal limit (a cluster fused off begins no change) and demand reports; a trip enters P3 with
cause 7. -/
def Obligations.TemperatureThrottlesAndTrips : Prop :=
  ∀ (s : State), s.mgmt.power = .on →
    (∀ (n : Nat) (raw : BitVec 16), n < 40 →
        let temp := raw + BitVec.ofInt 16 ((s.mgmt.effective 3 n).getD 0)
        let u := ({ s with mgmt := { s.mgmt with sensors := putAt Sensor.reset s.mgmt.sensors n { temp := temp, valid := true } } } : State)
        (temp.toInt < s.mgmt.point + 120 → exec (.thermalSample n raw) s = .next u)
          ∧ (s.mgmt.point + 120 ≤ temp.toInt → ∃ t, exec (.thermalSample n raw) s = .next t ∧ t.mgmt.power = .p3 ∧ t.mgmt.cause = 7
              ∧ t.mgmt.mbxReports = s.mgmt.mbxReports ++ [256 * 0x14 + 7] ∧ t.descs = [] ∧ t.cores = []))
      ∧ (∀ n : Nat, n < 8 → ∀ x ∈ s.temps n, s.mgmt.point < x →
          let c : Cluster := { s.cluster n with thermMhz := max 600 ((s.cluster n).thermMhz - 50) }
          exec (.throttleStep n) s = .next (s.setCluster n (if s.mgmt.part.fused.getLsbD n then c.startChange else c)))
      ∧ (∀ n : Nat, n < 8 → (∀ x ∈ s.temps n, x + 40 < s.mgmt.point) →
          (s.cluster n).thermMhz < min (min (600 + 25 * (s.cluster n).req) (600 + 25 * (s.cluster n).mbxLim)) (s.cluster n).ceilMhz →
          let c : Cluster := { s.cluster n with thermMhz := min 1200 ((s.cluster n).thermMhz + 50) }
          exec (.throttleStep n) s = .next (s.setCluster n (if s.mgmt.part.fused.getLsbD n then c.startChange else c)))
      ∧ (∀ half : Nat, exec (.demandReport half) s =
          .next { s with mgmt := { s.mgmt with demand := half % 4096, early := decide (s.mgmt.demand + 40 < half % 4096) } })

/-! ### Set-up registers and the register port -/

/-- Enables and disables once the port answers and the engine is READY: an enable that its object allows is taken, and one
that it does not is ignored and logged, the fields kept either way. That a ring goes on at the index its header holds is the
model's reading of R277 and R479 (DEDUCED, log 3). Disables: a disable whose requirement is unmet is ignored, the object
stays enabled and the write is logged as CFG_IGNORED; otherwise the object reads disabled, a submission ring once the last of
its fetched descriptors has retired. The version is selected only while every ring is disabled; before READY a set-up write
is ignored and logged. -/
def Obligations.EnablesDisablesAndSetUpWrites : Prop :=
  (∀ (s : State) (n : Nat) (v : Word), s.portOk = true → s.mgmt.phase = .ready → v.getLsbD 0 = true →
     (n < 8 → (s.part n).enable = false →
         let p := { s.part n with admin := v.getLsbD 1, clusters := BitVec.ofNat 8 (bitsOf v.toNat 8 8), fl := bitsOf v.toNat 24 5 }
         exec (.partitionEnable n v) s = .next (if s.partOk n p then s.setPart n
             { p with enable := true, tokens := p.burst, faultProd := BitVec.ofNat 32 (leNat (s.memAt (p.fbase + 0) 4)) }
           else (s.setPart n p).cfgIgnored (0x100 + 64 * n)))
       ∧ (n < 32 → (s.ctx n).enable = false →
           let c := { s.ctx n with part := bitsOf v.toNat 4 3, clusters := BitVec.ofNat 8 (bitsOf v.toNat 8 8) }
           (s.ctxOk n c = true → ∃ t, exec (.contextEnable n v) s = .next t
               ∧ t = { s.setCtx n { c with enable := true, owner := s.healthyOwner n, budget := c.slice, turn := false, expired := false,
                                           uTurn := false, uExpired := false, uBudget := c.slice, reported := false, teardown := none } with mgmt := t.mgmt })
             ∧ (s.ctxOk n c = false → exec (.contextEnable n v) s = .next ((s.setCtx n c).cfgIgnored (0x400 + 16 * n))))
       ∧ (n < 64 → (s.sub n).enable = false →
           let r := { s.sub n with l := bitsOf v.toNat 4 5, ctx := bitsOf v.toNat 16 5, cring := bitsOf v.toNat 24 6 }
           let cons := BitVec.ofNat 32 (leNat (s.memAt (r.base + 64) 4))
           exec (.submissionRingEnable n v) s = .next (if s.subOk n r then
               (s.setSub n { r with enable := true, draining := false, halted := false, prod := cons, cons := cons }).beginWatch n
                 (.ring n)
             else (s.setSub n r).cfgIgnored (0x1008 + 32 * n)))
       ∧ (n < 64 → (s.comp n).enable = false →
           let r := { s.comp n with l := bitsOf v.toNat 4 5, part := bitsOf v.toNat 16 3 }
           exec (.completionRingEnable n v) s = .next (if s.compOk n r then
               s.setComp n { r with enable := true, prod := BitVec.ofNat 32 (leNat (s.memAt (r.base + 0) 4)) }
             else (s.setComp n r).cfgIgnored (0x1808 + 32 * n))))
    ∧ (∀ (s : State) (n : Nat) (v : Word), s.portOk = true → s.mgmt.phase = .ready → v.getLsbD 0 = false →
         (n < 8 → (s.part n).enable = true → exec (.partitionDisable n v) s =
             .next (if (s.ctxs.any (fun c => c.2.enable && c.2.part == n) || s.comps.any (fun c => c.2.enable && c.2.part == n)) = true then
               s.cfgIgnored (0x100 + 64 * n) else s.setPart n { s.part n with enable := false }))
           ∧ (n < 32 → (s.ctx n).enable = true →
               (s.subs.any (fun r => r.2.enable && r.2.ctx == n) = true →
                   exec (.contextDisable n v) s = .next (s.cfgIgnored (0x400 + 16 * n)))
                 ∧ (s.subs.any (fun r => r.2.enable && r.2.ctx == n) = false → (s.ctx n).stopped = false → (s.ctx n).turn = false →
                     (s.ctx n).uTurn = false →
                     exec (.contextDisable n v) s = .next ((s.releaseContext n).setCtx n
                       { s.ctx n with
                         enable := false, stopped := false, teardown := none, reported := false, turn := false, uTurn := false })))
           ∧ (n < 64 → (s.sub n).enable = true → exec (.submissionRingDisable n v) s =
               .next (((s.setSub n { s.sub n with draining := true }).endWatch n).drainRing n))
           ∧ (n < 64 → (s.comp n).enable = true → exec (.completionRingDisable n v) s =
               .next (if s.subs.any (fun q => q.2.enable && q.2.cring == n) = true then s.cfgIgnored (0x1808 + 32 * n)
                 else s.setComp n { s.comp n with enable := false })))
    ∧ (∀ (s : State) (v : Word), s.portOk = true →
         (s.mgmt.phase = .ready → v.toNat % 16 = 1 → s.subs.any (fun r => r.2.enable) = false → s.comps.any (fun r => r.2.enable) = false →
             exec (.ztVerSelWrite v) s = .next { s with verSel := 1 })
           ∧ (s.mgmt.phase = .ready → (s.subs.any (fun r => r.2.enable) = true ∨ s.comps.any (fun r => r.2.enable) = true) →
               exec (.ztVerSelWrite v) s = .next s)
           ∧ (s.mgmt.phase ≠ .ready →
               exec (.ztVerSelWrite v) s = .next (s.cfgIgnored 0x14)
                 ∧ (∀ n, n < 8 → v.getLsbD 0 = true → exec (.partitionEnable n v) s = .next (s.cfgIgnored (0x100 + 64 * n)))
                 ∧ (∀ n, n < 64 → v.getLsbD 0 = true → exec (.submissionRingEnable n v) s = .next (s.cfgIgnored (0x1008 + 32 * n)))))

/-- Only aligned 32-bit writes are performed: any other is ignored and logged as CFG_IGNORED, and so is nonzero data written
to a reserved offset. Once the engine is READY an aligned write takes effect as the register map says: a word register of an
object that is not enabled takes its fields, one of an enabled object is left and the write logged, a flag is cleared by a 1,
a counter is stored, a lower word of a pair is staged, an upper word takes the current lower word where none is staged, and a
register that has a command of its own is written by it. -/
def Obligations.OnlyAlignedWordWritesArePerformed : Prop :=
  (∀ (s : State) (init o size : Nat) (v : Word), s.portOk = true → o < 65536 →
    (size ≠ 4 ∨ o % 4 ≠ 0 → exec (.regWrite init o size v) s = .next (s.cfgIgnored o))
      ∧ (s.mgmt.phase = .ready → 0x4200 ≤ o → o % 4 = 0 →
          exec (.regWrite init o 4 v) s = .next (if v = 0 then s else s.cfgIgnored o))
      ∧ (s.mgmt.phase ≠ .ready → o < 0xC00 → o % 4 = 0 → exec (.regWrite init o 4 v) s = .next (s.cfgIgnored o))
      ∧ (s.mgmt.phase = .ready → ∀ m : Nat, m < 8 → exec (.regWrite init (0xC00 + 8 * m) 4 v) s = exec (.ztClkReqWrite m v) s))
    ∧ ∀ (s : State) (init : Nat) (v : Word), s.portOk = true → s.mgmt.phase = .ready →
        let w := fun (o : Nat) => exec (.regWrite init o 4 v) s
        let x := v.toNat
        (∀ n : Nat, n < 8 →
            let p := s.part n
            let c := s.cluster n
            w (0x100 + 64 * n) = exec (if v.getLsbD 0 then .partitionEnable n v else .partitionDisable n v) s
              ∧ (p.enable = false →
                  w (0x104 + 64 * n) = .next (s.setPart n { p with seqBase := x % 2 ^ 16, seqCntM1 := x / 2 ^ 16 })
                    ∧ w (0x108 + 64 * n) = .next (s.setPart n { p with hBase := x % 2 ^ 14, hCntM1 := x / 2 ^ 16 % 2 ^ 14 })
                    ∧ w (0x10C + 64 * n) = .next (s.setPart n { p with rate := x % 2 ^ 17 })
                    ∧ w (0x110 + 64 * n) = .next (s.setPart n { p with burst := x % 2 ^ 21 })
                    ∧ w (0x124 + 64 * n) = .next (s.setPart n { p with fdata := v }))
              ∧ (p.enable = true → ∀ o ∈ [0x104, 0x108, 0x10C, 0x110, 0x124], w (o + 64 * n) = .next (s.cfgIgnored (o + 64 * n)))
              ∧ w (0xD80 + 4 * n) = (if x % 32 ≤ 24 then .next (s.setCluster n { c with req := x % 32 })
                  else .next (s.cfgIgnored (0xD80 + 4 * n)))
              ∧ (x % 4 < 3 → w (0xD40 + 4 * n) = exec (if x % 4 = 0 then .clusterP0Request n
                  else if x % 4 = 1 then .clusterP1Request n else .clusterP2Request n) s))
          ∧ (∀ n : Nat, n < 32 →
              let c := s.ctx n
              w (0x400 + 16 * n) = exec (if v.getLsbD 0 then .contextEnable n v else .contextDisable n v) s
                ∧ w (0x404 + 16 * n) = .next (if c.enable then s.cfgIgnored (0x404 + 16 * n) else s.setCtx n { c with slice := x % 2 ^ 27 })
                ∧ w (0x800 + 16 * n) = exec (.ztCoreFlagsClear n v 0) s
                ∧ w (0x804 + 16 * n) = .next (if s.clusterOn (n / 4) then s.setCore n { s.core n with cecc := v } else s))
          ∧ (∀ n : Nat, n < 64 →
              let q := s.sub n
              let c := s.comp n
              w (0x1008 + 32 * n) = exec (if v.getLsbD 0 then .submissionRingEnable n v else .submissionRingDisable n v) s
                ∧ w (0x1808 + 32 * n) = exec (if v.getLsbD 0 then .completionRingEnable n v else .completionRingDisable n v) s
                ∧ (q.enable = false → s.port.staged = [] →
                    w (0x1004 + 32 * n) = .next (s.setSub n { q with base := bitsOf (q.base % 2 ^ 32 + x * 2 ^ 32) 12 45 * 4096 }))
                ∧ w (0x1814 + 32 * n) = .next (if c.enable then s.cfgIgnored (0x1814 + 32 * n) else s.setComp n { c with msgData := v })
                ∧ w (0x1818 + 32 * n) = .next (if c.enable then s.cfgIgnored (0x1818 + 32 * n)
                    else s.setComp n { c with coalCnt := x % 2 ^ 8, coalTime := x / 2 ^ 16 }))
          ∧ (∀ o : Nat, isLower o = true → s.blockLocked o = false → o < 0x800 ∨ 0xB00 ≤ o →
              w o = .next { s with port := { s.port with
                staged := s.port.staged.filter (fun p => p.1 != 65536 * init + o) ++ [(65536 * init + o, v)] } })
          ∧ w 0x14 = exec (.ztVerSelWrite v) s ∧ w 0x1C = exec (.ztRangeTblBaseWrite init v) s
          ∧ w 0x20 = .next { s with collFlags := s.collFlags &&& ~~~(v.setWidth 4) } ∧ w 0x24 = .next { s with ssCecc := v }
          ∧ w 0xEC0 = exec (.ztTelThrottleWrite v) s
          ∧ w 0xD00 = .next { s with mgmt := { s.mgmt with cmdref := s.mgmt.cmdref && !v.getLsbD 6 } }
          ∧ (x % 2 ^ 8 = 1 → w 0xD04 = exec (.pwrCmdBlockReset (BitVec.ofNat 16 (x / 2 ^ 16))) s)
          ∧ (x % 2 ^ 8 = 2 → w 0xD04 = exec (.pwrCmdEnterP3 (BitVec.ofNat 16 (x / 2 ^ 16))) s)

/-- A register pair: a lower word written is staged, and takes effect with the next write of the upper word by the same
initiator; an upper word alone takes the current lower word. Reads: a lower word's read gives it and latches the upper word
for the same initiator; word 0 of a log entry latches the entry. -/
def Obligations.PairsAreWrittenAndReadWhole : Prop :=
  (∀ (s : State) (init : Nat) (lo hi : Word), s.portOk = true → s.mgmt.phase = .ready →
     s.parts.any (fun p => p.2.enable) = false →
     exec (.regPairLowerWrite init 0x18 lo) s = .next { s with port := { s.port with
           staged := s.port.staged.filter (fun p => p.1 != 65536 * init + 0x18) ++ [(65536 * init + 0x18, lo)] } }
       ∧ (∀ t, exec (.regPairLowerWrite init 0x18 lo) s = .next t → exec (.ztRangeTblBaseWrite init hi) t =
           .next { s with rangeBase := bitsOf (lo.toNat + hi.toNat * 2 ^ 32) 12 45 * 4096,
                          port := { s.port with staged := s.port.staged.filter (fun p => p.1 != 65536 * init + 0x18) } })
       ∧ (s.port.staged = [] → exec (.ztRangeTblBaseWrite init hi) s =
           .next { s with rangeBase := bitsOf (s.rangeBase % 2 ^ 32 + hi.toNat * 2 ^ 32) 12 45 * 4096 }))
    ∧ (∀ (s : State) (init o entry : Nat), s.portOk = true →
         (isLower o = true → exec (.regPairLowerRead init o) s = .next { s with port := { s.port with
               regOut := BitVec.ofNat 32 (s.regRead o),
               shadow := s.port.shadow.filter (fun p => p.1 != 65536 * init + (o + 4))
                 ++ [(65536 * init + (o + 4), BitVec.ofNat 32 (s.regRead (o + 4)))] } })
           ∧ (entry < 256 → exec (.errLogEntryLatch init entry) s = .next { s with port := { s.port with
               regOut := BitVec.ofNat 32 (s.regRead (0x2000 + 32 * entry)),
               snap := putAt (256, []) s.port.snap init (entry, s.logEntryBytes entry) } }))

/-- A write of one to flags clears them, but a flag raised in the same cycle reads 1 afterwards. -/
def Obligations.FlagsRaisedWhileClearedStaySet : Prop :=
  ∀ (s : State) (core : Nat) (v raised : Word), core < 32 → s.portOk = true → s.mgmt.phase = .ready → s.clusterOn (core / 4) = true →
    let k := s.core core
    exec (.ztCoreFlagsClear core v raised) s = .next (s.setCore core
      { k with aflags := (k.aflags &&& ~~~(v.setWidth 4)) ||| raised.setWidth 4,
               sflags := (k.sflags &&& ~~~((v >>> 8).setWidth 4)) ||| (raised >>> 8).setWidth 4 })
      ∧ ((k.aflags &&& ~~~(v.setWidth 4)) ||| raised.setWidth 4) &&& raised.setWidth 4 = raised.setWidth 4

/-- The serial-memory commands: an operation that may start sets BUSY; one that touches the factory region, crosses a page or
is not aligned is refused, the first of them logged; while BUSY a start is ignored; the end clears BUSY and sets DONE. The
TAP: identity and bypass always, the register bridge and the self-test where a production part allows them, the direct path
to the serial memory in START_FAIL alone and never into the factory region. -/
def Obligations.SerialMemoryAndTap : Prop :=
  (∀ (s : State) (len : Nat), s.portOk = true → s.mgmt.phase = .ready → 1 ≤ len → len ≤ 256 →
     let a := s.mgmt.spiAddr.toNat
     let start := fun (op : SpiOp) (n : Nat) => ({ s with mgmt := { s.mgmt with spiBusy := true, spiErr := 0, spiOp := some (op, n) } } : State)
     let refused := ({ s with mgmt := { s.mgmt with spiDone := true, spiErr := 1 } } : State)
     let refuse := if a < 2 ^ 20 then refused.cfgIgnored 0x4000 else refused
     (s.mgmt.spiBusy = false →
         exec (.spiRead len) s = .next (start .read len) ∧ exec (.spiReadSfdp len) s = .next (start .readSfdp len)
           ∧ exec (.spiProgram len) s = .next (if a < 2 ^ 20 ∨ a / 256 ≠ (a + len - 1) / 256 then refuse else start .program len)
           ∧ exec .spiErase4k s = .next (if a < 2 ^ 20 ∨ a % 4096 ≠ 0 then refuse else start .erase4k 4096)
           ∧ exec .spiErase64k s = .next (if a < 2 ^ 20 ∨ a % 65536 ≠ 0 then refuse else start .erase64k 65536))
       ∧ (s.mgmt.spiBusy = true → exec (.spiRead len) s = .next (s.cfgIgnored 0x4000) ∧ exec .spiErase4k s = .next (s.cfgIgnored 0x4000))
       ∧ (s.mgmt.spiBusy = true → ∀ n, s.mgmt.spiOp = some (.read, n) → exec (.spiOpDone false) s =
           .next { s with mgmt := { s.mgmt with spiBusy := false, spiDone := true, spiOp := none, spiErr := 0,
                                                spiBuf := writeRun 0 s.mgmt.spiBuf 0 (s.flashAt a n) } })
       ∧ (s.mgmt.spiBusy = true → ∀ op n, s.mgmt.spiOp = some (op, n) → ∃ t, exec (.spiOpDone true) s = .next t
           ∧ t.mgmt.spiBusy = false ∧ t.mgmt.spiDone = true ∧ t.mgmt.spiErr = 2 ∧ t.mgmt.spiBuf = s.mgmt.spiBuf))
    ∧ (∀ (s : State) (b : Bool) (o : Nat) (v : Word) (f : SramFaults) (d : List Byte), s.mgmt.power = .on →
         let out := fun (n : Nat) => ({ s with port := { s.port with regOut := BitVec.ofNat 32 n } } : State)
         exec .tapIdcode s = .next (out s.zid) ∧ exec (.tapBypass b) s = .next (out b.toNat)
           ∧ (s.portOk = true → o < 65536 → o % 4 = 0 → s.tapOpen = false → tapAlways o = false →
               exec (.tapRegisterBridge false o v) s = .next (out 0) ∧ exec (.tapRegisterBridge true o v) s = .next s)
           ∧ (s.portOk = true → o < 65536 → o % 4 = 0 → s.tapOpen = true →
               exec (.tapRegisterBridge true o v) s = exec (.regWrite 1 o 4 v) s
                 ∧ (isUpper o = false → isLower o = false → o < 0x2000 ∨ 0x4000 ≤ o →
                     exec (.tapRegisterBridge false o v) s = .next (out (s.regRead o))))
           ∧ (s.tapOpen = true → exec (.tapSramSelftest true f) s =
               .next (out (if f.clusters = [] ∧ f.ccores = [] ∧ f.shared = false then 0 else 1))
                 ∧ exec (.tapSramSelftest false f) s = .next (out (fieldOf s.mgmt.repairMap 0 4)))
           ∧ (s.tapOpen = false → exec (.tapSramSelftest b f) s = .next (out 0))
           ∧ (s.mgmt.phase = .startFail → 2 ^ 20 ≤ o →
               exec (.tapSpiDirect false o d) s = .next (out (leNat (s.flashAt o 4)))
                 ∧ exec (.tapSpiDirect true o d) s = .next { s with mgmt := { s.mgmt with
                     flash := writeRun blankFlash s.mgmt.flash o (programBytes (s.flashAt o d.length) d) } })
           ∧ (s.mgmt.phase ≠ .startFail ∨ o < 2 ^ 20 → exec (.tapSpiDirect b o d) s = .next (out 0)))

/-- An event that repeats the latest entry's EVENT, UNIT, INDEX and WHERE within 2^20 cycles of the latest event merged into
it adds to its COUNT, saturating at 0xFFFF; any other is a new entry over the oldest of 256. -/
def Obligations.ErrorLogMergesRepeats : Prop :=
  ∀ (l : ErrLog) (now event cls unit index place ctx : Nat) (tag : Word),
    (l.head = 0 → (l.add now event cls unit index place ctx tag).head = 1)
      ∧ (∀ e, l.latest = some e → logMerges l e now event unit index place = true →
          l.add now event cls unit index place ctx tag =
            { l with entries := putAt LogEntry.reset l.entries ((l.head - 1) % 256) { e with count := min 0xFFFF (e.count + 1) },
                     lastMerge := now })
      ∧ (∀ e, l.latest = some e → logMerges l e now event unit index place = false →
          l.add now event cls unit index place ctx tag =
            { l with entries := putAt LogEntry.reset l.entries (l.head % 256)
                       { seq := BitVec.ofNat 32 l.head, event := event, cls := cls, unit := unit, index := index, place := place,
                         ctx := ctx, count := 1, tag := tag, time := now },
                     head := l.head + 1, lost := if 256 ≤ l.head then l.lost + 1 else l.lost, lastMerge := now })
      ∧ (∀ e, logMerges l e now event unit index place = true ↔ e.event = event ∧ e.unit = unit ∧ e.index = index
          ∧ e.place = place ∧ l.lastMerge ≤ now ∧ now - l.lastMerge ≤ 2 ^ 20)

/-! ### Descriptors and rings -/

/-- Of the statuses that apply to a descriptor, the first in the order of R466 is recorded. -/
def Obligations.FirstApplicableStatusIsRecorded : Prop :=
  let order := [0x7F, 0x70, 0x30, 0x20, 0x21, 0x22, 0x23, 0x24, 0x25, 0x10, 0x11, 0x03, 0x04, 0x01, 0x40, 0x41, 0x52, 0x51, 0x50,
    0x31, 0x02, 0x00]
  (∀ i j : Fin 22, mergeStatus (order.get i) (order.get j) = order.get (min i j))
    ∧ ∀ (s : State) (x : Desc) (st det : Nat), (x.quiet = false ∨ mergeStatus x.status st ≠ 0) →
        ∃ r : Rec, (s.retire x st det).comp (s.sub x.ring).cring = (s.comp (s.sub x.ring).cring).take r
          ∧ byteOf r.bytes 4 = mergeStatus x.status st % 256

/-- The retire point: the descriptor is gone, its record waits in its completion ring, of which up to 256 do (none where
QUIET suppresses it), and nothing else changes but what its going frees: its views, where it has any, are read no longer
(their sequences' entries are read into the cache and changed), LEAVING sequences may end, and a draining ring may be
disabled. -/
def Obligations.RetireQueuesOneRecordAndRemoves : Prop :=
  ∀ (s : State) (x : Desc) (st det : Nat),
    let t := s.retire x st det
    let m := mergeStatus x.status st
    let c := s.comp (s.sub x.ring).cring
    let r : Rec := { bytes := recordBytes x.tag m x.flags x.opcode x.ring x.index (x.field 2 2) (if m = st then det else x.detail) s.clkCtl
                       (if x.dequeued then s.clkCtl - x.tDeq else 0),
                     irq := x.irq || (m != 0 && m != 0x31), stamp := false, d := some x.did }
    t.desc? x.did = none
      ∧ t.comps = (if x.quiet = true ∧ m = 0 then s.comps
          else (s.setComp (s.sub x.ring).cring (if c.waiting.length < Config.maxWaiting then { c with waiting := c.waiting ++ [r] }
            else { c with held := c.held ++ [r] })).comps)
      ∧ t.descs = s.descs.filter (fun y => y.did != x.did) ∧ t.faults = s.faults.filter (fun f => f.d != some x.did)
      ∧ t = { s with comps := t.comps, descs := t.descs, faults := t.faults, seqs := t.seqs, seqDirty := t.seqDirty, subs := t.subs,
                     seqCache := t.seqCache, log := t.log, mem := t.mem, ss := t.ss, ssPoison := t.ssPoison, wback := t.wback }
      ∧ ((∀ y ∈ s.descs, y.did = x.did → y.views = []) →
          t = { s with comps := t.comps, descs := t.descs, faults := t.faults, seqs := t.seqs, subs := t.subs })

/-- A watch that is answered is in place under its tag, and its line is read; one that reports a hit or is lost is sent
again; the read takes PROD, and a distance beyond the ring's depth halts it. A WATCH goes at once where a tag and the port's
credits are free. A descriptor fetched: its 64 bytes are copied from the slot at CONS over the Bobbin path, CONS moves past
it in the engine and is written to memory, and a descriptor that its checks refuse retires BAD_DESC with the byte offset of
the first field refused. One whose read fails twice ends with the status of the error (the model's choice of its bytes: log
69). -/
def Obligations.WatchesAndFetch : Prop :=
  ((∀ (s : State) (n : Nat),
     let w := s.watch n
     (∀ p, s.watchOut n .watch = some p →
         let u := (s.setWatch n { w with armed := true, readDue := w.owner.isSome, tag := p.2 }).watchDone p
         let a := u.watchLine n
         exec (.watchArmed n) s = .next (if w.owner.isNone then u
           else u.ask { port := portOf a, op := .rd, addr := a, data := [], fenced := false, d := none, watch := some n }))
       ∧ (s.watchOut n .watch = none → exec (.watchArmed n) s = .next s)
       ∧ (w.owner.isSome = true → w.armed = true →
           exec (.watchHit n) s = .next ((s.setWatch n { w with armed := false }).sendWatch n)
             ∧ exec (.watchLost n) s = .next ((s.setWatch n { w with armed := false }).sendWatch n))
       ∧ (s.watchOut n .rd = none → exec (.prodReadReturn n) s = .next s)
       ∧ (∀ p, s.watchOut n .rd = some p → s.fetching n = true → s.subPastEnd n = false →
           let r := s.sub n
           let prod := BitVec.ofNat 32 (leNat (s.memAt r.base 4))
           let u := (s.watchDone p).readSeen n
           ((prod - r.cons).toNat ≤ 2 ^ r.l → exec (.prodReadReturn n) s = .next (u.setSub n { r with prod := prod, halted := false }))
             ∧ (2 ^ r.l < (prod - r.cons).toNat → r.halted = false → ∃ t, exec (.prodReadReturn n) s = .next t
                 ∧ t.comp r.cring = (s.comp r.cring).take
                     { bytes := recordBytes 0 0x03 0 0 n r.cons r.ctx 0 0 0, irq := true, stamp := true, d := none }
                 ∧ t = { u.setSub n { r with halted := true } with log := t.log, comps := t.comps })))
     ∧ ∀ (s : State) (r : SmallReq) (t : Nat), r.op = .watch → r.fenced = false → s.smalls = [] → s.mgmt.fatal = false →
         s.watchTag = some t → (s.fport r.port).up = true → 1 ≤ (s.fport r.port).req →
         s.ask r = s.setFport r.port ((s.fport r.port).send t (smallOut r)))
    ∧ (∀ (s : State) (n : Nat),
         let r := s.sub n
         let a := r.base + 128 + 64 * (r.cons.toNat % 2 ^ r.l)
         s.mayFetch n = true → s.bobReady a = true → s.subPastEnd n = false →
         let bs := s.memAt a 64
         let x : Desc := { Desc.reset with ring := n, index := r.cons, bytes := bs, ctx := r.ctx }
         let u := ((s.bobSpend a).setSub n { r with cons := r.cons + 1 }).bobWrite (portOf r.base) (r.base + 64)
           (natLe 4 (r.cons + 1).toNat) false none
         let v := ({ u with descs := u.descs ++ [x] } : State)
         let checks := headerChecks bs r.ctx v.verSel ++ v.opChecks r.ctx bs
         exec (.descFetch ⟨n, .clean⟩) s = .next (v.accept x)
           ∧ (∀ pos, firstFail checks = some pos → v.accept x = v.retire x 0x03 pos)
           ∧ (firstFail checks = none → byteOf bs 0 ≠ 0x7E → (v.resolveAll (v.partOf x) [] bs).status = none →
               v.accept x = v.setDesc { x with trans := (v.resolveAll (v.partOf x) [] bs).trans })
           ∧ (∀ b, a ≤ b → b < a + 64 →
               let y : Desc := { x with bytes := natLe 64 0 }
               exec (.descFetch ⟨n, .lasting (.poison b)⟩) s =
                 .next ((({ u with descs := u.descs ++ [y] } : State).readLost y (.poison b)).descFault y 0x30)))

/-- A descriptor dequeued in its ring's order runs with the next place in dequeue order, with its context's turn on the
control core where a class U command starts it; one whose references resolve keeps them and takes its views (their entries
are read into the cache and marked changed), any other retires. NOP completes OK, and a FENCE once every descriptor dequeued
before it in its scope has retired; while it has not, no later descriptor of its scope is dequeued. -/
def Obligations.DequeueAndFence : Prop :=
  (∀ (s : State) (n : Nat) (x : Desc), s.ready? n = some x → s.nextRing x.ctx = some n →
     let y : Desc := { x with st := .running, order := s.order + 1, tDeq := s.clkCtl, semKernel := s.semBound x }
     let u := (({ s with rr := putAt 0 s.rr x.ctx (x.ring + 1), order := s.order + 1 } : State).setDesc y).takeUnit y
     let z : Desc := { y with trans := (u.startRefs x).trans }
     (s.undequeued n).head? = some x
       ∧ exec (.descDequeue n) s = .next (match (u.startRefs x).status with
           | some (st, det) => u.retire y st det
           | none => (u.openDesc z).collTake z)
       ∧ ∀ z : Desc,
           let v := u.cacheSeqs ((u.takeViews z).views.map View.seq)
           let p := v.markClash (v.takeViews z)
           u.openDesc z = (p.2.setDesc p.1).dirtySeqs (p.1.views.map View.seq))
    ∧ ((∀ (s : State) (d : Did) (x : Desc), s.running? d [0x00] = some x → exec (.nop d) s = .next (s.retire x 0 0))
         ∧ (∀ (s : State) (d : Did) (x : Desc), s.running? d [0x60] = some x →
             ((∀ y ∈ s.descs, y.dequeued = true → y.order < x.order → s.fenceCovers x y.ring = false) →
                 exec (.fence d) s = .next (s.retire x 0 0))
               ∧ ((∃ y ∈ s.descs, y.dequeued = true ∧ y.order < x.order ∧ s.fenceCovers x y.ring = true) → exec (.fence d) s = .next s))
         ∧ ∀ (s : State) (n : Nat) (f : Desc), f ∈ s.descs → f.dequeued = true → f.opcode = 0x60 → s.fenceCovers f n = true →
             exec (.descDequeue n) s = .next s)

/-- An ABORT of one descriptor: a target not past its point of no abort retires ABORTED, and the ABORT with OK once no record
of it is ahead and its writes have drained; a target already retired gives ALREADY_DONE. In context mode every other
descriptor of the context is claimed. -/
def Obligations.AbortClaimsItsTargets : Prop :=
  ∀ (s : State) (d : Did) (x : Desc), s.desc? d = some x → x.st = .running → x.opcode = 0x7E → s.serving = true →
    (abortContext x.bytes = false →
        let g := abortTarget x.bytes
        (∀ y, g ≠ x.did → s.desc? g = some y → y.pastNoAbort = false →
            exec (.abortOne d) s = .next (((s.stopKernel y).cutDesc y).abortSettle x [g]))
          ∧ (g ≠ x.did → s.desc? g = none → s.loopOf g = none → s.recordPending g = false →
              s.abortMissing g = some (0x02, 0) → exec (.abortOne d) s = .next (s.retire x 0x02 0)))
      ∧ (abortContext x.bytes = true →
          let gs := s.ctxDids (abortCtx x.bytes) x.did
          exec (.abortContext d) s = .next ((gs.foldl State.stop s).abortSettle x gs)
            ∧ (gs = [] → exec (.abortContext d) s = .next (s.retire x 0 0)))

/-- A record is sent to its slot, then PROD past it behind a FENCE, then behind one the interrupt where its descriptor or its
status asks for one or the count is reached; each lands when its write is answered. A record waits for the writes of its
descriptor. The message of a completion ring: sent when COALTIME has passed since the first record not announced, it clears
the counts. -/
def Obligations.RecordsLandThenProdThenMessage : Prop :=
  (∀ (s : State) (n : Nat) (r : Rec) (rest : List Rec),
     let c := s.comp n
     c.waiting = r :: rest → n < 64 → s.serving = true → c.enable = true → ringRoom c.l c.prod (s.compCons n) = true →
     s.compPastEnd n = false →
     let slot := c.base + 128 + 32 * (c.prod.toNat % 2 ^ c.l)
     let told := r.irq || (decide (1 ≤ c.coalCnt) && decide (c.coalCnt ≤ c.landed + 1))
     let d : CompRing := { c with prod := c.prod + 1, waiting := rest ++ c.held.take 1, held := c.held.drop 1 }
     let u := ((s.setComp n { d with landed := c.landed + 1 }).bobWrite (portOf c.base) slot (s.recordNow r) false none).bobWrite
       (portOf c.base) c.base (natLe 4 (c.prod + 1).toNat) true none
     (s.recordReady r = true → ∃ t, exec (.completionRecordWrite n) s = .next t
         ∧ t = (if told then (u.bobWrite (portOf c.base) c.msgAddr (natLe 4 c.msgData.toNat) true none).setComp n { d with landed := 0 } else u)
         ∧ t.comp n = { d with landed := if told then 0 else c.landed + 1 }
         ∧ (∀ m, m ≠ n → t.comp m = s.comp m)
         ∧ t = { s with comps := t.comps, ports := t.ports, smalls := t.smalls })
       ∧ (s.recordReady r = false → exec (.completionRecordWrite n) s = .next s)
       ∧ (s.recordReady r = true ↔ ∀ e, r.d = some e → s.writesOut e = false))
    ∧ (∀ (s : State) (n : Nat),
         let c := s.comp n
         n < 64 → s.serving = true → c.enable = true → 1 ≤ c.coalTime → 1 ≤ c.landed →
         exec (.coalesceTimeout n) s =
           .next ((s.bobWrite (portOf c.base) c.msgAddr (natLe 4 c.msgData.toNat) true none).setComp n { c with landed := 0 }))

/-! ### Kernels, copies and Bolt as whole descriptors -/

/-- A kernel descriptor whose turn it is, no KERNEL_START having opened a kernel of its context: its clusters pass a kernel
boundary, its work is evaluated in the state after it and concludes it, its cores' bubbles are counted, and the clusters pass
the next boundary. Work that is done leaves its memories and flags and retires the descriptor; work that a check refuses
retires it with the check's status alone. Where a check of its reads speaks, work that is done is evaluated in the state that
the read leaves, and concludes that; a read that its repeat meets again ends the work there (whole-descriptor rows are the
model's choice, log 8; the bubbles are free, log 6). A MERGE in each of its modes goes in the same way. -/
def Obligations.KernelDescriptorsComplete : Prop :=
  (∀ (s : State) (d : Did) (x : Desc) (op : Nat) (work : State → Desc → Work) (i : RunCmd → Instr),
     (op, work, i) ∈ [(0x01, State.attnWork, Instr.attnFwd), (0x02, State.attnBwdWork, .attnBwd), (0x03, State.matWork, .gemm),
       (0x04, State.matWork, .conv), (0x05, State.normWork, .norm), (0x06, State.mapWork, .sfuMap)] →
     s.running? d [op] = some x → s.kernelTurn x = true → s.turnFree x.ctx = true → s.clustersUp x.ctx = true →
     (s.kernel x.ctx).live = false → (s.kernel x.ctx).paused = false →
     let u := (s.takeTurn x.ctx).kernelBoundary x.ctx true
     let ended := fun (v : State) =>
       let w := (v.ctxCores x.ctx).foldl State.countBubbles v
       w.kernelBoundary x.ctx (w.kernelReady x.ctx)
     let v := u.conclude x (work u x)
     exec (i ⟨d, .clean⟩) s = .next (ended v)
       ∧ (∀ st af sf m, work u x = .done st af sf m → v = ((u.withStore m).raiseOn x.ctx af sf).retire
           { x with flags := x.flags ||| af ||| sf } st (u.detailOf x st))
       ∧ (∀ st det, work u x = .bad st det → v = u.retire x st det ∧ ∀ q, exec (i ⟨d, q⟩) s = .next (ended v))
       ∧ (∀ q st af sf m, q ≠ .clean → work u x = .done st af sf m →
           ((u.readsMet x q).1 = true → let t := (u.readsMet x q).2
               exec (i ⟨d, q⟩) s = .next (ended (t.conclude ((t.desc? x.did).getD x) (work t ((t.desc? x.did).getD x)))))
             ∧ ((u.readsMet x q).1 = false → exec (i ⟨d, q⟩) s = .next (ended (u.readsMet x q).2))))
    ∧ (∀ (s : State) (d : Did) (x : Desc) (mode : Nat) (i : RunCmd → Instr),
         (mode, i) ∈ [(0, Instr.mergeFold), (1, .mergeMaxslot), (2, .mergeRescale), (3, .mergeFinish)] →
         s.running? d [0x07] = some x → (mergeOf x.bytes).mode = mode → s.kernelTurn x = true → s.turnFree x.ctx = true →
         s.clustersUp x.ctx = true → (s.kernel x.ctx).live = false → (s.kernel x.ctx).paused = false →
         let u := (s.takeTurn x.ctx).kernelBoundary x.ctx true
         let v := u.conclude x (u.mergeWork x)
         let w := (v.ctxCores x.ctx).foldl State.countBubbles v
         exec (i ⟨d, .clean⟩) s = .next (w.kernelBoundary x.ctx (w.kernelReady x.ctx))
           ∧ (∀ st af sf m, u.mergeWork x = .done st af sf m → v = ((u.withStore m).raiseOn x.ctx af sf).retire
               { x with flags := x.flags ||| af ||| sf } st (u.detailOf x st)))

/-- A descriptor whose field is refused while it runs ends in its status alone: ranges, pools and cores stay, and memory does
too where it has taken no view. A read that the descriptor may make and whose repeat meets its error again, ends it in a
fault of that error's status; one that the repeat cures notes ECC_RETRIED; a read that it cannot make changes nothing. MOVE,
CONVERT and TURN on the DMA hub, once the partition's regulator admits their units: the copy's work concludes them; work that
is done takes the units' tokens and leaves its memories, and its flags in the descriptor's own set only. -/
def Obligations.CopiesCompleteAndRefusalsChangeNothing : Prop :=
  (∀ (s : State) (x : Desc) (st det : Nat),
     s.conclude x (.bad st det) = s.retire x st det ∧ s.concludeOwn x (.bad st det) = s.retire x st det
       ∧ (s.retire x st det).ranges = s.ranges ∧ (s.retire x st det).pools = s.pools ∧ (s.retire x st det).cores = s.cores
       ∧ ((∀ y ∈ s.descs, y.did = x.did → y.views = []) → (s.retire x st det).mem = s.mem ∧ (s.retire x st det).ss = s.ss)
       ∧ ∀ r, (s.mayRead x r = true →
             s.readsMet x (.lasting r) = (false, (s.readLost x r).descFault x (readStatus r))
               ∧ s.readsMet x (.retried r) = (true, (s.readCured x r).noteStatus x.did 0x31 0xFFFE))
           ∧ (s.mayRead x r = false → s.readsMet x (.lasting r) = (true, s) ∧ s.readsMet x (.retried r) = (true, s)))
    ∧ (∀ (s : State) (d : Did) (x : Desc) (op : Nat) (i : RunCmd → Instr),
         (op, i) ∈ [(0x10, Instr.move), (0x11, .convert), (0x12, .turn)] → s.running? d [op] = some x →
         (s.regulated (s.partOf x) (s.copyUnits x) = false → ∀ q, exec (i ⟨d, q⟩) s = .next s)
           ∧ (s.regulated (s.partOf x) (s.copyUnits x) = true →
               (∀ st det, s.copyWork x = .bad st det → ∀ q, exec (i ⟨d, q⟩) s = .next (s.retire x st det))
                 ∧ ∀ st af sf m, s.copyWork x = .done st af sf m →
                     exec (i ⟨d, .clean⟩) s = .next (((s.takeUnits (s.partOf x) (s.copyUnits x)).withStore m).retire
                         { x with flags := x.flags ||| af ||| sf } st 0)
                       ∧ ∀ t, exec (i ⟨d, .clean⟩) s = .next t → t.cores = s.cores
                           ∧ ((∀ y ∈ s.descs, y.did = x.did → y.views = []) → t.mem = m.mem ∧ t.ss = m.ss)))

/-- Commands to the Bolt manager and the collective engine carry a check value: one that matches is performed; one that fails
is made again once, which its descriptor's status and the log show; one that fails twice is an expiry of its control core,
whatever the check of the instruction memory then finds. A check of the command's reads speaks before it is performed.
BOLT_STEP: once its request list and trees are read and allowed, nothing of its sequences is busy and the sequence cache can
hold them, it is prepared; one that needs more entries than the cache has is refused; its atomic phase, in the order in which
preparation ended, writes one result per request and retires with the worst of them. BOLT_COMMIT acts on the named sequences,
writes their results and retires. Each mode of BOLT_MIGRATE processes one page a command, once the partition's regulator
admits the page's units: a page done moves its place on, the last one (or one that stops it) writes the result entry and
retires it, and a page whose identity does not hold ends its context. -/
def Obligations.BoltCommandsComplete : Prop :=
  (∀ (s : State) (d : Did) (x : Desc) (c : SentCommand → Instr), s.running? d [0x20, 0x21, 0x22, 0x23, 0x30] = some x →
     c ∈ [Instr.boltStep, .boltCommit, .boltMigrateMove, .boltMigrateExport, .boltMigrateImport, .boltMigrateCheck,
       .boltPoolCreate, .boltPoolDestroy, .boltPoolReset, .boltPoolQuery, .boltPoolSeqtab, .boltPoolSync, .collReduce,
       .collCreate, .collDestroy] →
     let r := (s.logEvent 0x01 1 2 (s.ctx x.ctx).owner 0 x.ctx x.tag).noteRepeat 0x01 2 (s.ctx x.ctx).owner 0
     exec (c ⟨d, .again, .clean⟩) s = exec (c ⟨d, .matched, .clean⟩) (r.noteStatus x.did 0x31 0xFFFE)
       ∧ (∀ ok q, exec (c ⟨d, .failed ok, q⟩) s = .next (s.ccoreExpiry (s.ctx x.ctx).owner ok))
       ∧ (∀ q, (s.readsMet x q).1 = true → exec (c ⟨d, .matched, q⟩) s = exec (c ⟨d, .matched, .clean⟩) (s.readsMet x q).2)
       ∧ (∀ q, (s.readsMet x q).1 = false → exec (c ⟨d, .matched, q⟩) s = .next (s.readsMet x q).2))
    ∧ (∀ (s : State) (d : Did) (x : Desc),
         (s.running? d [0x20] = some x →
             let n := x.field 32 4
             let rr := rdRun (x.field 8 8) 0 (16 * n)
             let bs := s.fetchRun s.store x rr
             let reqs := (pieces 16 bs).map reqOf
             let runs := reqs.map (treeRun (x.field 24 8))
             let tb := (reqs.zip runs).map (fun p => blockBytes (if p.1.spec then s.fetchRun s.store x p.2 else []) 0 64)
             let kept := bs ++ tb.flatten
             let u := s.cacheSeqs (namedSeqs reqs)
             let need := (namedSeqs reqs).length + (reqs.filter (fun r => r.kind == 2)).length
             s.firstBad x [rr, wrRun (x.field 16 8) 0 (16 * n)] = none → (pieces 16 bs).all reqFormOk = true →
             reqs.any Req.spec = (x.field 24 8 != 0) → s.firstBad x runs = none →
             (reqs.zip tb).all (fun p => !p.1.spec || treeOk p.1.ndraft p.2) = true →
             (Config.seqCacheEntries < need → exec (.boltStep ⟨d, .matched, .clean⟩) s = .next (s.retire x 0x03 0xFFFF))
               ∧ (need ≤ Config.seqCacheEntries → (s.stepBusy x.did (namedSeqs reqs) = true ∨ s.cacheRoom need = false) →
                   exec (.boltStep ⟨d, .matched, .clean⟩) s = .next s)
               ∧ (need ≤ Config.seqCacheEntries → s.stepBusy x.did (namedSeqs reqs) = false → s.cacheRoom need = true →
                   (u.stepRefused (u.partOf x) false (some x.did) (keptReqs n kept) = none →
                       exec (.boltStep ⟨d, .matched, .clean⟩) s = .next (({ u with order := u.order + 1 } : State).setDesc
                         { x with st := .prepared, kept := kept, prep := u.order }))
                     ∧ (∀ e, u.stepRefused (u.partOf x) false (some x.did) (keptReqs n kept) = some e →
                         exec (.boltStep ⟨d, .matched, .clean⟩) s = .next (u.retire x e.1 e.2))))
           ∧ (s.desc? d = some x → x.st = .prepared → x.opcode = 0x20 → s.serving = true →
               (∀ y ∈ s.descs, y.st = .prepared → y.opcode = 0x20 → x.prep ≤ y.prep) →
               let r := s.decideReqs (s.partOf x) (some x.did) (keptReqs (x.field 32 4) x.kept)
               let u := r.1.withStore (r.1.storeRun r.1.store x (wrRun (x.field 16 8) 0 (16 * x.field 32 4)) (r.2.flatMap Decided.bytes))
               (r.2.flatMap Decided.bad = [] →
                   exec (.boltAtomicPhase d) s = .next (u.retire { x with kept := [] } (worstOf r.2) 0))
                 ∧ (∀ p ps, r.2.flatMap Decided.bad = p :: ps →
                     exec (.boltAtomicPhase d) s = .next ((s.pageMismatch x p).descFault { x with kept := [] } 0x30))))
    ∧ (∀ (s : State) (d : Did) (x : Desc),
         (s.running? d [0x21] = some x →
             let n := x.field 24 4
             let rr := rdRun (x.field 8 8) 0 (4 * n)
             let wr := wrRun (x.field 16 8) 0 (16 * n)
             let es := commitEnts (s.fetchRun s.store x rr)
             let u := s.cacheSeqs (es.map Prod.fst)
             s.firstBad x [rr, wr] = none → s.stepBusy x.did (es.map Prod.fst) = false → s.cacheRoom es.length = true →
             u.commitRefused (u.partOf x) false es = none →
             let r := u.commitAll (some x.did) es
             (u.badCommit es = none → exec (.boltCommit ⟨d, .matched, .clean⟩) s =
                 .next ((r.1.withStore (r.1.storeRun r.1.store x wr (r.2.flatMap Decided.bytes))).retire x (worstOf r.2) 0))
               ∧ (∀ p, u.badCommit es = some p →
                   exec (.boltCommit ⟨d, .matched, .clean⟩) s = .next ((u.pageMismatch x p).descFault x 0x30)))
           ∧ ∀ (mode : Nat) (i : SentCommand → Instr),
               (mode, i) ∈ [(0, Instr.boltMigrateMove), (1, .boltMigrateExport), (2, .boltMigrateImport), (3, .boltMigrateCheck)] →
               s.running? d [0x22] = some x → bitsOf (x.field 8 1) 0 2 = mode →
               let n := x.field 10 2
               let u := s.cacheSeq n
               let ps := migratePages (u.seqn n) (x.field 12 2) (x.field 14 2) (x.field 16 4) (x.field 20 4)
               let len := ps.length * (u.pool (u.seqn n).pool).psize
               let io := if mode = 1 then [wrRun (x.field 24 8) 0 len] else if mode = 2 then [rdRun (x.field 24 8) 0 len] else []
               let res := wrRun (x.field 32 8) 0 16
               let written := fun (v : State) (k st : Nat) =>
                 v.withStore (v.storeRun v.store x res (v.decided st n (v.seqn n).pool k true).bytes)
               let ended := fun (v : State) (k st : Nat) => (written v k st).retire x st (if st = 0x03 then 0xFFFF else 0)
               s.stepBusy x.did [n] = false → s.cacheRoom 1 = true → (x.prog = 0 → u.migrateRefused x = none) →
               u.firstBad x (io ++ [res]) = none → u.nextPageBad x = none → u.regulated (u.partOf x) (u.pageUnits x) = true →
               let w := u.takeUnits (u.partOf x) (u.pageUnits x)
               (ps[x.prog]? = none → exec (i ⟨d, .matched, .clean⟩) s = .next (ended w x.prog 0))
                 ∧ ∀ l k, ps[x.prog]? = some (l, k) →
                     (∀ v, w.migratePage x n l k x.prog = .ok v → exec (i ⟨d, .matched, .clean⟩) s = .next (
                         if x.prog + 1 < ps.length then v.setDesc { x with prog := x.prog + 1 } else ended v (x.prog + 1) 0))
                       ∧ (∀ v st, w.migratePage x n l k x.prog = .stop v st →
                           exec (i ⟨d, .matched, .clean⟩) s = .next (ended v x.prog st))
                       ∧ (∀ v, w.migratePage x n l k x.prog = .mismatch v →
                           exec (i ⟨d, .matched, .clean⟩) s = .next ((written v x.prog 0x30).descFault x 0x30)))

/-- The operations of BOLT_POOL: CREATE, and DESTROY and RESET of a pool that holds no sequence once no descriptor reads a
page of it, QUERY, SEQTAB and SYNC. A pool as CREATE and RESET leave it, with its stacks and counts in its META range. What
the Bolt manager does by itself: a retired page or index block whose readers have completed goes on its stack, a reference of
the LEAVING sequence next in order is dropped, and a sequence's entry is read into the cache; one that only its second read
delivers whole is logged, and the descriptors that view it note ECC_RETRIED. -/
def Obligations.PoolsAndTheBoltManager : Prop :=
  (∀ (s : State) (d : Did) (x : Desc), s.running? d [0x23] = some x →
     let n := x.field 9 1 % 16
     let p := s.pool n
     let data := x.resolved (x.field 16 8)
     (poolOp x.bytes = 0 → p.live = false →
         let q : Pool := { Pool.reset with
           live := true, part := s.partOf x, fmt := bitsOf (x.field 10 1) 0 4, psz := bitsOf (x.field 10 1) 4 2,
           dh := bitsOf (x.field 11 1) 0 3, hm1 := bitsOf (x.field 12 1) 0 6, npages := x.field 40 4, nidx := x.field 44 4,
           tier := data.1, data := data.2,
           handles := [refHandle (x.field 16 8), refHandle (x.field 24 8), refHandle (x.field 32 8)],
           metaTier := (x.resolved (x.field 24 8)).1, metaAt := (x.resolved (x.field 24 8)).2,
           indexTier := (x.resolved (x.field 32 8)).1, indexAt := (x.resolved (x.field 32 8)).2 }
         data.2 % q.psize = 0 → (x.resolved (x.field 32 8)).2 % 512 = 0 →
         exec (.boltPoolCreate ⟨d, .matched, .clean⟩) s = .next ((s.freshPool n q).retire x 0 0))
       ∧ (p.live = true → p.part = s.partOf x → p.quar = false →
           (s.seqs.any (fun q => q.2.inPool n) = false → s.poolInUse n = false →
               (poolOp x.bytes = 1 → exec (.boltPoolDestroy ⟨d, .matched, .clean⟩) s =
                   .next (((s.freshPool n p.emptied).setPool n Pool.reset).retire x 0 0))
                 ∧ (poolOp x.bytes = 2 → exec (.boltPoolReset ⟨d, .matched, .clean⟩) s = .next ((s.freshPool n p.emptied).retire x 0 0)))
             ∧ (s.seqs.any (fun q => q.2.inPool n) = false → s.poolInUse n = true →
                 (poolOp x.bytes = 1 → exec (.boltPoolDestroy ⟨d, .matched, .clean⟩) s = .next s)
                   ∧ (poolOp x.bytes = 2 → exec (.boltPoolReset ⟨d, .matched, .clean⟩) s = .next s))
             ∧ (s.seqs.any (fun q => q.2.inPool n) = true → poolOp x.bytes = 1 →
                 exec (.boltPoolDestroy ⟨d, .matched, .clean⟩) s = .next (s.retire x 0x03 9))
             ∧ (poolOp x.bytes = 3 → p.balanced = true → s.firstBad x [wrRun (x.field 48 8) 0 64] = none →
                 exec (.boltPoolQuery ⟨d, .matched, .clean⟩) s = .next ((s.withStore (s.storeRun s.store x (wrRun (x.field 48 8) 0 64)
                   (s.queryBytes n))).retire x 0 0)))
       ∧ (poolOp x.bytes = 4 → s.seqTabUsed = false → (s.part (s.partOf x)).admin = true →
           exec (.boltPoolSeqtab ⟨d, .matched, .clean⟩) s = .next (({ s with seqTab := some data, seqTabUsed := true } : State).retire x 0 0))
       ∧ (poolOp x.bytes = 5 → s.seqTab.isSome = true →
           exec (.boltPoolSync ⟨d, .matched, .clean⟩) s = .next ((s.seqDirty.foldl State.writeBack s).retire x 0 0))
       ∧ (∀ (m : Nat) (q : Pool), s.freshPool m q = (s.setPool m q).withStore
           (q.storeMeta (0, spilled q.freeCount) (0, spilled q.ifreeCount) (upTo q.npages) (s.setPool m q).store)))
    ∧ (∀ (s : State) (n number seq : Nat),
         (s.retiredReady (s.pool n).retiring number = true → exec (.pageRetirePush n false number) s = .next (s.putPool n
             { s.pool n with retiring := (s.pool n).retiring.eraseP (fun r => r.1 == number), free := number :: (s.pool n).free }))
           ∧ (s.retiredReady (s.pool n).iretiring number = true → exec (.pageRetirePush n true number) s = .next (s.putPool n
               { s.pool n with iretiring := (s.pool n).iretiring.eraseP (fun r => r.1 == number), ifree := number :: (s.pool n).ifree }))
           ∧ (s.dropping.head? = some seq → s.serving = true → s.cacheRoom 1 = true →
               let u := ((s.cacheSeq seq).dropOne seq none).1
               exec (.leaveReferenceDrop seq) s =
                 .next (if (u.seqn seq).bare = true then ({ u with dropping := u.dropping.drop 1 } : State).settleSeqs else u.settleSeqs))
           ∧ (s.seqTab.isSome = true → seq < 65536 → s.seqCache.contains seq = false → s.cacheRoom 1 = true →
               exec (.seqCacheFill seq true) s = .next (s.cacheSeq seq)
                 ∧ (s.entryIntact seq = true → exec (.seqCacheFill seq false) s = .next ((s.cacheSeq seq).fillRetried seq))))

/-! ### Collectives and check values -/

/-- COLL_ALLREDUCE: CREATE describes a free group from its block and writes a blank status record, DESTROY frees a group that
no collective holds, started or only dequeued; a REDUCE takes its group's number and writes its status record when it is
dequeued, and starts that collective once the group and its channel are free. -/
def Obligations.CollectiveDescriptorsBegin : Prop :=
  ∀ (s : State) (d : Did) (x : Desc), s.running? d [0x30] = some x →
    (collOp x = 1 →
        let sr := wrRun (x.field 32 8) 0 64
        let bs := s.fetchRun s.store x (rdRun (x.field 16 8) 0 128)
        let g := groupOf bs
        let lr := rdRun (fieldOf bs 24 8) 0 (8 * g.nmem)
        let es := (pieces 8 (s.fetchRun s.store x lr)).map leNat
        let rx := fieldOf bs 32 8
        let wk := fieldOf bs 40 8
        let wt := (x.transAt (refHandle wk)).getD (transOf 0 RangeEnt.reset)
        let made : Group := { g with
          part := s.partOf x, members := es.map (fun e => (s.range (bitsOf e 16 14)).base), rxarea := (s.range (refHandle rx)).base,
          work := wt.phys (refOffset wk), workTier := wt.tier }
        s.firstBad x [rdRun (x.field 16 8) 0 128, sr] = none → groupOk bs = true → s.firstBad x [lr] = none →
        es.zipIdx.all (fun e => s.memberOk (s.partOf x) rx e.1 (e.2 == g.myIdx)) = true →
        s.areaOk x rx g.areaBytes = true → s.areaOk x wk g.workBytes = true →
        ((upTo 256).find? (fun n => (s.group n).st == .free) = none → exec (.collCreate ⟨d, .matched, .clean⟩) s = .next (s.retire x 0x04 0))
          ∧ ∀ n, (upTo 256).find? (fun n => (s.group n).st == .free) = some n →
              let u := (s.setGroup n made).clearLines made
              exec (.collCreate ⟨d, .matched, .clean⟩) s = .next ((u.withStore (u.storeRun u.store x sr
                (List.replicate 7 0 ++ natLe 1 n ++ List.replicate 20 0 ++ natLe 4 g.gtag.toNat ++ List.replicate 32 0))).retire x 0 0))
      ∧ (collOp x = 2 → ∀ g, s.namedGroup x = some g →
          (g.live = [] → (∀ t ∈ g.taken, s.desc? t.1 = none) →
              exec (.collDestroy ⟨d, .matched, .clean⟩) s = .next ((s.setGroup (x.field 9 1) Group.reset).retire x 0 0))
            ∧ (g.live ≠ [] ∨ (∃ t ∈ g.taken, (s.desc? t.1).isSome = true) →
              exec (.collDestroy ⟨d, .matched, .clean⟩) s = .next s))
      ∧ (collOp x = 0 → ∀ g, s.namedGroup x = some g →
          let n := x.field 9 1
          let first := fun (q : Word) =>
                ({ seq := q, d := x.did, stage := g.stages.headD 4, gather := false, round := 0, sent := false, got := [],
                   asked := [], lflags := 0, ldrop := x.field 12 4 - g.cap, failed := false, retried := false, state := 0,
                   voted := false, rcrc := 0, gflags := 0, gdrop := 0, noRecord := (s.ctx x.ctx).stopped } : Coll)
          (g.st = .broken → exec (.collReduce ⟨d, .matched, .clean⟩) s =
              .next ((if (s.ctx x.ctx).stopped then s.removeDesc x.did else s.retire x 0x70 0).startAlone n d))
            ∧ (x.opcode = 0x30 → g.st ≠ .broken → x.field 12 4 % collSize g.fmt = 0 → (∀ t ∈ g.taken, t.1 ≠ x.did) →
              (∀ c ∈ g.live, c.d ≠ x.did) → s.collTake x = (s.setGroup n { g with
                seqNo := g.seqNo + 1, taken := g.taken ++ [(x.did, g.seqNo)] }).putStatus n (first g.seqNo))
            ∧ (∀ q, g.st ≠ .broken → g.taken.find? (fun t => t.1 == x.did) = some (x.did, q) →
              (g.ready x.did = false ∨ s.channelFree x g.channel = false → exec (.collReduce ⟨d, .matched, .clean⟩) s = .next (s.startAlone n d))
                ∧ (g.ready x.did = true → s.channelFree x g.channel = true →
                  s.firstBad x [rdRun (x.field 16 8) 0 (min (x.field 12 4) g.cap), wrRun (x.field 24 8) 0 (g.e * collSize g.ofmt),
                    wrRun (x.field 32 8) 0 64] = none →
                  exec (.collReduce ⟨d, .matched, .clean⟩) s = .next (((s.setGroup n { g with
                    taken := g.taken.filter (fun t => t.1 != x.did), live := g.live ++ [first q] }).putStatus n
                      (first q)).startAlone n d))))

/-- The exchange of a collective, where the partition's regulator admits its units and no access of it meets a fault: a round
goes to every peer once each shows its regions released; a record polled is taken when its check holds, asked for again when
it first fails, and marks the collective failed when the repeat fails; and local completion takes the CRC of the whole result
and, where the descriptor asks for it, posts on the pair that its context's kernel has on the core. An access to a range that
is not resident halts the descriptor. A retransmission that a peer's CTRL line newly asks for is sent as the line names it. -/
def Obligations.CollectiveExchangeAndRetransmission : Prop :=
  (∀ (s : State) (n i : Nat) (c : Coll) (x : Desc), s.serving = true → s.exchange n = some (c, x) →
     let g := s.group n
     let clear := fun (w : CollNeeds) => x.st = .running ∧ s.firstBad x w.runs = none
       ∧ w.places.findSome? (fun p => s.poisonedAt p.1 p.2.1 p.2.2) = none
     (c.stage < 4 → c.sent = false → (g.peers c.stage).all (s.released g c) = true →
         let units := (g.peers c.stage).length * ceilDiv (g.wire c.stage c.gather * g.chunkLen c.stage c.round) 64
         let needs := (g.peers c.stage).foldl (fun w d => w.and (chunkNeeds s g x c d)) (roundNeeds g x c)
         s.regulated g.part units = true →
         (clear needs → exec (.collRound n) s = .next (((g.peers c.stage).foldl (fun s d => s.sendChunk g x c false d)
             (s.takeUnits g.part units)).advance n x { c with sent := true }))
           ∧ (∀ r, x.st = .running → s.firstBad x needs.runs = some (r, .halt) →
               exec (.collRound n) s = .next (s.haltOn x r)))
       ∧ (∀ st d, g.peerAt i = some (st, d) →
           let r := s.memAt (g.rxarea + g.recAt st + 16 * (c.round * g.f st + d)) 16
           let w := g.wire st c.gather
           let data := s.memAt (g.rxarea + g.dataAt st + w * (d * g.blk (st + 1) + c.round * g.chunk)) (w * g.chunkLen st c.round)
           let holds := fieldOf r 8 4 == g.chunkCrc c.seq c.round i st c.gather data
           let units := ceilDiv (w * g.chunkLen st c.round) 64
           let t := s.takeUnits g.part units
           let place := g.gtag.toNat + i * 2 ^ 32 + c.round * 2 ^ 44
           st = c.stage → c.got.contains d = false → c.current r (c.asked.contains d) = true → s.regulated g.part units = true →
           clear (roundNeeds g x c) →
           (holds = true → c.asked.contains d = false →
               exec (.collPollReturn n i) s = .next (t.advance n x { c with got := c.got ++ [d] }))
             ∧ (holds = false → c.asked.contains d = false → exec (.collPollReturn n i) s =
                 .next ((t.askAgain g c i).setGroup n (g.setColl { c with asked := c.asked ++ [d] })))
             ∧ (holds = true → c.asked.contains d = true → exec (.collPollReturn n i) s =
                 .next (((t.logEvent 0x0B 1 5 0 place x.ctx x.tag).noteRepeat 0x0B 5 0 place).advance n x
                   { c with got := c.got ++ [d], retried := true }))
             ∧ (holds = false → c.asked.contains d = true → exec (.collPollReturn n i) s =
                 .next ((t.logEvent 0x0B 2 5 0 place x.ctx x.tag).advance n x { c with got := c.got ++ [d], failed := true })))
       ∧ (c.stage = 5 → bitOf (x.field 10 1) 0 = false → clear (resultNeeds s g x 0 g.e) →
           let e := { c with state := 1, rcrc := crc32c (s.resultBytes g x 0 g.e) }
           exec (.collLocalComplete n) s = .next ((s.setGroup n { g.setColl e with first := false }).putStatus n e))
       ∧ (c.stage = 5 → bitOf (x.field 10 1) 0 = true → clear (resultNeeds s g x 0 g.e) →
           let e := { c with state := 1, rcrc := crc32c (s.resultBytes g x 0 g.e) }
           let u := (s.setGroup n { g.setColl e with first := false }).putStatus n e
           let core := bitsOf (x.field 41 1) 0 5
           let pair := bitsOf (x.field 40 1) 0 6
           (u.pairCore x.ctx core = none → exec (.collLocalComplete n) s = .next u)
             ∧ (∀ v k, u.pairCore x.ctx core = some v → v.post pair false 1 = some k →
                 exec (.collLocalComplete n) s = .next (u.setPairCore x.ctx core k))
             ∧ (∀ v, u.pairCore x.ctx core = some v → v.post pair false 1 = none → (v.pair pair).claimed = true →
                 exec (.collLocalComplete n) s = .next (u.tearDown x.ctx 0x23 core core (some (u.kernel x.ctx).d)))
             ∧ ((u.core core).ctx = some x.ctx → u.pairCore x.ctx core = some (u.core core)
                 ∧ ∀ k, u.setPairCore x.ctx core k = u.setCore core k)))
    ∧ (∀ (s : State) (n i st d : Nat) (c : Coll) (x : Desc), s.serving = true → (s.group n).peerAt i = some (st, d) →
         let g := s.group n
         let l := s.peerLine g st d
         g.live.find? (fun c => c.seq.toNat == fieldOf l 8 4) = some c → s.desc? c.d = some x → fieldOf l 12 4 < g.chunks st →
         (byteOf l 17 = getAt 0 g.xseen i → exec (.collRetransmit n i) s = .next s)
           ∧ (byteOf l 17 ≠ getAt 0 g.xseen i → exec (.collRetransmit n i) s =
               .next (s.resendChunk n i x { c with stage := st, gather := bitOf (byteOf l 16) 0, round := fieldOf l 12 4 } d (byteOf l 17)))
           ∧ ∀ (e : Coll) (seen : Nat),
               let units := ceilDiv (g.wire e.stage e.gather * g.chunkLen e.stage e.round) 64
               let w := chunkNeeds s g x e d
               s.regulated g.part units = true → x.st = .running → s.firstBad x w.runs = none →
               w.places.findSome? (fun p => s.poisonedAt p.1 p.2.1 p.2.2) = none →
               s.resendChunk n i x e d seen =
                 ((s.takeUnits g.part units).sendChunk g x e true d).setGroup n { g with xseen := putAt 0 g.xseen i seen })

/-- Votes pass up to member 0, which decides; a verdict is passed down and ends the collective: OK, OVERFLOW_DROP where bytes
were dropped, TAINTED where any member failed; a lost collective breaks its group. -/
def Obligations.VotesAndVerdictsEndCollectives : Prop :=
  ∀ (s : State) (n : Nat) (c : Coll), s.serving = true →
    let g := s.group n
    (g.live.find? (fun c => !c.exchanging && !c.voted) = some c → ∀ v, s.subtree g c = some v →
        (g.voteStage = none → exec (.collVote n) s = .next (s.setGroup n (g.setColl { c with
            voted := true, state := if v.ok then 2 else 3, gflags := v.flags, gdrop := v.drop })))
          ∧ (∀ st, g.voteStage = some st → exec (.collVote n) s =
              .next ((s.putVote g c st (g.peer st 0) (if v.ok then 1 else 2) v).setGroup n (g.setColl { c with voted := true }))))
      ∧ (g.live.find? Coll.voted = some c → ∀ v x, s.verdictOf g c = some v → s.desc? c.d = some x →
          let e := { c with state := if v.ok then 2 else 3, gflags := v.flags, gdrop := v.drop }
          let u := ((s.passDown g e v).setGroup n (g.setColl e)).putStatus n e
          (v.ok = true → exec (.collVerdict n) s = .next (u.collEnd n e x
              (if v.drop ≠ 0 then 0x41 else if c.retried then 0x31 else 0) v.flags))
            ∧ (v.ok = false → exec (.collVerdict n) s = .next ((u.markPair x).collEnd n e x 0x40 v.flags)))
      ∧ (∀ x k, g.live[k]? = some c → s.desc? c.d = some x →
          let e := { c with state := 4 }
          exec (.collTimeout ⟨n, k⟩) s =
            .next (((s.setGroup n { g.setColl e with st := .broken }).putStatus n e).collEnd n e x 0x70 x.flags))

/-- Contributions are added one after another in the order of their digits, each addition rounded and its flags kept; and an
integer dot product without saturation is the exact sum of its products reduced modulo 2^32, however its groups fall. -/
def Obligations.SumsAreTakenInOrder : Prop :=
  (∀ (g : Group) (v : Nat), g.sum [v] = (v, 0))
    ∧ (∀ (g : Group) (v : Nat) (vs : List Nat) (b : Nat),
        let p := g.sum (v :: vs)
        g.sum (v :: (vs ++ [b])) = ((g.add p.1 b).1, p.2 ||| (g.add p.1 b).2))
    ∧ ∀ (xs ys : List Int), xs.zip ys ≠ [] →
        let exact_ := ((xs.zip ys).map (fun p => p.1 * p.2)).sum
        (dotInt false none xs ys).1 = some (wrapOf exact_ 32)
          ∧ ∀ old : Nat, (dotInt false (some old) xs ys).1 = some (wrapOf (signedOf old 32 + exact_) 32)

/-- A CRC_SCAN that begins and one that resumes, on one of the four CVUs, by granules: feeding all of the data in one go or
in granules gives the same running value. Where no CVU is free a scan waits, and a unit whose registers fail their parity for
good ends it. A scan that its partition's regulator admits goes on by granules, and keeps its place between them. One all of
whose granules are read and whose data is as it was read writes its record and retires OK; where its bytes were written while
it ran, the record shows a free value (R446; log 7). -/
def Obligations.CrcScansRunByGranules : Prop :=
  (∀ (s : State) (d : Did) (x : Desc) (granules : Nat), s.running? d [0x38] = some x →
     let c := crcDesc x.bytes
     (∀ n, s.cvuFor x = some n →
         let t := ({ s with cvus := putAt none s.cvus n (some x.did) } : State)
         (x.scan = none →
             let blk := if c.params = 0 then natLe 64 0 else t.fetchRun t.store x (rdRun c.params 0 64)
             let out := if c.load then t.fetchRun t.store x (rdRun c.out 0 64) else natLe 64 0
             t.firstBad x c.blocks = none → t.boltHandle c.src = false → t.boltHandle c.out = false → t.boltHandle c.params = false →
             (c.params = 0 ∨ c.named = 0 ∨ bitsOf (byteOf blk 25) 0 5 ≠ 0) → c.blockOk blk = true →
             (c.load = true → fieldOf out 32 4 = crc32c (out.take 16)) →
             exec (.crcScan d ⟨granules, .clean, .clean⟩) s = .next (t.scanOn { x with kept := blk ++ out } granules (c.start (blk ++ out))))
           ∧ (∀ u, x.scan = some u → exec (.crcScanResume d ⟨granules, .clean, .clean⟩) s = .next (t.scanOn x granules u))
           ∧ (x.scan = none → exec (.crcScan d ⟨granules, .lasting, .clean⟩) s =
               .next ((t.logEvent 0x02 2 4 n 0 x.ctx x.tag).descFault x 0x30)))
       ∧ (s.cvuFor x = none → ∀ k q, exec (.crcScan d ⟨granules, k, q⟩) s = .next s ∧ exec (.crcScanResume d ⟨granules, k, q⟩) s = .next s)
       ∧ (∀ (p : CrcParams) (u v : Scan) (m : Nat), s.scanRun x c p granules u = (none, v) →
           s.scanRun x c p (granules + m) u = s.scanRun x c p m v))
    ∧ (∀ (s : State) (x : Desc) (granules : Nat) (u v : Scan),
         let c := crcDesc x.bytes
         let p := c.algo (x.kept.take 64)
         let units := ceilDiv (min (4096 * granules) (c.len - u.fed)) 64
         let t := s.takeUnits (s.partOf x) units
         let written := fun (raw : Nat) =>
           let w := t.draw.2
           (w.withStore (w.storeRun w.store x (wrRun c.out 0 64) (c.record p x.tag raw v.count))).retire x 0 0
         (s.regulated (s.partOf x) units = false → s.scanOn x granules u = s.setDesc { x with scan := some u })
           ∧ (s.regulated (s.partOf x) units = true → s.scanRun x c p granules (s.scanSeen x c p u) = (none, v) →
               (v.fed < c.len → s.scanOn x granules u = t.setDesc { x with scan := some v })
                 ∧ (c.len ≤ v.fed → t.firstBad x [wrRun c.out 0 64] = none →
                     (v.written = false → v.whole = none ∨ v.whole = some v.raw → s.scanOn x granules u = written v.raw)
                       ∧ (v.written = true →
                           s.scanOn x granules u = written ((Config.scannedWhileWritten t.draw.1).toNat % 2 ^ p.width)))))

/-- The named parameter sets with their check values over "123456789"; a custom block that holds the values of a set gives
the same parameters, and the numbers 6 and 7 are refused. -/
def Obligations.NamedParameterSets : Prop :=
  let text : List Byte := [0x31, 0x32, 0x33, 0x34, 0x35, 0x36, 0x37, 0x38, 0x39]
  (∀ n w poly init refl xorout check,
      (n, w, poly, init, refl, xorout, check) ∈
        [(1, 32, 0x1EDC6F41, 0xFFFFFFFF, true, 0xFFFFFFFF, 0xE3069283), (2, 32, 0x04C11DB7, 0xFFFFFFFF, true, 0xFFFFFFFF, 0xCBF43926),
         (3, 16, 0x1021, 0xFFFF, false, 0, 0x29B1),
         (4, 64, 0x42F0E1EBA9EA3693, 0xFFFFFFFFFFFFFFFF, true, 0xFFFFFFFFFFFFFFFF, 0x995DC9BBDF1939FA),
         (5, 8, 0x07, 0, false, 0, 0xF4)] →
      let p : CrcParams := { width := w, poly := poly, init := init, refin := refl, refout := refl, xorout := xorout }
      crcNamed n = some p ∧ crcFinal p (text.foldl (crcFeed p) p.init) = check
        ∧ ∀ (c : CrcDesc) (blk : List Byte), c.named = 0 → bitsOf (byteOf blk 24) 0 6 + 1 = w → fieldOf blk 0 8 = poly →
            fieldOf blk 8 8 = init → fieldOf blk 16 8 = xorout → bitOf (byteOf blk 24) 6 = refl → bitOf (byteOf blk 24) 7 = refl →
            c.algo blk = p)
    ∧ crcNamed 0 = none ∧ ∀ bs : List Byte, 6 ≤ (crcDesc bs).named → firstFail (crcChecks bs) ≠ none

/-! ### Ranges, semaphores, loops and tables -/

/-- RANGE_SYNC UPDATE: nothing changes where one entry is refused; otherwise each entry is installed, kept or waits, and the
descriptor retires OK when none waits. The transition table: what a mirror entry does to a working entry. -/
def Obligations.RangeSyncUpdatesByTheTransitionTable : Prop :=
  (∀ (s : State) (d : Did) (x : Desc), s.running? d [0x40] = some x → bitOf (byteOf x.bytes 8) 0 = false → x.kept = [] →
     let part := s.partOf x
     let hs := syncHandles x.bytes
     (hs.all (s.ownsHandle part) = false → exec (.rangeSyncUpdate d) s = .next (s.retire x 0x03 16))
       ∧ (hs.all (s.ownsHandle part) = true → (∃ h ∈ hs, s.mirrorOk part (s.mirrorAt h) = false
             ∨ syncKind (s.range h) (mirrorEnt (s.mirrorAt h)) = .refused) →
           exec (.rangeSyncUpdate d) s = .next (s.retire x 0x03 0xFFFF))
       ∧ (hs.all (s.ownsHandle part) = true → (∀ h ∈ hs, s.mirrorOk part (s.mirrorAt h) = true
             ∧ syncKind (s.range h) (mirrorEnt (s.mirrorAt h)) ≠ .refused) →
           exec (.rangeSyncUpdate d) s = .next (
             let r := hs.foldl (syncOne part) (s, [], false)
             let y := { x with status := if r.2.2 then mergeStatus x.status 0x11 else x.status, kept := r.2.1.flatMap (natLe 2) }
             if r.2.1.isEmpty then r.1.retire y 0 0 else r.1.setDesc y)))
    ∧ (∀ e m : RangeEnt,
         (m.st = .invalid → e.st = .invalid → syncKind e m = .keep) ∧ (m.st = .invalid → e.st ≠ .invalid → syncKind e m = .refused)
           ∧ (m.st = .valid → e.st = .valid →
               (syncKind e m = .res ↔ e.gen = m.gen ∧ e.base = m.base ∧ e.start = m.start ∧ e.lenM1 = m.lenM1 ∧ e.tier = m.tier
                 ∧ e.rd = m.rd ∧ e.wr = m.wr ∧ e.wt = m.wt ∧ e.part = m.part)
                 ∧ (syncKind e m = .res ∨ syncKind e m = .refused))
           ∧ (m.st = .valid → e.st ≠ .valid → newer m.gen e.gen = false → syncKind e m = .refused)
           ∧ (m.st = .valid → (e.st = .invalid ∨ e.st = .quarantined ∨ (e.st = .retiring ∧ e.held = true)) → newer m.gen e.gen = true →
               syncKind e m = .install)
           ∧ (m.st = .valid → e.st = .retiring → e.held = false → newer m.gen e.gen = true → syncKind e m = .wait))

/-- RANGE_SYNC NEW: one staging entry that fails its checks refuses the whole; otherwise the entries are installed in list
order, each on the lowest INVALID handle of the partition with the next generation of that handle, and written to the mirror,
and the results are stored; where a handle is free for each the command retires OK, and where none is left it retires
TABLE_FULL. -/
def Obligations.NewRangesTakeTheLowestHandles : Prop :=
  (∀ (s : State) (d : Did) (x : Desc), s.running? d [0x40] = some x → bitOf (byteOf x.bytes 8) 0 = true →
    let part := s.partOf x
    let count := x.field 20 4
    let list := rdRun (x.field 24 8) 0 (32 * count)
    let result := wrRun (x.field 32 8) 0 (4 * count)
    let es := pieces 32 (s.fetchRun s.store x list)
    let r := s.syncNew part (es.map mirrorEnt)
    s.firstBad x [list, result] = none →
    (es.all (fun bs => s.mirrorOk part bs && (mirrorEnt bs).st == .valid) = false →
        exec (.rangeSyncNew d) s = .next (s.retire x 0x03 0xFFFF))
      ∧ (es.all (fun bs => s.mirrorOk part bs && (mirrorEnt bs).st == .valid) = true →
          (r.2.2 = false →
              exec (.rangeSyncNew d) s = .next ((r.1.withStore (r.1.storeRun r.1.store x result r.2.1)).retire x 0 0))
            ∧ (r.2.2 = true →
              exec (.rangeSyncNew d) s = .next ((r.1.withStore (r.1.storeRun r.1.store x result r.2.1)).retire x 0x04 0))))
    ∧ (∀ (s : State) (part : Nat) (m : RangeEnt) (ms : List RangeEnt),
        let free := s.lowestInvalid ((s.part part).hCntM1 + 1) (s.part part).hBase
        (∀ h, free = some h →
            let u := (s.setRange h { m with gen := (s.range h).gen + 1 }).putMirror h
            s.syncNew part (m :: ms) = ((u.syncNew part ms).1, natLe 4 h ++ (u.syncNew part ms).2.1, (u.syncNew part ms).2.2))
          ∧ (free = none → s.syncNew part (m :: ms) = (s, (m :: ms).flatMap (fun _ => natLe 4 (0x04 * 2 ^ 24)), true))
          ∧ s.syncNew part [] = (s, [], false))
    ∧ ∀ (s : State) (n h k : Nat), s.lowestInvalid n h = some k →
        h ≤ k ∧ k < h + n ∧ (s.range k).st = .invalid ∧ ∀ j, h ≤ j → j < k → (s.range j).st ≠ .invalid

/-- RANGE_RETIRE begins and drains: the entry is RETIRING and its halted streams end RANGE_STALE; once no descriptor uses its
generation it becomes INVALID, or stays RETIRING under HOLD, and every fetched translation of the handle is marked. ADVISE
that moves a range: RESIDE and DEMOTE retire it first and move it once no use is left (at once where none is); PREFETCH moves
it at once and its record waits for the old generation. The entry names DEST, its tier and NEWGEN. A generation that differs
ends in RANGE_STALE before any other refusal, and a damaged row of the range ends the descriptor in its loss. -/
def Obligations.RangesRetireAndMove : Prop :=
  (∀ (s : State) (d : Did) (x : Desc),
     let h := x.handle
     let e := s.range h
     (s.running? d [0x41] = some x →
         (s.retirable x = false → exec (.rangeRetire d) s = .next (s.retire x 0x11 0))
           ∧ (s.retirable x = true → (s.ownsHandle (s.partOf x) h = false ∨ s.boltRange h = true) →
               exec (.rangeRetire d) s = .next (s.retire x 0x03 16))
           ∧ (s.retirable x = true → s.ownsHandle (s.partOf x) h = true → s.boltRange h = false →
               (s.faults.filter (fun f => f.handle == h && f.reason == 0)) = [] →
               exec (.rangeRetire d) s = .next ((s.setRange h
                 { e with st := .retiring, was := e.st, held := e.st == .retiring && e.held }).setDesc { x with st := .prepared })))
       ∧ (s.desc? d = some x → x.st = .prepared → s.serving = true → x.opcode = 0x41 → s.useCount h x.gen = 0 →
           e.st = .retiring → e.gen = x.gen →
           (bitOf (byteOf x.bytes 8) 0 = true → exec (.retireDrainPhase d) s =
               .next (((s.markStale h).setRange h { e with held := true }).retire x 0 0))
             ∧ (bitOf (byteOf x.bytes 8) 0 = false → exec (.retireDrainPhase d) s =
                 .next (((s.markStale h).setRange h { e with st := .invalid, was := .invalid, held := false }).retire x 0 0)))
       ∧ (s.desc? d = some x → s.useCount h x.gen ≠ 0 → exec (.retireDrainPhase d) s = .next s))
    ∧ (∀ (s : State) (d : Did) (x : Desc),
         let h := x.handle
         let begun := s.retireBegin x
         (∀ (op : Nat) (i : Instr), (op, i) ∈ [(0, Instr.adviseReside d), (1, .adviseDemote d)] →
             s.running? d [0x42] = some x → adviseOp x.bytes = op → s.adviseRefused x = none →
             (begun.drainable? d = none → exec i s = .next begun)
               ∧ (∀ y, begun.drainable? d = some y → (begun.range y.handle).st = .retiring → (begun.range y.handle).gen = y.gen →
                   y.opcode = 0x42 → (begun.markStale y.handle).moveLost y = none →
                   exec i s = .next (((begun.markStale y.handle).moveRange y).retire y 0 0)))
           ∧ (s.running? d [0x42] = some x → adviseOp x.bytes = 2 → s.adviseRefused x = none →
               (s.moveLost x = none → exec (.advisePrefetch d) s = .next ((s.moveRange x).setDesc { x with st := .prepared }))
                 ∧ (∀ row, s.moveLost x = some row → exec (.advisePrefetch d) s = .next (s.rowLost x row)))
           ∧ ((s.range h).gen ≠ x.gen → s.adviseRefused x = some (0x11, 0))
           ∧ (s.desc? d = some x → x.st = .prepared → x.opcode = 0x42 → adviseOp x.bytes = 2 → s.serving = true →
               (s.useCount h x.gen = 0 → exec (.prefetchOldGenDrained d) s = .next (s.retire x 0 0))
                 ∧ (s.useCount h x.gen ≠ 0 → exec (.prefetchOldGenDrained d) s = .next s))
           ∧ (∀ v : RangeEnt, v ≠ RangeEnt.reset → v = { s.range h with
                 st := .valid, was := .invalid, held := false, base := x.field 24 8, tier := bitsOf (byteOf x.bytes 32) 0 2, res := true,
                 gen := BitVec.ofNat 16 (x.field 20 2) } → (s.moveRange x).range h = v))

/-- ADVISE REPLY: each named fault's stream resumes (RESUME) or ends with its context (FAIL), in turn, and the reply retires
OK if it still stands; a generation that differs ends it RANGE_STALE, a reply that names no pending fault is ALREADY_DONE,
and one that names another handle's fault is BAD_DESC. A resumed stream whose range is not resident waits again without an
id; its descriptor runs once none of its streams is halted. A failed one ends its context with RANGE_FAULT, which every
descriptor that the reply fails has noted before the first teardown. A range fault's record: the oldest of its partition that
waits is sent with the next id free to the next entry of the fault ring, then behind a FENCE PROD and then the message, once
the ring has room; a quarantine's record ends with it. The mirror sweep quarantines a VALID entry that differs in the same
way twice; an entry damaged in the engine is brought back from its mirror of the same generation. -/
def Obligations.RangeFaultsAreRecordedSweptAndAnswered : Prop :=
  (∀ (s : State) (d : Did) (x : Desc), 
     (∀ (fail : Bool) (i : Instr), (fail, i) ∈ [(false, Instr.adviseReplyResume d), (true, .adviseReplyFail d)] →
       s.running? d [0x42] = some x → adviseOp x.bytes = 3 → bitOf (byteOf x.bytes 9) 0 = fail →
       (s.range x.handle).gen ≠ x.gen → exec i s = .next (s.retire x 0x11 0))
       ∧ (s.running? d [0x42] = some x → adviseOp x.bytes = 3 →
       s.ownsHandle (s.partOf x) x.handle = true → (s.range x.handle).gen = x.gen →
       ∀ (fail : Bool) (i : Instr) (act : State → PFault → State),
         (fail, i, act) ∈ [(false, Instr.adviseReplyResume d, State.resumeStream), (true, .adviseReplyFail d, State.failStream)] →
         bitOf (byteOf x.bytes 9) 0 = fail →
         (s.replyFaults x = [] → exec i s = .next (s.retire x 0x02 0))
           ∧ ((∃ f ∈ s.replyFaults x, f.handle ≠ x.handle) → exec i s = .next (s.retire x 0x03 10))
           ∧ ((∀ f ∈ s.replyFaults x, f.handle = x.handle) → s.replyFaults x ≠ [] →
               let u := (s.replyFaults x).foldl act (if fail then (s.replyFaults x).foldl State.noteFailed s else s)
               (∀ y, u.desc? d = some y → exec i s = .next (u.retire y 0 0)) ∧ (u.desc? d = none → exec i s = .next u)))
       ∧ (∀ f : PFault,
           let u := { s with faults := s.faults.filter (fun g => g != f) }
           ((s.range f.handle).res = false → s.resumeStream f = { u with faults := u.faults ++ [{ f with id := none }] })
             ∧ ((s.range f.handle).res = true → ∀ e y, f.d = some e → s.desc? e = some y →
                 let r := u.resolveMissing f.part (keepTrans y.trans (transOf f.handle (s.range f.handle))) y.bytes
                 (r.status = none → s.resumeStream f = u.openDesc
                     { y with st := if u.faults.any (fun g => g.d == some y.did) then .halted else .running, trans := r.trans })
                   ∧ (∀ q, r.status = some q → s.resumeStream f = (u.stopKernel y).retire y q.1 q.2))
             ∧ (f ∉ s.faults → s.failStream f = s)
             ∧ (f ∈ s.faults → f.d.bind u.loopOf = none → ∀ e, f.d = some e →
                 s.failStream f = (u.noteStatus e 0x10 0).tearDown f.ctx 0x10 0xFF 0 f.d)
             ∧ (f ∈ s.faults → ∀ n, f.d.bind u.loopOf = some n →
                 s.failStream f = (u.noteLoop n 0x10).tearDown f.ctx 0x10 0xFF 0 f.d)))
    ∧ ((∀ (s : State) (part : Nat) (f : PFault) (id : Nat),
         let p := s.part part
         let i := p.faultProd.toNat % 2 ^ p.fl
         s.faults.find? (fun f => f.part == part && f.id.isNone) = some f →
         freeId (s.faults.filterMap PFault.id) Config.maxFaults s.nextFault = some id →
         part < 8 → s.serving = true → ringRoom p.fl p.faultProd (s.faultCons part) = true →
         pastEnd p.fbase (ringSpan p.fl 32) = false → pastEnd p.fmsg 4 = false →
         ∃ t, exec (.rangeFaultRecord part) s = .next t ∧ t.nextFault = (id + 1) % 4096
           ∧ t.faults = (if f.reason = 0 then s.faults.erase f ++ [{ f with id := some id }] else s.faults.erase f)
           ∧ t.parts = (s.setPart part { p with faultProd := p.faultProd + 1 }).parts
           ∧ (let u := (((s.setPart part { p with faultProd := p.faultProd + 1 }).bobWrite (portOf p.fbase) (p.fbase + 128 + 32 * i)
                   (faultBytes f id) false none).bobWrite (portOf p.fbase) p.fbase (natLe 4 (p.faultProd + 1).toNat) true none).bobWrite
                   (portOf p.fbase) p.fmsg (natLe 4 p.fdata.toNat) true none;
               t.ports = u.ports ∧ t.smalls = u.smalls)
           ∧ t = { s with ports := t.ports, smalls := t.smalls, parts := t.parts, faults := t.faults, nextFault := t.nextFault })
         ∧ ∀ (s : State) (h : Nat), h < 16384 → s.serving = true →
             let e := s.range h
             let bs := s.mirrorAt h
             let now := s.sweepFinds h
             let u := { s with sweep := putAt 0 s.sweep h now }
             (now = 0 ∨ now ≠ getAt 0 s.sweep h → exec (.mirrorSweep ⟨h, false⟩) s = .next u)
               ∧ (now ≠ 0 → now = getAt 0 s.sweep h → ∃ t, exec (.mirrorSweep ⟨h, false⟩) s = .next t
                   ∧ t.range h = { e with st := .quarantined } ∧ t = { u with ranges := t.ranges, faults := t.faults, log := t.log })
               ∧ (e.st = .invalid → exec (.mirrorSweep ⟨h, true⟩) s = .next s)
               ∧ (e.st ≠ .invalid → mirrorIntact bs = true → fieldOf bs 16 2 = e.gen.toNat → ∃ t, exec (.mirrorSweep ⟨h, true⟩) s = .next t
                   ∧ t.range h = { mirrorEnt bs with st := e.st, was := e.was, held := e.held } ∧ t = { s with ranges := t.ranges, log := t.log })
               ∧ (e.st ≠ .invalid → (mirrorIntact bs = false ∨ fieldOf bs 16 2 ≠ e.gen.toNat) → ∃ t, exec (.mirrorSweep ⟨h, true⟩) s = .next t
                   ∧ t.range h = { e with st := .quarantined } ∧ t = { s with ranges := t.ranges, faults := t.faults, log := t.log }))

/-- SEM_OP, on the kernel that its context had when it was dequeued: a POST adds to a count of a claimed pair and retires; a
WAIT takes its amount once the count holds it; a pair that the kernel has not claimed ends in a fault. -/
def Obligations.SemaphoreOperationsComplete : Prop :=
  ∀ (s : State) (d : Did) (x : Desc), s.running? d [0x48] = some x →
    let o := semOpOf x.bytes
    let k := s.core o.core
    let p := k.pair o.pair
    (s.kernel x.ctx).live = true → k.ctx = some x.ctx → x.semKernel = some (s.kernel x.ctx).d →
    (p.claimed = false → (o.wait = false → exec (.semOpPost d) s = .next (s.tearDown x.ctx 0x23 o.core o.core (some x.did)))
      ∧ (o.wait = true → exec (.semOpWait d) s = .next (s.tearDown x.ctx 0x23 o.core o.core (some x.did))))
    ∧ (p.claimed = true → o.wait = false →
        (p.get o.isEmpty + o.amount < 2 ^ 32 → exec (.semOpPost d) s =
            .next ((s.setCore o.core (k.setPair o.pair (p.put o.isEmpty (p.get o.isEmpty + o.amount)))).retire x 0 0))
          ∧ (2 ^ 32 ≤ p.get o.isEmpty + o.amount → exec (.semOpPost d) s = .next (s.tearDown x.ctx 0x23 o.core o.core (some x.did))))
      ∧ (p.claimed = true → o.wait = true →
          (p.get o.isEmpty < o.amount → exec (.semOpWait d) s = .next s)
            ∧ (o.amount ≤ p.get o.isEmpty → exec (.semOpWait d) s =
                .next ((s.setCore o.core (k.setPair o.pair (p.put o.isEmpty (p.get o.isEmpty - o.amount)))).retire x 0 0)))

/-- LOOP: a fifth loop of a partition ends NO_RESOURCE and a block that breaks its rules BAD_DESC; otherwise, where its
references and its models are good and their slots free, the loop stands in a free place with its block, its records and its
rings' counts, and its descriptor leaves its ring. A loop's step, at its context's turn between two kernel boundaries, its
clusters having power and none of its kernels running or having yielded: requests are taken up to the model's limits and to
what the admission consumes, the step waits where the token ring lacks room or the admission must wait, then admission, the
models, the sequences' conclusions, the token entries and the request count follow in that order, and the loop's step count
goes up by one; its cores' bubbles are counted. The commands that its control core sends carry a check value, which fails
once, made again, or twice, an expiry of the core. A loop that waits for requests: the read of its request ring that followed
the arming of its watch returns, and it goes on where the PROD word has moved. -/
def Obligations.LoopsStartStepAndResume : Prop :=
  (∀ (s : State) (d : Did) (x : Desc), s.running? d [0x50] = some x →
     let blk := rdRun (x.field 8 8) 0 128
     let bs := s.fetchRun s.store x blk
     let b := loopBlk bs
     let strip := fun (es : List (List Byte)) => es.flatMap (List.take 128)
     (4 ≤ s.partLoops (s.partOf x) → exec (.loop d) s = .next (s.retire x 0x04 0))
       ∧ (s.partLoops (s.partOf x) < 4 → s.firstBad x [blk] = none → b.ok bs = false → exec (.loop d) s = .next (s.retire x 0x03 0xFFFF))
       ∧ (s.partLoops (s.partOf x) < 4 → s.firstBad x [blk] = none → b.ok bs = true →
           ∀ y m z u g v, s.loopRefs x b.refs = .ok y → (b.cont = true → s.watchable y b.req = true) → s.readModel y b.mrec b.step b.maxSeq b.nd = .ok m →
             (b.drafts = true → s.readModel m.1 b.drec b.dstep b.maxSeq 0 = .ok z ∧ (modelRec m.2.1).vocab = (modelRec z.2.1).vocab
               ∧ (b.dslot = b.mslot → (modelRec m.2.1).mcrc = (modelRec z.2.1).mcrc)) → (b.drafts = false → z = (m.1, [], [])) →
             s.install (s.partOf x) b.mslot m.2.1 (strip m.2.2) = .ok u →
             (b.drafts = true → u.install (s.partOf x) b.dslot z.2.1 (strip z.2.2) = .ok g) → (b.drafts = false → g = u) →
             g.firstBad z.1 [rdRun b.req 64 4] = none → g.firstBad z.1 [rdRun b.tok 0 4] = none →
             v = { LoopSt.reset with
               live := true, d := z.1.did, desc := z.1, block := bs, mrec := m.2.1, drec := z.2.1,
               reqCons := BitVec.ofNat 32 (leNat (g.fetchRun g.store z.1 (rdRun b.req 64 4))),
               tokProd := BitVec.ofNat 32 (leNat (g.fetchRun g.store z.1 (rdRun b.tok 0 4))), klist := g.installed b.mslot m.2.2,
               cring := (g.sub z.1.ring).cring,
               dklist := if b.drafts then g.installed b.dslot z.2.2 else [] } →
             exec (.loop d) s = .next ((g.setLoop g.freeLoop v).removeDesc z.1.did)))
    ∧ (∀ (s : State) (n : Nat),
         let l := s.loopAt n
         let b := l.blk
         let ctx := l.desc.ctx
         let u := (s.takeTurn ctx).kernelBoundary ctx true
         let after := fun (t : State) =>
           let w := (t.ctxCores ctx).foldl State.countBubbles t
           w.kernelBoundary ctx (w.kernelReady ctx)
         s.loopLive n = true →
         ((∀ q, (l.aborting = true ∧ l.inStep = false) ∨ s.loopReady l = true →
             exec (.loopStep ⟨n, .again, q⟩) s = .next ((s.loopRetried n).loopRead n q)
               ∧ exec (.loopStep ⟨n, .matched, q⟩) s = .next (s.loopRead n q)
               ∧ ∀ ok, exec (.loopStep ⟨n, .failed ok, q⟩) s = .next (s.ccoreExpiry (s.ctx ctx).owner ok)))
           ∧ (s.loopReady l = true ↔ l.idle = false ∧ s.turnFree ctx = true ∧ s.clustersUp ctx = true
               ∧ (s.kernel ctx).live = false ∧ (s.kernel ctx).paused = false)
           ∧ (l.aborting = false → s.loopReady l = true → u.loopAt n = l →
           ∀ prod, u.reqProd l = .ok prod →
             let m := min (2 ^ b.lreq) (prod - l.reqCons).toNat
             (u.planStep l (m + 1) m = .error .waits → exec (.loopStep ⟨n, .matched, .clean⟩) s = .next (after u)) ∧
           ∀ i p, u.planStep l (m + 1) m = .ok (i, p) →
             let seqs := (p.held ++ p.adm.joined.map (fun q => (q, Held.go))).map
               (fun h => if p.adm.failed.contains h.1.tag then (h.1, Held.ends 7) else h)
             let runs := fun (h : LoopSeq × Held) => h.2 == .go && !(p.adm.stalled.contains h.1.tag)
             let acts := seqs.zipIdx.filterMap (fun h => if runs h.1 then some { who := h.2, q := h.1.1 : Actor } else none)
             let r0 : StepRun := { state := p.adm.state, drafts := [], ended := [], flags := noFlags, drafted := [], retried := false }
             (∀ r out v outs w k y t,
                   r0.models l acts (seqs.filter (fun h => h.2 == .go || h.2 == .waits)).length = .ok (r, out) →
                   r.concludeAll l out (seqs.zipIdx.map (fun h => (h.1, if runs h.1 then some h.2 else none))) = .ok (v, outs) →
                   let fl := r.keptFlags ((outs.map SeqOut.accepted).foldl max 0)
                   let toks := outs.flatMap SeqOut.toks
                   let used := (consumed i p).1
                   (v.raiseOn ctx fl.array fl.sfu).putTokens l ((consumed i p).2 ++ toks) = .ok (w, k) →
                   (if used = 0 then .ok w else w.putRing k.desc b.req 64 (natLe 4 (k.reqCons + BitVec.ofNat 32 used).toNat) false) = .ok y →
                   y.boundary n { k with
                     seqs := outs.filterMap SeqOut.next, leaves := p.adm.orphans ++ outs.flatMap SeqOut.leaves, step := k.step + 1,
                     reqCons := k.reqCons + BitVec.ofNat 32 used, inStep := false, image := [],
                     stallRun := if stepStuck p seqs acts then k.stallRun + 1 else 0,
                     desc := { k.desc with flags := k.desc.flags ||| fl.own,
                                           status := if r.retried then mergeStatus k.desc.status 0x31 else k.desc.status },
                     counts := addCounts k.counts
                       [1, (toks.filter (fun t => !t.isEnd)).length, b.nd * (acts.filter (fun a => !a.q.prompting)).length,
                        (outs.map SeqOut.accepted).sum, p.adm.joined.length, p.adm.deferred.length, p.adm.stalled.length,
                        (toks.filter TokEnt.isEnd).length] } = .ok t →
                   exec (.loopStep ⟨n, .matched, .clean⟩) s = .next (after t)))
           ∧ (∀ fuel k, ∀ i room, u.takeReqs l k { taken := 0, joins := [], ends := [], cancels := [], lastCancel := 0 } = .ok i →
               u.tokRoom l = .ok room →
               let need := (b.nd + 2) * (l.seqs.length + i.joins.length) + i.ends.length
               let p := u.loopAdmit l i
               (room < need ∨ u.admitWaits l i = true → u.planStep l (fuel + 1) k = .error .waits)
                 ∧ (need ≤ room → u.admitWaits l i = false → p.adm.bad = [] →
                     ((consumed i p).1 < i.lastCancel → (consumed i p).1 + 1 < k →
                         u.planStep l (fuel + 1) k = u.planStep l fuel ((consumed i p).1 + 1))
                       ∧ (i.lastCancel ≤ (consumed i p).1 ∨ k ≤ (consumed i p).1 + 1 → u.planStep l (fuel + 1) k = .ok (i, p))))
           ∧ (l.aborting = true → l.inStep = false → ∀ room, s.tokRoom l = .ok room →
               (room < l.seqs.length → exec (.loopStep ⟨n, .matched, .clean⟩) s = .next s)
                 ∧ (l.seqs.length ≤ room → ∀ t, s.endAllSeqs n l 4 0x01 = .ok t → exec (.loopStep ⟨n, .matched, .clean⟩) s = .next t))
           ∧ (l.aborting = false → s.loopReady l = false → ∀ c q, exec (.loopStep ⟨n, c, q⟩) s = .next s))
    ∧ (∀ (s : State) (n : Nat),
         let l := s.loopAt n
         let r := rdRun l.blk.req 0 4
         (∀ p, s.loopLive n = true → l.idle = true → s.watchOut (64 + n) .rd = some p →
             let u := (s.watchDone p).readSeen (64 + n)
             let prod := BitVec.ofNat 32 (leNat (u.fetchRun u.store l.desc r))
             u.firstBad l.desc [r] = none →
             (prod ≠ l.reqCons → exec (.loopResume n) s = .next ((u.setLoop n { l with idle := false }).endWatch (64 + n)))
               ∧ (prod = l.reqCons → exec (.loopResume n) s = .next u))
           ∧ (l.idle = false ∨ s.watchOut (64 + n) .rd = none → exec (.loopResume n) s = .next s))

/-- Sampled tokens: with TEMP +0 the token is the lowest index of the largest logit; the leading drafts that agree are
accepted; emission stops at a stop token or the limit, and no more tokens than the limit are emitted. -/
def Obligations.SamplingAcceptanceAndEmission : Prop :=
  (∀ (v : SfuEnv) (k : SampleCtl) (pos : Nat) (xs : List Nat), k.temp = 0 → rowNonfinite xs = false →
      ∃ i, sampleRow v k pos xs = some i ∧ i < xs.length ∧ (∀ x ∈ xs, numLt (xs.getD i 0) x = false)
        ∧ ∀ j, j < i → numLt (xs.getD j 0) (xs.getD i 0) = true)
    ∧ (∀ (ds ts : List Nat), accepted ds ts ≤ min ds.length ts.length ∧ ds.take (accepted ds ts) = ts.take (accepted ds ts)
      ∧ ∀ d t, ds[accepted ds ts]? = some d → ts[accepted ds ts]? = some t → d ≠ t)
    ∧ ∀ (stops : List Nat) (n : Nat) (ts : List Nat),
        let r := emit stops n ts
        r.1.map Prod.fst = ts.take r.1.length ∧ r.1.length ≤ n ∧ (r.2 = none → r.1.length = ts.length ∧ ts.length < n)
          ∧ (∀ p ∈ r.1, p.2 = stops.contains p.1) ∧ (∀ p ∈ r.1.dropLast, p.2 = false)
          ∧ (r.2 = some 0 → ∃ p, r.1.getLast? = some p ∧ p.2 = true)

/-- Function tables: TABLE_LOAD checks its image and then writes the inactive bank of its slot on every named core;
TABLE_SWAP of slots that are the context's and loaded, and that no swap before it will flip, waits, after the loads dequeued
before it; TABLE_SWAP_FLIP exchanges the banks on each named core at that core's boundary, and retires the swap when every
named core has flipped; a reloaded seed table takes over at the core's kernel boundary. -/
def Obligations.TablesLoadSwapAndFlip : Prop :=
  ∀ (s : State) (d : Did) (x : Desc),
    let cs := maskOnes (x.field 16 4) 32
    let ks := maskOnes (x.field 8 8) 64
    (s.running? d [0x58] = some x →
        let slot := bitsOf (byteOf x.bytes 20) 0 6
        let r := rdRun (x.field 8 8) 0 256
        let img := s.fetchRun s.store x r
        (s.swapPending x slot = true → exec (.tableLoad d) s = .next s)
          ∧ (s.swapPending x slot = false → s.firstBad x [r] = none →
              (cs.all (fun c => s.slotMine x.ctx c slot) = false → exec (.tableLoad d) s = .next (s.retire x 0x03 20))
                ∧ (cs.all (fun c => s.slotMine x.ctx c slot) = true →
                    (crc32c img = x.field 24 4 → microImageOk img = true → exec (.tableLoad d) s =
                        .next ((cs.foldl (fun t c => t.loadSlot slot img c) s).retire x 0 0))
                      ∧ (crc32c img ≠ x.field 24 4 ∨ microImageOk img = false →
                          exec (.tableLoad d) s = .next (s.retire x 0x03 0xFFFF)))))
      ∧ (s.running? d [0x59] = some x →
          (s.loadPending x = true → exec (.tableSwap d) s = .next s)
            ∧ (s.loadPending x = false → (∀ k ∈ ks, cs.all (s.slotReady x k) = true) →
              exec (.tableSwap d) s = .next (s.setDesc { x with st := .prepared }))
            ∧ (s.loadPending x = false → ∀ k, ks.find? (fun k => !cs.all (s.slotReady x k)) = some k →
                exec (.tableSwap d) s = .next (s.retire x 0x03 (8 + k / 8))))
      ∧ (s.desc? d = some x → x.st = .prepared → x.opcode = 0x59 → s.serving = true →
          let due := s.flipsDue x
          let u := due.foldl (fun t c => ks.foldl (fun t k => t.flipSlot c k) t) s
          let y := { x with prog := x.prog + (due.map (2 ^ ·)).sum }
          (cs.all (fun c => y.prog.testBit c) = true → exec (.tableSwapFlip d) s = .next ((u.setDesc y).retire y 0 0))
            ∧ (cs.all (fun c => y.prog.testBit c) = false → exec (.tableSwapFlip d) s = .next (u.setDesc y)))
      ∧ (∀ core fn : Nat, core < 32 → s.serving = true → ((s.core core).seedTab fn).recovery = true →
          let k := { s.core core with seeds := putAt SeedTab.reset (s.core core).seeds fn { (s.core core).seedTab fn with loaded := true } }
          exec (.seedTableReload core fn) s = .next (s.setCore core (if k.ctx = none then k.flipSeeds else k)))

/-! ### Kernels by steps -/

/-- KERNEL_START. A plan on a cluster that is fused off ends the kernel BAD_DESC. A kernel that is ready, whose parameter
block and SS ranges are good and whose plan fits its areas is placed: its clusters pass a boundary and it is live on its
cores. A block or an SS range that is refused ends it with that status, a bank map or a region that does not fit ends it
BAD_DESC, and a bank that another context holds tears its context down. A paused kernel is taken up again. The SEM_OPs that
wait for a kernel on its cores are its own then. KERNEL_END stores the histogram, releases what the kernel held and retires
it. Piste tables: the HEAD is checked once, and a table whose check fails twice is an expiry of its control core, whatever
the check of the instruction memory then finds; a LOOP word that stands at the sequencer's place and keeps its rules is
entered, a SKEIN word that does makes its body the skeins' and lets the sequencer go on after it, and they stop the table
otherwise; NOP and END at the head of a core's queue are performed, and a reserved opcode there stops the table. The
sequencer writes the step at its place into the queues of the cores that its CMASK names, once each has room, and goes on to
the next; a step that breaks its rules stops the table, and a step behind the skeins is marked so. A step done at the head of
a queue (one marked is at the head once its core's skeins are over) is repeated RPT times more, then leaves the queue and
lets the sequencer go on. -/
def Obligations.KernelsStartAndTheSequencerRuns : Prop :=
  (∀ (s : State) (d : Did) (x : Desc) (plan : Plan),
     (s.running? d [0x01, 0x02, 0x03, 0x04, 0x05, 0x06, 0x07] = some x →
       let p := s.startPlan x plan
       let u := (s.takeTurn x.ctx).kernelBoundary x.ctx true
       (s.kernelTurn x = true → (s.kernel x.ctx).live = false → s.planAbsent p = true →
           exec (.kernelStart d plan) s = .next (s.retire x 0x03 0xFFFF))
         ∧ (s.planAbsent p = false → planOk p (s.ctxCores x.ctx) = true → s.slotsTaken x.ctx p = false → s.startReady x p = true →
             (∀ w, s.resuming x = false → s.blockRefused x = some w → exec (.kernelStart d plan) s = .next (s.conclude x w))
               ∧ ((s.resuming x = false → s.blockRefused x = none) →
                   (∀ w, s.ssRefused x p = some w → exec (.kernelStart d plan) s = .next (s.conclude x w))
                     ∧ (s.ssRefused x p = none →
                         (p.cores.all (s.planFits x.ctx) = false → exec (.kernelStart d plan) s = .next (s.retire x 0x03 0xFFFF))
                           ∧ (p.cores.all (s.planFits x.ctx) = true →
                               (∀ c, p.cores.find? (fun c => (s.core c.core).mapClash x.ctx c) = some c →
                                   exec (.kernelStart d plan) s = .next (s.tearDown x.ctx 0x24 c.core c.core (some x.did)))
                                 ∧ (p.cores.find? (fun c => (s.core c.core).mapClash x.ctx c) = none →
                                     let bound := fun (t : State) => t.bindSems x.ctx (p.cores.map CorePlan.core) x.did
                                     (s.resuming x = false → exec (.kernelStart d plan) s = .next (bound (u.placeKernel x p))
                                       ∧ ((u.placeKernel x p).kernel x.ctx).live = true
                                       ∧ ((u.placeKernel x p).kernel x.ctx).d = x.did ∧ ((u.placeKernel x p).kernel x.ctx).plan = p)
                                     ∧ (s.resuming x = true → exec (.kernelStart d plan) s = .next (bound (u.resumeKernel x)))))))))
       ∧ (∀ ctx : Nat, ctx < 32 → s.serving = true →
           (s.kernelOver ctx = true → s.histBad ctx = none → exec (.kernelEnd ctx) s = .next (s.endKernel ctx))
             ∧ (∀ y r a, s.kernelOver ctx = true → s.histBad ctx = some (y, r, a) →
                 exec (.kernelEnd ctx) s = .next (s.conclude y (workOfAcc r a)))
             ∧ (s.kernelOver ctx = false → exec (.kernelEnd ctx) s = .next s)))
    ∧ (∀ (s : State) (cluster ctx core : Nat) (st : Step) (x : Desc),
         let p := s.pisteAt cluster ctx
         (s.pisteDesc cluster ctx = some x → p.checked = false →
             let q := { p with checked := true, cur := { pc := p.nstr + 1, frames := [] } }
             (p.crcOk = true → p.headOk = true →
                 exec (.pisteHead cluster ctx .matched) s = .next ((s.setPiste cluster ctx q).feed cluster ctx feedFuel)
                   ∧ exec (.pisteHead cluster ctx .again) s =
                       .next (((s.tableRetried x).setPiste cluster ctx q).feed cluster ctx feedFuel))
               ∧ (∀ ok, exec (.pisteHead cluster ctx (.failed ok)) s = .next (s.ccoreExpiry (s.ctx ctx).owner ok))
               ∧ (p.crcOk = false → ∀ b, (∀ ok, b ≠ .failed ok) →
                   exec (.pisteHead cluster ctx b) s = .next (s.ccoreExpiry (s.ctx ctx).owner true))
               ∧ (p.crcOk = true → p.headOk = false → ∀ b, (∀ ok, b ≠ .failed ok) →
                   exec (.pisteHead cluster ctx b) s = .next (s.pisteStop x)))
           ∧ (s.pisteDesc cluster ctx = some x → p.standsAt st 0x02 = true →
               (p.loopOk p.cur.pc p.cur.frames.length = true → exec (.pisteLoop cluster ctx st) s =
                   .next ((s.setPiste cluster ctx { p with cur := p.cur.enter }).feed cluster ctx feedFuel))
                 ∧ (p.loopOk p.cur.pc p.cur.frames.length = false → exec (.pisteLoop cluster ctx st) s = .next (s.pisteStop x)))
           ∧ (s.pisteDesc cluster ctx = some x → p.standsAt st 0x03 = true →
               (p.skeinOk p.cur.pc = true → exec (.pisteSkein cluster ctx st) s =
                   .next ((s.setPiste cluster ctx { p with
                     skein := some p.cur.pc, cur := { pc := p.cur.pc + bodyLen (p.word p.cur.pc) + 1, frames := [] } }).feed
                       cluster ctx feedFuel))
                 ∧ (p.skeinOk p.cur.pc = false → exec (.pisteSkein cluster ctx st) s = .next (s.pisteStop x)))
           ∧ (s.issuing core st = some x →
               (stepOp st.word = 0x00 → stepReserved st.word 0 = true → exec (.pisteNop core st) s = .next (s.stepDone core))
                 ∧ (stepOps.contains (stepOp st.word) = false → exec (.pisteNop core st) s = .next (s.pisteStop x))
                 ∧ (stepOp st.word = 0x01 → stepReserved st.word 0 = true → exec (.pisteEnd core st) s =
                     .next ((s.setCore core { s.core core with endIssued := true }).stepDone core))))
    ∧ (∀ (s : State) (cluster ctx n c : Nat) (x : Desc),
         let p := s.pisteAt cluster ctx
         (s.pisteDesc cluster ctx = some x →
             (p.act cluster = .stop → s.feed cluster ctx (n + 1) = s.pisteStop x)
               ∧ (p.act cluster = .wait → s.feed cluster ctx (n + 1) = s)
               ∧ (∀ cs last, p.act cluster = .write cs last →
                   ((∀ i ∈ cs, (s.core i).queue.length < 16) → s.feed cluster ctx (n + 1) =
                       ((s.enqueue cs { word := p.cur.pc, loops := p.cur.loops, after := p.skein.isSome }).setPiste cluster ctx
                         { p with cur := p.next p.cur, done := last }).feed cluster ctx n)
                     ∧ ((∃ i ∈ cs, 16 ≤ (s.core i).queue.length) → s.feed cluster ctx (n + 1) = s)))
           ∧ ((s.core c).ctx = some ctx → ∀ e es, (s.core c).queue = e :: es → (e.after = false ∨ ∀ v ∈ (s.core c).skeins, v.2.st = .none) →
               let k := { s.core c with hold := none, streamAt := 0 }
               let w := (s.pisteAt (c / 4) ctx).word e.word
               (k.rep < stepRpt w → s.stepDone c = s.setCore c { k with rep := k.rep + 1 })
                 ∧ (stepRpt w ≤ k.rep → s.stepDone c =
                     (s.setCore c { k with queue := es, rep := 0 }).feed (c / 4) ctx feedFuel)))

/-- Skeins: the lowest unstarted one starts on free tiles, ready where the slot it takes first is full and else parked on
that region; none starts once the budget has expired. Of the ready ones the one that has waited longest runs, while none
runs; a running one whose body is done and none of whose DMA streams is parked frees its slot. -/
def Obligations.SkeinsStartRunAndFinish : Prop :=
  ∀ (s : State) (c n ctx q : Nat), s.skeinBody c = some (ctx, q) →
    let k := s.core c
    let v := k.skein n
    let e := s.pisteAt (c / 4) ctx
    (∀ t, k.freeTiles v.tiles = some t → v.st = .unstarted → (∀ p ∈ k.skeins, p.1 < n → p.2.st ≠ .unstarted) →
        (s.ctx ctx).expired = false →
        let w := { v with since := k.stamp, tile := t, cur := { pc := q + 1, frames := [] }, rep := 0, stats := [] }
        (e.firstTake (c % 4) q = none → exec (.skeinStart c n) s =
            .next (s.setCore c { k.setSkein n { w with st := .ready } with stamp := k.stamp + 1 }))
          ∧ (∀ r, e.firstTake (c % 4) q = some r →
              (((getAt Region.reset k.regions r).toTake (some n)).isSome = true → exec (.skeinStart c n) s =
                  .next (s.setCore c { k.setSkein n { w with st := .ready } with stamp := k.stamp + 1 }))
                ∧ (((getAt Region.reset k.regions r).toTake (some n)).isSome = false → exec (.skeinStart c n) s =
                    .next (s.setCore c { k.setSkein n { w with st := .parked, wait := some r } with stamp := k.stamp + 1 }))))
      ∧ ((s.ctx ctx).expired = true → exec (.skeinStart c n) s = .next s)
      ∧ (∀ m, k.nextSkein = some m → k.runningSkein = none → exec (.skeinDispatch c) s =
          .next (s.setCore c (k.setSkein m { k.skein m with st := .running })))
      ∧ (k.runningSkein ≠ none → exec (.skeinDispatch c) s = .next s)
      ∧ (v.st = .running → k.hold = none → (∀ t ∈ k.streams, t.skein ≠ some n) → q + bodyLen (e.word q) < (e.skeinPlace (c % 4) q v).pc →
          exec (.skeinFinish c n) s = .next (s.setCore c (k.setSkein n Skein.reset)))
      ∧ (∀ m, k.nextSkein = some m → ∃ w, (m, w) ∈ k.skeins ∧ w.st = .ready ∧ ∀ p ∈ k.skeins, p.2.st = .ready → w.since ≤ p.2.since)

/-- A step that its core issues, none of its DMA streams being parked: where it can go on it is performed and is done at the
head of its queue, where it must wait the queue holds it, and where its first overflow is met the context is torn down with
that status; a nonzero reserved bit stops the table. -/
def Obligations.StepsIssueHoldOrFault : Prop :=
  ∀ (s : State) (c : Nat) (st : Step) (x : Desc), s.issuing c st = some x →
    let after := fun (op : Nat) (r : StepRes) => match r with
      | .done t => (t.arrayCycles c op).stepDone c
      | .hold k => s.setCore c { s.core c with hold := some (k, st) }
      | .halt t => t.setCore c { t.core c with hold := some (.stream, st) }
      | .fault e => s.coreFault c e
      | .over t => t
    (∀ (op w : Nat) (i : Instr) (r : StepRes),
        (op, w, i, r) ∈ [(0x10, 51, Instr.pass c st, s.passStep c st x), (0x12, 28, .shload c st, s.shloadStep c st x),
          (0x14, 22, .mvec c st, s.mvecStep c st x), (0x15, 38, .mvmat c st, s.mvmatStep c st x), (0x20, 34, .sfu c st, s.sfuStep c st x),
          (0x21, 35, .epi c st, s.epiStep c st x), (0x30, 42, .dmain c st, s.dmainStep c st x),
          (0x31, 38, .dmaout c st, s.dmaoutStep c st x), (0x40, 23, .semw c st, s.semwStep c st),
          (0x41, 28, .semp c st, s.sempStep c st x), (0x42, 3, .rtake c st, s.rtakeStep c st x),
          (0x43, 3, .rrel c st, s.rrelStep c st x), (0x44, 61, .wopen c st, s.wopenStep c st x),
          (0x45, 2, .wclose c st, s.wcloseStep c st x)] →
        stepOp st.word = op → (s.parked c st = none ∨ (op ≠ 0x30 ∧ op ≠ 0x31)) →
        (stepReserved st.word w = true → exec i s = .next (after op r))
          ∧ (stepReserved st.word w = false → exec i s = .next (s.pisteStop x)))

/-- PASS, MVMAT, SHLOAD, SWAP and TCLR on a core whose banks, tiles and feeder queues admit them and whose reads are clean:
rows of results go to the accumulator memory, the shadow set is loaded, the sets exchange, a tile's rows are no longer valid.
MVEC, SFU and EPI where their banks and tiles admit them and what their checks find is clean: vectors into the vector buffer,
an SFU program's results (of a micro-program the converted rows) into the OSP or the feeder queues, an epilogue's rows into
the OSP, an SS window, memory or bolts, each with its flags. -/
def Obligations.ArrayVectorAndFunctionStepsComplete : Prop :=
  (∀ (s : State) (c : Nat) (st : Step) (x : Desc), s.issuing c st = some x → st.ecc = .clean →
     let k := s.core c
     let p := s.stepCtl x st (s.headRole c)
     let w := st.word
     let finished := fun (t : State) => (t.countBubbles c).stepDone c
     (stepOp w = 0x10 → stepReserved w 51 = true →
         let a := s.passArgs x.ctx st
         ∀ g, geomOf a.shape a.pair (max (widthClass p.wfmt) (widthClass p.sfmt)) = some g →
           let kk := s.passLive x p (a.shape == 3) g st.group
           let fed := if s.headFed c then fedPer g * a.rows else 0
           ∀ ats bs fats fs, (s.headFed c = true → ats = [] ∧ bs = k.fedBlock p g kk a.rows) →
             (s.headFed c = false → kk = 0 → ats = [] ∧ bs = []) →
             (s.headFed c = false → kk ≠ 0 → s.source c x.ctx a.src a.wrow (weftRows p kk a.rows) = (.ok, ats, bs)) →
             (a.fact = false → fats = [] ∧ fs = []) → (a.fact = true → s.source c x.ctx (.osp 4) a.frow 1 = (.ok, fats, fs)) →
             s.poisonedRow c (ats ++ fats) = none → k.tilesOk a.amt g.slices = true →
             (fed ≤ k.feed.length → exec (.pass c st) s = .next (finished ((s.passDo c st x p a g kk bs fs).takeFeed c fed)))
               ∧ (k.feed.length < fed → exec (.pass c st) s = .next (s.setCore c { k with hold := some (.feed, st) })))
       ∧ (stepOp w = 0x15 → stepReserved w 38 = true →
           let n := stepArg w 22 12 + 1
           let kk := k.mvpK p.wfmt
           let t := fieldAt st true (stepArg w 18 4)
           ∀ ats bs, s.source c x.ctx (if stepArg w 34 1 = 1 then .ss (s.kernelSsWin x.ctx (stepArg w 35 3)) else .osp 3)
               (fieldAt st false (stepArg w 0 18)) (blockRows (elemBytes p.sfmt kk) (if p.sscale then kk / 32 else 0) n) = (.ok, ats, bs) →
           s.poisonedRow c ats = none → k.tilesOk t (ceilDiv n 4096) = true →
           exec (.mvmat c st) s = .next (finished (s.mvmatDo c st x p t.toNat n bs)))
       ∧ (stepOp w = 0x12 → stepReserved w 28 = true → k.shdFull = false →
           ∀ (base : Int) (r : Nat) ats bs bts sc,
             (stepArg w 27 1 = 1 → k.takenRow x.ctx = some r ∧ base = (r : Int) - (k.area x.ctx).base) → (stepArg w 27 1 ≠ 1 → base = 0) →
             s.source c x.ctx (.osp 2) (base + fieldAt st false (stepArg w 0 13)) (lineBytes p.sfmt / 4) = (.ok, ats, bs) →
             (stepArg w 26 1 = 1 → s.source c x.ctx (.osp 2) (fieldAt st true (stepArg w 13 13)) (ceilDiv (tileScales p.sfmt) 512)
               = (.ok, bts, sc)) → (stepArg w 26 1 ≠ 1 → bts = [] ∧ sc = []) →
             s.poisonedRow c (ats ++ bts) = none → exec (.shload c st) s = .next (finished (s.setCore c
               { k with shd := { loaded := true, lines := bs, scales := sc }, shdFull := true })))
       ∧ (stepOp w = 0x11 → stepReserved w 0 = true →
           (k.shdFull = true → exec (.swap c st) s =
               .next (finished (s.setCore c { k with act := k.shd, shd := k.act, shdFull := false })))
             ∧ (k.shdFull = false → exec (.swap c st) s = .next (s.setCore c { k with hold := some (.swap, st) })))
       ∧ (stepOp w = 0x13 → stepReserved w 4 = true →
           let t := fieldAt st true (stepArg w 0 4)
           (k.tilesOk t 1 = true → exec (.tclr c st) s =
               .next (finished (s.setCore c { k with amValid := k.amValid.filter (fun n => n / 128 != t.toNat) })))
             ∧ (k.tilesOk t 1 = false → exec (.tclr c st) s = .next (s.coreFault c 0x21))))
    ∧ (∀ (s : State) (c : Nat) (st : Step) (x : Desc), s.issuing c st = some x → st.ecc = .clean → st.parity = .clean →
         let k := s.core c
         let w := st.word
         (stepOp w = 0x14 → stepReserved w 22 = true →
             let p := s.stepCtl x st (s.headRole c)
             let m := stepArg w 13 2 + 1
             let kk := 32 * (stepArg w 15 7 + 1)
             let b := elemBytes p.wfmt kk
             ∀ ats bs, s.source c x.ctx (.osp 3) (fieldAt st false (stepArg w 0 13)) (weftRows p kk m) = (.ok, ats, bs) →
               s.poisonedRow c ats = none →
               exec (.mvec c st) s = .next (((s.setCore c { k with mvp := (upTo m).map (fun i =>
                 packedRow bs b i ++ (if p.wscale then packedScales bs b (kk / 32) m i else List.replicate (kk / 32) 0))
                   }).countBubbles c).stepDone c))
           ∧ (stepOp w = 0x20 → stepReserved w 34 = true →
               let n := stepArg w 27 7 + 1
               let t := fieldAt st true (stepArg w 13 4)
               let orow := fieldAt st false (stepArg w 0 13)
               ∀ g, ((s.kernel x.ctx).plan.progs)[stepArg w 17 10]? = some g →
                 let cv := convOf g.conv
                 let need := s.sfuNeed x g t.toNat n
                 let u := s.noteRecovery c x need.uses
                 let v := (k.runningSkein.map Prod.snd).getD Skein.reset
                 ∀ r fr ats bs, (sfuAttn g.op = true → x.opcode = 0x01 ∧ k.actingSkein ≠ none) →
                   (g.feeds = true → r = 0) → (g.feeds = false → k.relRows x.ctx true 2 orow need.out = (.ok, r)) →
                   (need.factors = true → k.relRows x.ctx true 2 (orow + g.first) 1 = (.ok, fr)) → (need.factors = false → fr = 0) →
                   (need.osp ≠ 0 → s.source c x.ctx (.osp 4) (orow + g.first) need.osp = (.ok, ats, bs) ∧ s.poisonedRow c ats = none) →
                   (need.osp = 0 → ats = [] ∧ bs = []) → (need.tiles = 0 ∨ k.tilesOk t need.tiles = true) →
                   exec (.sfu c st) s = .next ((u.sfuStore c x g r fr (u.sfuOut c st x g v t.toNat n bs)).stepDone c)
                     ∧ (g.op = .map →
                         let p := u.passCtl x 0
                         let rows := (upTo n).map (fun i =>
                           let a := sfuInput g (u.sfuEnv c x) ((u.core c).readAm t.toNat i) bs n i
                           let y := mapFlags (microRun (u.sfuEnv c x) g.image) a.1
                           let o := convRowPart { cv with src := 0, sscale := false } p.iovf p.seed
                             (u.outPartOf x st (u.headRole c) i st.group 128) y.1 none (cv.supplied (u.scaleDraw 5) i 128)
                           { o with flags := a.2 ||| y.2 ||| o.flags })
                         u.sfuOut c st x g v t.toNat n bs =
                           { osp := packBlock (elemBytes cv.dst 128) (rows.map (fun o => pack cv.dst o.codes)) (rows.map RowOut.scales),
                             feed := rows.flatMap (fun o => feedRows cv.dst o.codes), factors := [], stats := [], rows := rows,
                             flags := orFlags (rows.map RowOut.flags) }))
           ∧ (stepOp w = 0x21 → stepReserved w 35 = true →
               ∀ xb, (s.kernel x.ctx).plan.xfers[stepArg w 27 8]? = some xb →
               let e := xferOf xb
               let t := fieldAt st true (stepArg w 18 4)
               let drow := fieldAt st false (stepArg w 0 18)
               let b := s.kernelEpi x
               let vecs := (if b.biasv then [s.vecRun x 0 st.group e.nx] else [])
                 ++ (if b.scalev then [s.vecRun x (b.scaleOff (s.kernelVec x)) st.group e.nx] else [])
               let u := s.noteRecovery c x (actUses (ctlAct b.ctl) (k.uprog (ctlAct b.ctl - 0x40)).image)
               let rows := u.epiRows c st x e e.word t.toNat
               let free := rows (fun i => e.word.supplied (u.scaleDraw 5) i e.nx)
               let done := fun (v : State) (rows : List RowOut) => exec (.epi c st) s =
                 .next ((v.sfuFlags c x (orFlags (rows.map RowOut.flags))).stepDone c)
               e.epiOk xb (stepArg w 22 2 == 2 && !s.toBolts x) = true → k.streaming = false → k.tilesOk t 1 = true →
                 s.firstBad x vecs = none →
                 (∀ r, stepArg w 22 2 = 0 → k.relRows x.ctx true 2 drow (blockSpan e e.ny) = (.ok, r) →
                     done ((u.writeRowsAt c r (rowsBlock e free)).noteTarget x e.word.dst free) free)
                   ∧ (∀ r, stepArg w 22 2 = 1 → s.ssRows c x.ctx (s.kernelSsWin x.ctx (stepArg w 24 3)) true drow (blockSpan e e.ny) = some r →
                       let v := u.putSsRows r (rowsBlock e free)
                       done ((v.setCore c { v.core c with loomDue := (v.core c).loomDue ++ [32] }).noteTarget x e.word.dst free) free)
                   ∧ (stepArg w 22 2 = 2 → s.toBolts x = true → st.group % 32 = 0 → s.badBoltRow st x e k.movedRows = none →
                       exec (.epi c st) s = .next (((u.boltStore c st x e t.toNat k.movedRows e.ny).1.sfuFlags c x
                         (u.boltStore c st x e t.toNat k.movedRows e.ny).2).stepDone c))
                   ∧ (stepArg w 22 2 = 2 → s.toBolts x = false → 0 ≤ drow → s.badRow x (e.rowRuns drow.toNat) (e.ny - k.movedRows) k.movedRows = none →
                       let z := drow.toNat
                       let all := rows (fun y => if e.word.dscale = 2 then u.fetchRun u.store x (e.supplied z y) else [])
                       let new := all.zipIdx.filter (fun r => k.movedRows ≤ r.2 && decide (r.2 < e.ny))
                       done ((u.withStore (new.foldl (fun m r => u.putOut x e m z r.2 r.1) u.store)).countStored x e (new.map Prod.fst)) all)))

/-- A store of a row into the accumulator memory makes that row valid with its patterns, and every other valid row keeps its
own. -/
def Obligations.AccumulatorRowsKeepTheirPlaces : Prop :=
  ∀ (k : Core) (t r t' r' : Nat) (vs : List Nat), r < 128 → r' < 128 → vs.length = 128 →
    (∀ v ∈ vs, v < 2 ^ 32) → tableWf blankByte k.am = true →
    (k.putAm t r vs).amRow t r = some vs ∧ ((t', r') ≠ (t, r) → (k.putAm t r vs).amRow t' r' = k.amRow t' r')

/-- SEMW, SEMP, RTAKE, RREL, WOPEN and WCLOSE where they go on, hold or fault, and the arrival of a post, which waits for
what its cluster sent to the same one before it. DMAIN and DMAOUT whose rows are allowed and resolve: their rows move, the
cursor goes past them, and SPOST posts; a DMAOUT to a window sends its blocks on the Loom; an entry that a parked stream uses
holds them. A queue held for too long ends its context. -/
def Obligations.SynchronisationAndDmaStepsComplete : Prop :=
  (∀ (s : State) (c : Nat) (st : Step) (x : Desc),
     let k := s.core c
     let w := st.word
     (s.issuing c st = some x →
         (stepOp w = 0x40 → stepReserved w 23 = true →
             let n := stepArg w 0 6
             let e := stepArg w 6 1 == 1
             let p := k.pair n
             (p.claimed = false → exec (.semw c st) s = .next (s.coreFault c 0x23))
               ∧ (p.claimed = true → p.marked = true → exec (.semw c st) s = .next (s.endKernelOn c 0x40))
               ∧ (p.claimed = true → p.marked = false →
                   (stepArg w 7 16 ≤ p.get e → exec (.semw c st) s =
                       .next ((s.setCore c (k.setPair n (p.put e (p.get e - stepArg w 7 16)))).stepDone c))
                     ∧ (p.get e < stepArg w 7 16 → exec (.semw c st) s = .next (s.setCore c { k with hold := some (.semw, st) }))))
           ∧ (stepOp w = 0x41 → stepReserved w 28 = true →
               let q : Post := { src := c, sent := 0, core := stepArg w 23 5, pair := stepArg w 0 6, isEmpty := stepArg w 6 1 == 1, amount := stepArg w 7 16,
                                 ctx := x.ctx }
               let t := s.core q.core
               (t.ctx = some x.ctx → (t.pair q.pair).claimed = true →
                   exec (.semp c st) s = .next (((s.setCore c { k with posts := k.posts ++ [q] }).sendPosts c).stepDone c))
                 ∧ ((t.ctx ≠ some x.ctx ∨ (t.pair q.pair).claimed = false) → exec (.semp c st) s = .next (s.coreFault c 0x23)))
           ∧ (stepOp w = 0x42 → stepReserved w 3 = true →
               (k.ownRegion x.ctx (stepArg w 0 3) = none → exec (.rtake c st) s = .next (s.coreFault c 0x22))
                 ∧ (∀ r, k.ownRegion x.ctx (stepArg w 0 3) = some r →
                     (∀ i, r.toTake k.actingSkein = some i → exec (.rtake c st) s = .next ((s.setCore c
                         { k.setRegion (stepArg w 0 3) { r with slots := r.slots.set i .held } with
                           lastTake := some (stepArg w 0 3, i) }).stepDone c))
                       ∧ (r.toTake k.actingSkein = none → k.actingSkein = none →
                           exec (.rtake c st) s = .next (s.setCore c { k with hold := some (.rtake, st) }))
                       ∧ (r.toTake k.actingSkein = none → k.actingSkein ≠ none →
                           exec (.rtake c st) s = .next (s.setCore c (k.parkSkein (stepArg w 0 3))))))
           ∧ (stepOp w = 0x43 → stepReserved w 3 = true → ∀ r, k.ownRegion x.ctx (stepArg w 0 3) = some r →
               (∀ i, r.oldest .held = some i → exec (.rrel c st) s =
                   .next ((s.setCore c (k.setRegion (stepArg w 0 3) (r.release i))).stepDone c))
                 ∧ (r.oldest .held = none → exec (.rrel c st) s = .next (s.coreFault c 0x22)))
           ∧ (stepOp w = 0x44 → stepReserved w 61 = true →
               let n := stepArg w 0 2
               let old := k.rwin n
               let base := stepArg w 2 13
               let rows := stepArg w 15 13 + 1
               let rd := stepArg w 28 1 == 1
               (k.openOk x.ctx base rows rd = false → exec (.wopen c st) s = .next (s.coreFault c 0x24))
                 ∧ (k.openOk x.ctx base rows rd = true → old.isOpen = true → old.ctx ≠ x.ctx →
                     exec (.wopen c st) s = .next (s.coreFault c 0x25))
                 ∧ (k.openOk x.ctx base rows rd = true → (old.isOpen = false ∨ old.ctx = x.ctx) →
                     (old.gen ≠ 0xFFFF ∨ (∀ d ∈ s.cores, c ∉ d.2.loomDue)) →
                     exec (.wopen c st) s = .next ((s.setCore c (k.setRwin n
                       { isOpen := true, rd := rd, ctx := x.ctx, base := base, bound := rows,
                         wmask := BitVec.ofNat 32 (stepArg w 29 32), gen := old.gen + 1 })).stepDone c)))
           ∧ (stepOp w = 0x45 → stepReserved w 2 = true →
               let n := stepArg w 0 2
               let old := k.rwin n
               ((old.isOpen = false ∨ old.ctx = x.ctx) → exec (.wclose c st) s =
                   .next ((s.setCore c (k.setRwin n { RWindow.reset with gen := old.gen })).stepDone c))
                 ∧ (old.isOpen = true → old.ctx ≠ x.ctx → exec (.wclose c st) s = .next (s.coreFault c 0x25))))
       ∧ (c < 32 → s.serving = true → ∀ p ps, k.inPosts = p :: ps →
           let q := k.pair p.pair
           (s.loomFirst p.src c p.sent = false → exec (.semaphorePostArrive c) s = .next s) ∧ (s.loomFirst p.src c p.sent = true →
           (q.claimed = true → q.get p.isEmpty + p.amount < 2 ^ 32 → exec (.semaphorePostArrive c) s =
               .next (s.setCore c ({ k with inPosts := ps }.setPair p.pair (q.put p.isEmpty (q.get p.isEmpty + p.amount)))))
             ∧ (q.claimed = true → 2 ^ 32 ≤ q.get p.isEmpty + p.amount → exec (.semaphorePostArrive c) s =
                 .next ((s.setCore c { k with inPosts := ps }).coreFault c 0x23))
             ∧ (q.claimed = false → exec (.semaphorePostArrive c) s = .next (s.setCore c { k with inPosts := ps })))))
    ∧ (∀ (s : State) (c : Nat) (st : Step) (x : Desc),
         let k := s.core c
         let w := st.word
         let kn := s.kernel x.ctx
         let i := stepArg w 13 8
         let posted := fun (t : State) (target lo : Nat) (j : Instr) => ∀ v, t.spost c target x.ctx st lo = some v →
           exec j s = .next (v.stepDone c)
         (s.issuing c st = some x → s.parked c st = none → ∀ bs, kn.plan.xfers[i]? = some bs →
             let e := xferOf bs
             let v0 : Stream := { step := plainStep st, skein := k.actingSkein, row := 0, rows := [], moved := 0 }
             (stepOp w = 0x30 → stepReserved w 42 = true → e.stepOk bs false = true → k.entryBusy i = false → st.ecc = .clean →
                 let nrows := stepArg w 25 10 + 1
                 let lay := e.layBytes (s.halfLine c x st e)
                 let n := (kn.cursor c i).1 * e.drows + (kn.cursor c i).2
                 let m := issueRows lay.1 lay.2 nrows (e.nz * e.drows - n)
                 ∀ k' row, k.inDest x.ctx st nrows = (.ok, k', row) →
                   let u := s.setCore c k'
                   let v := { v0 with row := row }
                   u.badRow x (fun j => e.inRuns (n + j)) m 0 = none →
                   u.poisonedRow c (((upTo m).flatMap (fun j => e.inRuns (n + j))).flatMap (u.runReads x)) = none →
                   let t := (u.inPart c x e lay v (u.inRows x e n m) nrows).1
                   posted ((t.setCore c ((t.core c).unpark v)).moveCursor x.ctx c i e.drows (n + m)) c 35 (.dmain c st))
               ∧ (k.entryBusy i = true → stepOp w = 0x30 → stepReserved w 42 = true → e.stepOk bs false = true →
                   exec (.dmain c st) s = .next (s.setCore c { k with hold := some (.stream, st) }))
               ∧ (stepOp w = 0x31 → stepReserved w 38 = true → e.stepOk bs true = true → k.entryBusy i = false → st.ecc = .clean →
                   let nrows := stepArg w 21 10 + 1
                   let n := (kn.cursor c i).1 * e.ny + (kn.cursor c i).2
                   let m := issueRows (elemBytes e.word.src e.nx) (if e.word.sscale then scaleBytes e.nx else 0) nrows (e.nz * e.ny - n)
                   ∀ row, k.relRows x.ctx false 5 (fieldAt st false (stepArg w 0 13)) nrows = (.ok, row) →
                     s.poisonedRow c ((upTo nrows).map (fun j => ReadAt.osp (row + j))) = none →
                     let src := e.outSource (k.rows row nrows) m
                     let v := { v0 with row := row, rows := src.map (fun r => (r, [])) }
                     (e.kind ≠ 1 → s.badRow x (fun j => e.outRuns [Xfer.place e.ny (n + j)]) src.length 0 = none →
                         let r := s.outMemory c x e i n src
                         posted (((r.1.setCore c ((r.1.core c).unpark v)).moveCursor x.ctx c i e.ny (n + src.length)).sfuFlags c x r.2) c 31
                           (.dmaout c st))
                       ∧ (e.kind = 1 →
                           s.firstBad x (e.windowRuns n (kn.held c i) src) = none →
                           let r := s.outBlocks x e n (kn.held c i) src
                           r.1.all (s.blockStarts c e) = true →
                           let t := s.setKernel x.ctx { kn with turns := putAt [] kn.turns (256 * c + i) r.2.2 }
                           let z := r.1.foldl (fun s b => s.sendBlock c x.ctx e b) t
                           posted (((z.setCore c ((z.core c).unpark v)).moveCursor x.ctx c i e.ny (n + src.length)).sfuFlags c x r.2.1)
                             e.tcore 31 (.dmaout c st))))
           ∧ (∀ (t : State) (target lo : Nat), stepArg w lo 1 ≠ 1 → t.spost c target x.ctx st lo = some t)
           ∧ (c < 32 → s.serving = true → k.hold.isSome = true → (∀ f ∈ s.faults, some f.ctx ≠ k.ctx) →
               exec (.holdTimeout c) s = .next (s.coreFault c 0x70)))

/-! ### Fabric, Loom, Sequence Store and banks -/

/-- Link-up takes the advertised credits, returned credits add to their channel, and a refill adds RATE tokens up to BURST;
what waited for them then goes. A small write that goes behind its FENCE takes a Bobbin tag, a fence tag and both credits,
and sending small requests changes nothing but the ports and what waits. While a FENCE of a port is outstanding no later
request of the port is answered; it is answered itself once no earlier request but the WATCHes is outstanding. -/
def Obligations.CreditsTokensAndFences : Prop :=
  ((∀ (s : State) (port req wdat rsp n part : Nat), s.mgmt.power = .on →
     let p := s.fport port
     (port < 12 → p.up = false → exec (.fabricLinkUp port req wdat rsp) s = .next ((s.setFport port { p with
         up := true, req := req, wdat := wdat, rsp := rsp, reqGrant := req, wdatGrant := wdat, rspGrant := rsp }).pumpPort port))
       ∧ (port < 12 → p.up = true →
           exec (.creditReturn port 0 n) s = .next ((s.setFport port { p with req := p.req + n }).pumpPort port)
             ∧ exec (.creditReturn port 1 n) s = .next ((s.setFport port { p with wdat := p.wdat + n }).pumpPort port))
       ∧ (part < 8 → (s.part part).enable = true → (s.part part).rate ≠ 0 → exec (.regulatorRefill part) s =
           .next ((s.setPart part { s.part part with
             tokens := min (s.part part).burst ((s.part part).tokens + (s.part part).rate) }).pumpDma)))
     ∧ (∀ (s : State) (r : SmallReq) (t f : Nat), s.smalls = [] → s.mgmt.fatal = false → r.op = .wr → r.fenced = true →
         s.bobsUsed < 64 → s.bobTag = some t → (s.fport r.port).fenceTag = some f → (s.fport r.port).up = true →
         2 ≤ (s.fport r.port).req → (smallOut r).beats ≤ (s.fport r.port).wdat →
         s.ask r = s.setFport r.port (((s.fport r.port).send f fenceOut).send t (smallOut r)))
     ∧ ∀ s : State, s.pumpSmalls = { s with ports := s.pumpSmalls.ports, smalls := s.pumpSmalls.smalls })
    ∧ (∀ (s : State) (port tag : Nat) (o : Out), (s.fport port).out tag = some o → o.op = .fence →
         let p := s.fport port
         (o.unsent = false → o.timedOut = false → p.drained o = true →
             exec (.fenceOk port tag) s = .next ((s.setFport port (p.setOut tag none)).pumpPort port))
           ∧ (p.drained o = false → exec (.fenceOk port tag) s = .next s)
           ∧ (p.drained o = true ↔ ∀ q ∈ p.outs, ∀ r, q.2 = some r → r.op = .watch ∨ o.seq ≤ r.seq)
           ∧ (∀ t q, p.out t = some q → o.seq < q.seq → p.answers t = none))

/-- A bulk transfer of the running kernel joins its core's queue, split at a 4 KiB boundary, and every request that is ready
goes: one whose range resolves is sent where its port, tags, credits, rows and regulator allow it and the rows it reads are
clean, and waits where its port, its credits or its regulator do not; rows outside the area, past their slot or not the
engine's end its context. A range that does not resolve halts the stream or ends the kernel. What a sent request leaves: one
REQ credit less on its port and, for a write, a data credit per beat; its partition's tokens fall by its units unless the
regulator is off. -/
def Obligations.RequestsIssueAndTakeCredits : Prop :=
  (∀ (s : State) (r : DmaRequest) (x : Desc), s.requestDesc r = some x →
     (∀ rs, splitRequest r = some rs → r.units ≤ 64 → r.handle < 16384 → r.offset < 2 ^ 44 → r.offset % 64 = 0 → s.rawFill x r = true →
       let v := ({ s with dmaQ := s.dmaQ ++ rs } : State)
       exec (.dmaRequestIssue r) s = .next v.pumpDma
         ∧ (s.dmaQ = [] → rs = [r] → (v.tryHead r = .waits → v.pumpDma = v)
             ∧ (∀ u, v.tryHead r = .gone u → u.dmaQ = [r] → v.pumpDma = { u with dmaQ := [] })))
       ∧ (8 ≤ r.units → r.offset % 4096 + 64 * r.units ≤ 4096 → r.offset % 64 = 0 → splitRequest r = some [r])
       ∧ (s.streamWaits x r = true → s.tryHead r = .waits)
       ∧ (s.streamWaits x r = false →
           (∀ tier a, s.requestAcc x r = .ok tier a → tier ≠ 2 →
             let p := s.fport (portOf a)
             let c := s.part (s.partOf x)
             let open_ := p.up = true ∧ 1 ≤ p.req ∧ (r.isWrite = true → requestBeats r ≤ p.wdat) ∧ (c.rate = 0 ∨ r.units ≤ c.tokens)
             (open_ → s.requestRows x r = .ok → r.ecc = .clean →
                 ∀ t k, p.newTags r.isWrite (requestBeats r) = some t →
                   (r.isWrite = true → k = s.core r.core
                     ∧ s.poisonedRow r.core ((upTo (requestBeats r)).map (fun i => .osp (r.row + i))) = none) →
                   (r.isWrite = false → (s.core r.core).fillSlot x.ctx r = some k) →
                   s.tryHead r = .gone (s.sendRequest x r a t k))
               ∧ (∀ e, open_ → s.requestRows x r = .fault e → s.tryHead r = .gone (s.coreFault r.core e))
               ∧ (p.req = 0 ∨ p.up = false ∨ (r.isWrite = true ∧ p.wdat < requestBeats r) ∨ (c.rate ≠ 0 ∧ c.tokens < r.units) →
                   s.tryHead r = .waits))
             ∧ (s.requestAcc x r = .halt → s.tryHead r = .stays (s.haltStream r.core x.did (requestRun r)))
             ∧ (s.requestAcc x r = .stale → s.tryHead r = .gone ((s.stopKernel x).retire x 0x11 0))))
    ∧ (∀ (s : State) (x : Desc) (r : DmaRequest) (a t : Nat) (k : Core),
         let u := s.sendRequest x r a t k
         let n := s.partOf x
         (u.fport (portOf a)).req = (s.fport (portOf a)).req - 1
           ∧ (u.fport (portOf a)).wdat = (if r.isWrite then (s.fport (portOf a)).wdat - requestBeats r else (s.fport (portOf a)).wdat)
           ∧ (∀ q, q ≠ portOf a → u.fport q = s.fport q) ∧ (∀ q, q ≠ r.core → u.core q = s.core q)
           ∧ ((s.part n).rate ≠ 0 → u.part n = { s.part n with tokens := (s.part n).tokens - r.units })
           ∧ ((s.part n).rate = 0 → u.parts = (s.setPart n (s.part n)).parts) ∧ (∀ q, q ≠ n → u.part q = s.part q)
           ∧ u = { s with parts := u.parts, ports := u.ports, cores := u.cores })

/-- A read beat and a write's answer for a first attempt: the beat lands in its row of a bank that is ready and is counted in
its slot, and waits for one that is not; a slot that is full or held faults. The write changes its enabled units and no other
byte of memory. A late response frees its quarantined tag, and one to a request that has not gone or that a FENCE holds
changes nothing. -/
def Obligations.ResponsesLand : Prop :=
  ∀ (s : State) (port tag : Nat),
    (∀ o, (s.fport port).answers tag = some o → o.error = 0 → o.timedOut = false →
        (o.op = .rd → tag < 2048 →
            let meet := (s.core o.core).bankMeet (s.outCtx o) o.row 1
            let u := s.dropOut port tag o
            (meet = .ready → (u.core o.core).ctx = some (u.outCtx o) →
                (∀ k, (u.core o.core).countRow o.row = some k → exec (.fabricReadBeat port tag) s =
                    .next (((u.setCore o.core k).writeRowsAt o.core o.row (u.beatBytes o)).pumpPort port))
                  ∧ ((u.core o.core).countRow o.row = none →
                      exec (.fabricReadBeat port tag) s = .next ((u.coreFault o.core 0x22).pumpPort port)))
              ∧ (meet = .held → exec (.fabricReadBeat port tag) s = .next s)
              ∧ (meet = .dark → exec (.fabricReadBeat port tag) s = .next ((u.bankDrop o.core o.core o.row 1 1).pumpPort port)))
          ∧ (o.op = .wr →
              let w := (s.dropOut port tag o).landOut o
              exec (.fabricWriteOk port tag) s = .next ((if tag < 3072 then w.sendPosts o.core else w).pumpPort port)
                ∧ (∀ b, (∀ c ∈ o.cells, b < c.1 ∨ c.1 + c.2.length ≤ b) → getAt blankByte w.mem b = getAt blankByte s.mem b)
                ∧ w = { s with mem := w.mem, ports := w.ports, cores := w.cores }))
      ∧ (∀ i, i ∈ [Instr.fabricReadBeat port tag, .fabricWriteOk port tag, .fabricPoison port tag, .fabricDecode port tag,
            .fabricAbort port tag] →
          ((s.fport port).out tag = none → exec i s = .next ((s.setFport port
              { s.fport port with quarTags := (s.fport port).quarTags.filter (fun q => q.1 != tag) }).pumpPort port))
            ∧ (∀ o, (s.fport port).out tag = some o → (s.fport port).answers tag = none → exec i s = .next s))

/-- POISON, DECODE and ABORT repeat a request once; an error in answer to the repeat ends its descriptor with ECC_UNCORR or
INTERNAL; a request without an answer is repeated under a new tag and its old tag quarantined, and a repeat without one ends
its descriptor with TIMEOUT. -/
def Obligations.ErrorResponsesRepeatOnce : Prop :=
  ∀ (s : State) (port tag : Nat) (o : Out) (x : Desc), s.outDesc o = some x →
    (∀ (kind : Nat) (i : Instr), (kind, i) ∈ [(1, Instr.fabricPoison port tag), (2, .fabricDecode port tag), (2, .fabricAbort port tag)] →
        (s.fport port).answers tag = some o → o.op ≠ .fence → (kind = 1 → o.op = .rd) →
        (o.error = 0 → exec i s = .next (s.setFport port ((s.fport port).again tag { o with error := kind })))
          ∧ (o.error = 1 → o.timedOut = false → exec i s =
              .next ((((s.dropOut port tag o).logEvent 0x04 2 3 port o.addr x.ctx x.tag).descFault x 0x30).pumpPort port))
          ∧ (o.error = 2 → o.timedOut = false → exec i s =
              .next ((((s.dropOut port tag o).logEvent 0x04 2 3 port o.addr x.ctx x.tag).descFault x 0x7F).pumpPort port)))
      ∧ ((s.fport port).out tag = some o → o.unsent = false →
          (o.timedOut = false → ∀ t, s.retryTag port tag o = some t → exec (.requestTimeout port tag) s =
              .next (s.setFport port (({ s.fport port with quarTags := (s.fport port).quarTags ++ [(tag, s.outCtx o)] }.setOut tag
                none).again t { o with timedOut := true })))
            ∧ (o.timedOut = true → exec (.requestTimeout port tag) s =
                .next ((((s.quarantineTag port tag o).logEvent 0x05 2 3 port o.addr x.ctx x.tag).descFault x 0x70).pumpPort port))
            ∧ (tag, s.outCtx o) ∈ ((s.quarantineTag port tag o).fport port).quarTags)

/-- Remote accesses at their target. The oldest write in flight of a pair of cores, or one that no counter saw leave, lands
where the window admits it and its banks are ready, waits where they wake or clear, is dropped with INTERNAL in a bank
without power that did not count it, and ends its writer's context with PERMISSION where the window refuses it. A read brings
its rows to its source under the same checks. An acknowledged write lets the core's posts go. A window admits an access only
while it is open, with the direction, generation, source and rows it allows. -/
def Obligations.RemoteAccessesAreCheckedAtTheTarget : Prop :=
  (∀ (s : State) (a : RemoteAccess) (rows : List Byte) (n : Nat), s.serving = true → a.src < 32 → a.target < 32 →
     (a.counted = true → ∀ w, s.oldestWrite a.src a.target = some w →
         let len := w.rows.length / 512
         (s.windowRow w.src w.target w.win w.gen false w.offset len = none →
             exec (.remoteWriteArrive a rows) s = .next ((s.takeWrite w).refuseWrite w))
           ∧ (∀ r, s.windowRow w.src w.target w.win w.gen false w.offset len = some r →
               let meet := (s.core w.target).bankMeet ((s.core w.target).rwin w.win).ctx r len
               (meet = .ready → exec (.remoteWriteArrive a rows) s = .next ((s.takeWrite w).writeRowsAt w.target r w.rows))
                 ∧ (meet = .held → exec (.remoteWriteArrive a rows) s = .next s)
                 ∧ (meet = .dark → w.counted.isSome = true → exec (.remoteWriteArrive a rows) s = .next s)
                 ∧ (meet = .dark → w.counted = none →
                     exec (.remoteWriteArrive a rows) s = .next ((s.takeWrite w).bankDrop w.src w.target r len 3))))
       ∧ (a.counted = false → a.win < 4 → 512 ≤ rows.length → rows.length % 512 = 0 →
           (∀ r, s.remoteRow a false (rows.length / 512) = some r →
               let meet := (s.core a.target).bankMeet ((s.core a.target).rwin a.win).ctx r (rows.length / 512)
               (meet = .ready → exec (.remoteWriteArrive a rows) s = .next (
                   let t := s.writeRowsAt a.target r rows
                   t.setCore a.src { t.core a.src with loomDue := (t.core a.src).loomDue ++ [a.target] }))
                 ∧ (meet = .held → exec (.remoteWriteArrive a rows) s = .next s)
                 ∧ (meet = .dark → exec (.remoteWriteArrive a rows) s = .next (s.bankDrop a.src a.target r (rows.length / 512) 3)))
             ∧ (s.remoteRow a false (rows.length / 512) = none → exec (.remoteWriteArrive a rows) s = .next (s.coreFault a.src 0x25)))
       ∧ (1 ≤ n → a.win < 4 →
           (s.remoteRow a true n = none → exec (.remoteReadArrive a n) s = .next (s.coreFault a.src 0x25))
             ∧ (∀ r x, s.remoteRow a true n = some r → (s.core a.src).ctx.bind (fun ctx => s.desc? (s.kernel ctx).d) = some x →
                 let meet := (s.core a.target).bankMeet ((s.core a.target).rwin a.win).ctx r n
                 let rs := (upTo n).map (fun i => ReadAt.osp (r + i))
                 (meet = .ready → s.poisonedRow a.target rs = none → a.ecc = .clean → exec (.remoteReadArrive a n) s =
                     .next (s.setCore a.src { s.core a.src with inbox := (s.core a.target).rows r n }))
                   ∧ (∀ p, meet = .ready → s.poisonedRow a.target rs = some p →
                       exec (.remoteReadArrive a n) s = .next (s.readLasting a.target x p))
                   ∧ (meet ≠ .ready → exec (.remoteReadArrive a n) s = .next s)))
       ∧ (∀ node, (s.core a.src).loomDue.find? (s.ackDue a.src) = some node → exec (.loomWriteAck a.src) s =
           .next ((s.setCore a.src { s.core a.src with loomDue := (s.core a.src).loomDue.erase node }).sendPosts a.src)))
    ∧ (∀ (s : State) (src target win off n r : Nat) (gen : BitVec 16) (rd : Bool),
         let w := (s.core target).rwin win
         s.windowRow src target win gen rd off n = some r ↔
           w.isOpen = true ∧ (rd = true → w.rd = true) ∧ gen = w.gen ∧ w.wmask.getLsbD src = true ∧ (s.core src).ctx = some w.ctx
             ∧ off + n ≤ w.bound ∧ w.base + off + n ≤ ((s.core target).area w.ctx).bound ∧ r = ((s.core target).area w.ctx).base + w.base + off)

/-- Sequence Store accesses through a window: a write lands in its row and is acknowledged later, a read brings its row with
what its code check met, a refused one ends the context with PERMISSION; what the patrol scrubber finds in its row; and
write-backs. -/
def Obligations.SequenceStoreAccessesAndScrubbing : Prop :=
  ∀ (s : State) (a : SsAccess) (row : List Byte) (x : Desc),
    (s.serving = true → a.core < 32 → a.win < 128 → (s.core a.core).ctx.bind (fun ctx => s.desc? (s.kernel ctx).d) = some x →
        (a.isWrite = true → row.length = 512) →
        (s.ssRows a.core x.ctx a.win a.isWrite a.offset 1 = none → exec (.ssRequest a row) s = .next (s.coreFault a.core 0x25))
          ∧ (∀ r, s.ssRows a.core x.ctx a.win a.isWrite a.offset 1 = some r →
              (a.isWrite = true → exec (.ssRequest a row) s = .next ((s.putSsRows r row).setCore a.core
                  { s.core a.core with loomDue := (s.core a.core).loomDue ++ [32] }))
                ∧ (a.isWrite = false →
                    let got := fun (u : State) => u.setCore a.core { u.core a.core with inbox := memRead u.ss (512 * r) 512 }
                    (s.ssPoison.contains r = true → exec (.ssRequest a row) s = .next (s.readLasting a.core x (.ss r)))
                      ∧ (s.ssPoison.contains r = false →
                          (a.ecc = .clean → exec (.ssRequest a row) s = .next (got s))
                            ∧ (a.ecc = .corrected 0 → exec (.ssRequest a row) s = .next (got
                                { s.countCorrectedSs with wback := s.wback ++ [.ss r] }))
                            ∧ (a.ecc = .lasting 0 → exec (.ssRequest a row) s = .next (s.readLasting a.core x (.ss r)))))))
      ∧ (s.serving = true →
          let after := fun (s : State) => { s with scrubRow := (s.scrubRow + 1) % 262144 }
          let r := s.scrubRow
          (s.ssPoison.contains r = false →
              exec (.ssScrubTick .clean) s = .next (after s)
                ∧ exec (.ssScrubTick .correctable) s = .next (after s.countCorrectedSs)
                ∧ exec (.ssScrubTick .uncorrectableOnce) s =
                    .next (after ((s.logEvent 0x01 1 1 (r % 64) r).noteRepeat 0x01 1 (r % 64) r))
                ∧ exec (.ssScrubTick .uncorrectable) s = .next (after ({ s with ssPoison := s.ssPoison ++ [r] }.logEvent 0x02 2
                    1 (r % 64) r)))
            ∧ (s.ssPoison.contains r = true → ∀ f, exec (.ssScrubTick f) s = .next (after (s.logEvent 0x02 2 1 (r % 64) r))))
      ∧ (∀ place idle, exec (.eccWriteback place idle) s = .next { s with wback := s.wback.erase place })

/-- An area's clearing, a bank's class clear and power states: cleared rows read zero and are not poisoned; an isolating bank
goes off and loses its contents, or wakes; a bank that is clearing ends ON. Banks that a kernel start has asked to wake begin
WAKE while no more than 4 banks of their core are in it, lowest number first (the order is the model's choice, log 58). -/
def Obligations.BanksClearAndChangePower : Prop :=
  ∀ (s : State) (c b : Nat), s.mgmt.power = .on →
    let v := (s.core c).bank b
    let rows := s.clearRows c (512 * b) (512 * b + 512)
    (∀ ctx, ((s.core c).area ctx).used = true → ((s.core c).area ctx).clearing = true →
        let a := (s.core c).area ctx
        let t := s.clearRows c a.base (a.base + a.bound)
        exec (.areaClearDone c ctx) s =
          .next (t.setCore c { t.core c with areas := putAt Area.reset (t.core c).areas ctx { a with clearing := false } }))
      ∧ (v.classClear = true → (v.st = .on ∨ v.st = .drain) →
          exec (.bankClassClearDone c b) s = .next (rows.setBank c b { v with classClear := false }))
      ∧ (v.st = .drain →
          (v.wtag = 0 → exec (.bankIsolate c b) s = .next (s.setBank c b { v with st := .isolating, wake := false }))
            ∧ (v.wtag ≠ 0 → exec (.bankIsolate c b) s = .next s))
      ∧ (v.st = .isolating → exec (.bankOff c b) s =
          .next (rows.setBankWaking c b { v with st := .off, classClear := false }))
      ∧ (v.st = .wake → exec (.bankWakeDone c b) s = .next (s.setBankWaking c b { v with st := .clearing }))
      ∧ (∀ k : Core, k.waking ≤ 4 → k.wakeBanks.waking ≤ 4)
      ∧ (v.st = .clearing → exec (.bankClearDone c b) s = .next (rows.setBank c b { v with st := .on, classClear := false }))
      ∧ (∀ (k : Core) (lo hi a : Nat),
          ((512 * lo ≤ a ∧ a < 512 * hi) → getAt blankByte (k.clearRows lo hi).osp a = blankByte)
            ∧ (¬(512 * lo ≤ a ∧ a < 512 * hi) → getAt blankByte (k.clearRows lo hi).osp a = getAt blankByte k.osp a)
            ∧ ∀ r, lo ≤ r → r < hi → (k.clearRows lo hi).poison.contains r = false)

/-- Control cores and turns: a control core that its watchdog finds idle restarts, or leaves service where its memory fails
too; its contexts pass to the next core in service, one after the other, and what they were doing is done again; with none
left the engine is fatal with cause 4. A word of its memory that is corrected changes nothing, and one that is lost is such
an expiry. A restarted core takes a context back between its kernels. A budget that expires is noted, and the turn ends at a
preemption point once it has expired or nothing of the context is ready; so does a turn on the control core, which frees the
check-value units. -/
def Obligations.TurnsAndControlCores : Prop :=
  ∀ (s : State) (n ctx overrun : Nat), s.serving = true →
    let c := s.ctx ctx
    (n < 4 → (s.ccore n).inService = true → ∀ ok : Bool,
        let mine := (upTo 32).filter (fun c => (s.ctx c).enable && (s.ctx c).owner == n)
        let v := s.logEvent 0x0C (if ok then 1 else 2) 2 n (n + if ok then 0 else 2 ^ 63)
        let u := (if ok then v.noteRepeat 0x0C 2 n n else v).setCcore n { inService := ok, restarted := ok }
        (∀ word, exec (.watchdogExpiry n (.corrected word)) s = .next s
            ∧ exec (.watchdogExpiry n (.lost word ok)) s =
                exec (.watchdogExpiry n (.watchdog ok)) (s.logEvent 0x02 2 2 n (word % 2 ^ 18)))
          ∧ ((∀ k, k < 4 → (u.ccore k).inService = false) → exec (.watchdogExpiry n (.watchdog ok)) s = .next (u.enterFatal 4))
          ∧ ((∃ k, k < 4 ∧ (u.ccore k).inService = true) → exec (.watchdogExpiry n (.watchdog ok)) s = .next (mine.foldl (fun t c =>
              (t.setCtx c { t.ctx c with owner := (([1, 2, 3].map (fun i => (n + i) % 4)).find?
                (fun k => (t.ccore k).inService)).getD n, uTurn := false, uExpired := false }).redoContext c) u)))
      ∧ (ctx < 32 → c.enable = true → (s.ccore (ctx % 4)).inService = true → (s.ccore (ctx % 4)).restarted = true →
          ((s.betweenKernels ctx = true → exec (.controlCoreTakeback ctx) s =
              .next (s.setCtx ctx { c with owner := ctx % 4, uTurn := false, uExpired := false }))
            ∧ (s.betweenKernels ctx = false → exec (.controlCoreTakeback ctx) s = .next s)
            ∧ (s.betweenKernels ctx = true ↔ (s.kernel ctx).live = false ∧ (s.kernel ctx).paused = false
                ∧ (∀ x ∈ s.descs, x.ctx = ctx → x.st = .halted → isKernelOp x.opcode = false)
                ∧ ∀ k ∈ s.ctxLoops ctx, (s.loopAt k).inStep = false)))
      ∧ (ctx < 32 → c.turn = true → exec (.budgetExpiry ⟨ctx, false⟩) s = .next (s.setCtx ctx { c with expired := true }))
      ∧ (ctx < 32 → c.uTurn = true → exec (.budgetExpiry ⟨ctx, true⟩) s = .next (s.setCtx ctx { c with uExpired := true }))
      ∧ (ctx < 32 → c.turn = true → (c.expired = true ∨ (s.kernelReady ctx = false ∧ (s.kernel ctx).live = false)) →
          s.atPreemption ctx = true → exec (.turnEnd ⟨ctx, false⟩ overrun) s = .next ((s.yieldKernel ctx).passTurn ctx overrun))
      ∧ (ctx < 32 → c.uTurn = true → (c.uExpired = true ∨ s.unitReady ctx = false) →
          exec (.turnEnd ⟨ctx, true⟩ overrun) s = .next ((s.leaveCvus ctx).passTurnOf true ctx overrun))
      ∧ (c.turn = false → exec (.budgetExpiry ⟨ctx, false⟩) s = .next s ∧ exec (.turnEnd ⟨ctx, false⟩ overrun) s = .next s)
      ∧ (c.uTurn = false → exec (.budgetExpiry ⟨ctx, true⟩) s = .next s ∧ exec (.turnEnd ⟨ctx, true⟩ overrun) s = .next s)

/-- The teardown of a context that is not stopped: it is stopped, has no turn, each of its descriptors but collectives past
their point of no abort retires, its kernel is reset, and a report is due. Where no descriptor has a view of a sequence, no
byte of memory or of the SS changes. A teardown is reported once its records are visible and its tags back: a record for the
next entry of its partition's fault ring, then behind a FENCE PROD, then behind one the message, and the context may be
enabled again; a count that its audit finds wrong is the fatal state with cause 9. -/
def Obligations.TeardownStopsAndIsReported : Prop :=
  (∀ (s : State) (ctx status core det : Nat) (d : Option Did), (s.ctx ctx).stopped = false → s.loops = [] →
     tableWf Kernel.reset s.kernels = true →
     let t := s.tearDown ctx status core det d
     (t.ctx ctx).stopped = true ∧ (t.ctx ctx).turn = false ∧ (t.ctx ctx).teardown.isSome = true
       ∧ (t.kernel ctx).live = false ∧ ((∀ x ∈ s.descs, x.views = []) → t.mem = s.mem ∧ t.ss = s.ss)
       ∧ (∀ x ∈ t.descs, x.ctx = ctx → x.pastNoAbort = true))
    ∧ (∀ (s : State) (ctx : Nat), ctx < 32 →
         let c := s.ctx ctx
         let p := s.part c.part
         let held := (s.ports.map (fun p => (p.2.quarTags.filter (fun q => q.2 == ctx)).length)).sum
         (∀ r, s.reportable ctx = true → c.teardown = some r → s.auditFault ctx = none → pastEnd p.fbase (ringSpan p.fl 32) = false →
             pastEnd p.fmsg 4 = false →
             ∃ t, exec (.teardownDrained ctx) s = .next t ∧ t.ctx ctx = { c with teardown := none, reported := true }
               ∧ t.parts = (s.setPart c.part { p with faultProd := p.faultProd + 1 }).parts
               ∧ (let u := (((s.setPart c.part { p with faultProd := p.faultProd + 1 }).bobWrite (portOf p.fbase)
                     (p.fbase + 128 + 32 * (p.faultProd.toNat % 2 ^ p.fl)) (teardownBytes ctx { r with tagsHeld := held }) false none).bobWrite
                     (portOf p.fbase) p.fbase (natLe 4 (p.faultProd + 1).toNat) true none).bobWrite
                     (portOf p.fbase) p.fmsg (natLe 4 p.fdata.toNat) true none;
                   t.ports = u.ports ∧ t.smalls = u.smalls)
               ∧ t = { s with ports := t.ports, smalls := t.smalls, parts := t.parts, ctxs := t.ctxs })
           ∧ (∀ res port, s.reportable ctx = true → s.auditFault ctx = some (res, port) → exec (.teardownDrained ctx) s =
               .next ((s.logEvent 0x13 3 0xFF 0 (port + 256 * res) ctx).enterFatal 9))
           ∧ (s.reportable ctx = true → s.auditFault ctx = none → pastEnd p.fbase (ringSpan p.fl 32) = true →
               exec (.teardownDrained ctx) s = .fault .addressSpace)
           ∧ (s.reportable ctx = false → exec (.teardownDrained ctx) s = .next s))

/-! ### Numbers and codes -/

/-- Every code of every format is read and written without loss: a decoded code that is not a NaN (nor the code 0x20 of Z6,
which reads as +0) converts back to itself without a flag under every rounding, and packed elements unpack to themselves. -/
def Obligations.CodesAndRowsRoundTrip : Prop :=
  (∀ (fmt code : Nat) (iovf : Bool) (mode : Rounding) (w : Nat), ((∃ f, ffmtOf fmt = some f ∧ f.width = w) ∨ intWidth fmt = some w) →
      code < 2 ^ w → (decodeCode fmt code).isNan = false → (fmt = 5 → code ≠ 0x20) →
      convElem { convOf 0 with dst := fmt } iovf mode 0 (decodeCode fmt code) = (code, 0))
    ∧ (∀ (c : Nat) (mode : Rounding), c < 2 ^ 32 → (f32Value c).isNan = false → valueToF32 mode (f32Value c) = (c, 0))
    ∧ ∀ (fmt : Nat) (codes : List Nat), fmtOk fmt = true → (∀ c ∈ codes, c < 2 ^ containerBits fmt) →
        unpack fmt codes.length (pack fmt codes) = codes

/-- Rounding a magnitude to a coarser unit: each direction gives its neighbour, ties go where it says, a stochastic rounding
goes up where the discarded fraction and the draw carry, and the result is inexact exactly where bits were lost. -/
def Obligations.RoundingGivesTheNeighbour : Prop :=
  ∀ (neg : Bool) (m : Nat) (e g : Int), e < g →
    let d := 2 ^ (g - e).toNat
    (∀ mode, (roundAt mode neg m e g).2 = true ↔ m % d ≠ 0)
      ∧ (∀ mode, m % d = 0 → (roundAt mode neg m e g).1 = m / d)
      ∧ (let q := (roundAt .rne neg m e g).1
         2 * (q * d) ≤ 2 * m + d ∧ 2 * m ≤ 2 * (q * d) + d ∧ (2 * (q * d) = 2 * m + d ∨ 2 * m = 2 * (q * d) + d → q % 2 = 0))
      ∧ (let q := (roundAt .rna neg m e g).1
         2 * (q * d) ≤ 2 * m + d ∧ 2 * m < 2 * (q * d) + d)
      ∧ (roundAt .rtz neg m e g).1 = m / d
      ∧ (m % d ≠ 0 → (roundAt .rup neg m e g).1 = (if neg then m / d else m / d + 1)
          ∧ (roundAt .rdn neg m e g).1 = (if neg then m / d + 1 else m / d))
      ∧ (∀ draw, m % d ≠ 0 →
          (roundAt (.sr draw) neg m e g).1 = (if 2 ^ 32 ≤ m % d * 2 ^ 32 / d + draw then m / d + 1 else m / d))

/-- A mirror entry holds its working entry whole: read back it is the entry, its ECRC holds, and written to memory it is what
the handle's mirror reads. -/
def Obligations.MirrorEntriesRoundTrip : Prop :=
  (∀ e : RangeEnt, e.base < 2 ^ 64 → e.start < 2 ^ 32 → e.lenM1 < 2 ^ 32 → e.tier < 4 → e.part < 8 → (e.st = .valid ∨ e.st = .invalid) →
      e.was = .invalid → e.held = false →
      mirrorEnt (mirrorBytes e) = e ∧ mirrorIntact (mirrorBytes e) = true ∧ (mirrorBytes e).length = 32)
    ∧ ∀ (s : State) (h : Nat), Memory.wf blankByte s.mem = true → (s.putMirror h).mirrorAt h = mirrorBytes (s.range h)
        ∧ ∀ a, (a < s.rangeBase + 32 * h ∨ s.rangeBase + 32 * h + 32 ≤ a) →
            getAt blankByte (s.putMirror h).mem a = getAt blankByte s.mem a
end

