-- ==== Sys2Proof/Laws/Table.lean ====
section
/-!
SUPPORT. Laws of tables and memories: a read after a write, and that every operation keeps the canonical form.
-/

namespace Sys2Proof.Machine

variable {α : Type} [DecidableEq α] {d v : α} {t : Table α} {k k' lo a b n : Nat} {vs : List α}

/-! ### The canonical form -/

/-- A lower bound may be lowered. -/
theorem tableFrom_mono (h : tableFrom d lo t = true) (hk : k ≤ lo) : tableFrom d k t = true := by
  cases t with
  | nil => rfl
  | cons e t =>
    obtain ⟨k₁, w⟩ := e
    simp only [tableFrom, Bool.and_eq_true, decide_eq_true_eq] at h ⊢
    exact ⟨⟨by omega, h.1.2⟩, h.2⟩

/-- Nothing is listed below the first key. -/
theorem getAt_below (h : tableFrom d lo t = true) (hk : k < lo) : getAt d t k = d := by
  induction t generalizing lo with
  | nil => rfl
  | cons e t ih =>
    obtain ⟨k₁, w⟩ := e
    simp only [tableFrom, Bool.and_eq_true, decide_eq_true_eq] at h
    have h₁ : k ≠ k₁ := by omega
    simp only [getAt, h₁, if_false]
    exact ih h.2 (by omega)

/-- A put keeps the canonical form. -/
theorem tableFrom_putAt (h : tableFrom d lo t = true) (hk : lo ≤ k) : tableFrom d lo (putAt d t k v) = true := by
  induction t generalizing lo with
  | nil => by_cases hv : v = d <;> simp [putAt, tableFrom, hv, hk]
  | cons e t ih =>
    obtain ⟨k₁, w⟩ := e
    simp only [tableFrom, Bool.and_eq_true, decide_eq_true_eq] at h
    obtain ⟨⟨h₁, h₂⟩, h₃⟩ := h
    rcases Nat.lt_trichotomy k k₁ with hlt | heq | hgt
    · by_cases hv : v = d <;> simp only [putAt, hlt, if_true, hv, tableFrom, Bool.and_eq_true, decide_eq_true_eq, if_false]
      · exact ⟨⟨h₁, h₂⟩, h₃⟩
      · exact ⟨⟨hk, hv⟩, ⟨⟨by omega, h₂⟩, h₃⟩⟩
    · subst heq
      by_cases hv : v = d <;>
        simp only [putAt, Nat.lt_irrefl, if_false, if_true, hv, tableFrom, Bool.and_eq_true, decide_eq_true_eq]
      · exact tableFrom_mono h₃ (by omega)
      · exact ⟨⟨hk, hv⟩, h₃⟩
    · have n₁ : ¬ k < k₁ := by omega
      have n₂ : k ≠ k₁ := by omega
      simp only [putAt, n₁, n₂, if_false, tableFrom, Bool.and_eq_true, decide_eq_true_eq]
      exact ⟨⟨h₁, h₂⟩, ih h₃ (by omega)⟩

/-- A value that is not the default is read back from any table. -/
theorem getAt_putAt_listed (hv : v ≠ d) : getAt d (putAt d t k v) k = v := by
  induction t with
  | nil => simp [putAt, getAt, hv]
  | cons e t ih =>
    obtain ⟨k₁, w⟩ := e
    rcases Nat.lt_trichotomy k k₁ with hlt | heq | hgt
    · simp [putAt, getAt, hlt, hv]
    · subst heq
      simp [putAt, getAt, hv]
    · have n₁ : ¬ k < k₁ := by omega
      have n₂ : k ≠ k₁ := by omega
      simp [putAt, getAt, n₁, n₂, ih]

/-- A put keeps the canonical form. -/
theorem tableWf_putAt (h : tableWf d t = true) : tableWf d (putAt d t k v) = true := tableFrom_putAt h (Nat.zero_le k)

/-- A run of puts keeps the canonical form. -/
theorem tableWf_writeRun (h : tableWf d t = true) : tableWf d (writeRun d t a vs) = true := by
  induction vs generalizing t a with
  | nil => exact h
  | cons w vs ih => exact ih (tableWf_putAt h)

/-- Entries left out keep the canonical form. -/
theorem tableFrom_filter {p : Nat × α → Bool} (h : tableFrom d lo t = true) : tableFrom d lo (t.filter p) = true := by
  induction t generalizing lo with
  | nil => rfl
  | cons e t ih =>
    obtain ⟨k₁, w⟩ := e
    simp only [tableFrom, Bool.and_eq_true, decide_eq_true_eq] at h
    by_cases hp : p (k₁, w) = true
    · simp only [List.filter_cons, hp, if_true, tableFrom, Bool.and_eq_true, decide_eq_true_eq]
      exact ⟨h.1, ih h.2⟩
    · simp only [List.filter_cons, hp]
      exact tableFrom_mono (ih h.2) (by omega)

/-- Entries left out keep the canonical form. -/
theorem tableWf_filter {p : Nat × α → Bool} (h : tableWf d t = true) : tableWf d (t.filter p) = true := tableFrom_filter h

/-- A write keeps a memory's canonical form. -/
theorem wf_memWrite {m : Table Byte} {bs : List Byte} (h : Memory.wf blankByte m = true) :
    Memory.wf blankByte (memWrite m a bs) = true := tableWf_writeRun h

/-! ### Reading what was written -/

/-- What a put leaves at another key. -/
theorem getAt_putAt_ne (hne : k' ≠ k) : getAt d (putAt d t k v) k' = getAt d t k' := by
  induction t with
  | nil => by_cases hv : v = d <;> simp [putAt, getAt, hv, hne]
  | cons e t ih =>
    obtain ⟨k₁, w⟩ := e
    simp only [putAt]
    split
    · split
      · rfl
      · simp [getAt, hne]
    · split
      · rename_i _ h₁
        subst h₁
        split <;> simp [getAt, hne]
      · simp only [getAt, ih]

/-- What a put leaves at its key, in a canonical table. -/
theorem getAt_putAt_from (h : tableFrom d lo t = true) : getAt d (putAt d t k v) k = v := by
  induction t generalizing lo with
  | nil => by_cases hv : v = d <;> simp [putAt, getAt, hv]
  | cons e t ih =>
    obtain ⟨k₁, w⟩ := e
    have h' := h
    simp only [tableFrom, Bool.and_eq_true, decide_eq_true_eq] at h
    rcases Nat.lt_trichotomy k k₁ with hlt | heq | hgt
    · by_cases hv : v = d
      · simp only [putAt, hlt, if_true, hv]
        exact getAt_below (tableFrom_mono (lo := k₁) (by simp [tableFrom, h.1.2, h.2]) (Nat.le_refl _)) hlt
      · simp [putAt, hlt, hv, getAt]
    · subst heq
      by_cases hv : v = d
      · simp only [putAt, Nat.lt_irrefl, if_false, if_true, hv]
        exact getAt_below h.2 (by omega)
      · simp [putAt, hv, getAt]
    · have n₁ : ¬ k < k₁ := by omega
      have n₂ : k ≠ k₁ := by omega
      simp only [putAt, n₁, n₂, if_false, getAt]
      exact ih h.2

/-- What a put leaves at its key, in a canonical table. -/
theorem getAt_putAt_self (h : tableWf d t = true) : getAt d (putAt d t k v) k = v := getAt_putAt_from h

/-- What a run of puts leaves outside it. -/
theorem getAt_writeRun_out (h : k < a ∨ a + vs.length ≤ k) : getAt d (writeRun d t a vs) k = getAt d t k := by
  induction vs generalizing t a with
  | nil => rfl
  | cons w vs ih =>
    simp only [List.length_cons] at h
    rw [writeRun, ih (by omega), getAt_putAt_ne (by omega)]

/-- What a run of puts leaves inside it. -/
theorem getAt_writeRun_in (h : tableWf d t = true) (hi : n < vs.length) : getAt d (writeRun d t a vs) (a + n) = vs[n] := by
  induction vs generalizing t a n with
  | nil => simp at hi
  | cons w vs ih =>
    rw [writeRun]
    cases n with
    | zero =>
      rw [getAt_writeRun_out (by omega)]
      simpa using getAt_putAt_self h
    | succ n =>
      have := ih (a := a + 1) (n := n) (tableWf_putAt (k := a) (v := w) h) (by simpa using hi)
      rw [show a + (n + 1) = a + 1 + n by omega]
      simpa using this

/-- A byte outside a write reads as before. -/
theorem memByte_memWrite_out {m : Table Byte} {bs : List Byte} (h : k < a ∨ a + bs.length ≤ k) :
    memByte (memWrite m a bs) k = memByte m k := getAt_writeRun_out h

/-- A byte inside a write reads as written. -/
theorem memByte_memWrite_in {m : Table Byte} {bs : List Byte} (h : Memory.wf blankByte m = true) (hi : n < bs.length) :
    memByte (memWrite m a bs) (a + n) = bs[n] := getAt_writeRun_in h hi

omit [DecidableEq α] in
/-- A read of bytes that agree reads the same. -/
theorem readRun_congr {t₁ t₂ : Table α} (h : ∀ i, a ≤ i → i < a + n → getAt d t₁ i = getAt d t₂ i) : readRun d t₁ a n = readRun d t₂ a n := by
  induction n generalizing a with
  | zero => rfl
  | succ n ih =>
    rw [readRun, readRun, h a (Nat.le_refl _) (by omega), ih (fun i h₁ h₂ => h i (by omega) (by omega))]

/-- A run read back where it was written is the run. -/
theorem readRun_writeRun (h : tableWf d t = true) : readRun d (writeRun d t a vs) a vs.length = vs := by
  induction vs generalizing t a with
  | nil => rfl
  | cons w vs ih =>
    rw [List.length_cons, readRun, writeRun, getAt_writeRun_out (by omega), getAt_putAt_self h, ih (tableWf_putAt h)]

/-- Bytes read back where they were written are the bytes. -/
theorem memRead_memWrite {m : Table Byte} {bs : List Byte} (h : Memory.wf blankByte m = true) :
    memRead (memWrite m a bs) a bs.length = bs := readRun_writeRun h

/-- Bytes apart from a write read as before. -/
theorem memRead_memWrite_apart {m : Table Byte} {bs : List Byte} (h : b + n ≤ a ∨ a + bs.length ≤ b) :
    memRead (memWrite m a bs) b n = memRead m b n :=
  readRun_congr (fun i _ _ => getAt_writeRun_out (by omega))

end Sys2Proof.Machine
end

