-- ==== Sys2Proof/Laws/Good.lean ====
section
/-!
SUPPORT. The frame that every command keeps: the queue's rest, the part manufacture fixed, and canonical memories. One lemma per operation
follows in the files Laws/Keep*.lean.
-/

namespace Sys2Proof.Machine

variable {Q : List Instr} {P : Part} {s t : State}

/-- The frame from its parts: what a record update shows. -/
theorem State.Good.of_and (h : s.Good Q P) :
    s.pending = Q ∧ s.mgmt.part = P ∧ Memory.wf blankByte s.mem = true ∧ Memory.wf blankByte s.ss = true := h

/-- A fold of operations that keep the frame. -/
theorem State.Good.foldl {α : Type} {l : List α} {g : State → α → State} (hg : ∀ s x, s.Good Q P → (g s x).Good Q P) (h : s.Good Q P) :
    (l.foldl g s).Good Q P := by
  induction l generalizing s with
  | nil => exact h
  | cons x l ih => exact ih (hg s x h)

/-- A fold over pairs whose state keeps the frame. -/
theorem State.Good.foldlPair {α β : Type} {l : List α} {g : State × β → α → State × β} {b : β}
    (hg : ∀ a x, a.1.Good Q P → (g a x).1.Good Q P) (h : s.Good Q P) : (l.foldl g (s, b)).1.Good Q P := by
  suffices H : ∀ a : State × β, a.1.Good Q P → (l.foldl g a).1.Good Q P from H (s, b) h
  induction l with
  | nil => exact fun a ha => ha
  | cons x l ih => exact fun a ha => ih _ (hg a x ha)

/-- Either branch of a choice. -/
theorem State.Good.ite {c : Prop} [Decidable c] (hs : s.Good Q P) (ht : t.Good Q P) : (if c then s else t).Good Q P := by
  split
  · exact hs
  · exact ht

/-- The state of a pair that is known. -/
theorem State.Good.ofFst {α : Type} {x : State × α} {a : α} (e : x = (s, a)) (h : x.1.Good Q P) : s.Good Q P := by
  rw [e] at h; exact h

/-- A draw of a free value keeps the frame. -/
theorem good_draw (s : State) (hs : s.Good Q P) : s.draw.2.Good Q P := hs

/-- The frame of a state that is known only by its memories. -/
theorem State.Good.self (h : s.store.Ok) : s.Good s.pending s.mgmt.part := ⟨rfl, rfl, h⟩

/-- The memories of a good state are in canonical form. -/
theorem State.Good.store (h : s.Good Q P) : s.store.Ok := h.2.2

/-- A fold of operations that keep a store's form. -/
theorem Store.Ok.foldl {α : Type} {l : List α} {g : Store → α → Store} {m : Store} (hg : ∀ m x, m.Ok → (g m x).Ok) (h : m.Ok) :
    (l.foldl g m).Ok := by
  induction l generalizing m with
  | nil => exact h
  | cons x l ih => exact ih (hg m x h)

/-- Either branch of a choice of stores. -/
theorem Store.Ok.ite {c : Prop} [Decidable c] {m n : Store} (hm : m.Ok) (hn : n.Ok) : (if c then m else n).Ok := by
  split
  · exact hm
  · exact hn

/-- A fold over pairs whose store keeps its form. -/
theorem Store.Ok.foldlPair {α β : Type} {l : List α} {g : Store × β → α → Store × β} {a : Store × β} (hg : ∀ a x, a.1.Ok → (g a x).1.Ok)
    (h : a.1.Ok) : (l.foldl g a).1.Ok := by
  induction l generalizing a with
  | nil => exact h
  | cons x l ih => exact ih (hg a x h)

/-- The store of a pair that is known. -/
theorem Store.Ok.ofFst {α : Type} {m : Store} {x : Store × α} {a : α} (e : x = (m, a)) (h : x.1.Ok) : m.Ok := by
  rw [e] at h; exact h

/-- Work that ends without effect leaves nothing to check. -/
theorem Work.Ok.bad {a b : Nat} : (Work.bad a b).Ok := trivial
/-- Work that halts leaves nothing to check. -/
theorem Work.Ok.halt {r : Run} : (Work.halt r).Ok := trivial
/-- Work that meets a mismatch leaves nothing to check. -/
theorem Work.Ok.mismatch {r : PageRef} : (Work.mismatch r).Ok := trivial
/-- Work that finds a row lost leaves nothing to check. -/
theorem Work.Ok.lost {n : Nat} : (Work.lost n).Ok := trivial
/-- Work done with a store in form. -/
theorem Work.Ok.done {a : Nat} {b c : FlagSet} {m : Store} (h : m.Ok) : (Work.done a b c m).Ok := h
/-- Either branch of a choice of outcomes. -/
theorem Work.Ok.ite {c : Prop} [Decidable c] {m n : Work} (hm : m.Ok) (hn : n.Ok) : (if c then m else n).Ok := by
  split
  · exact hm
  · exact hn

end Sys2Proof.Machine
end

