-- ==== Sys2Proof/Laws/KeepOps.lean ====
section
/-!
SUPPORT. The operations of Machine/Ops.lean keep the frame of `State.Good`.
-/

namespace Sys2Proof.Machine

variable {Q : List Instr} {P : Part}

/-- `State.setPart` keeps the frame. -/
theorem good_setPart (s : State) (n : Nat) (v : PartCfg) (hs : s.Good Q P) : (State.setPart s n v).Good Q P := by
  unfold State.setPart
  repeat' first
    | (with_reducible first | assumption | intro _ | apply State.Good.ite | apply State.Good.foldl)
    | split
    | (unfold State.Good State.MemOk; dsimp only; with_reducible apply State.Good.of_and; with_reducible first | assumption | apply State.Good.ite | apply State.Good.foldl)

/-- `State.setCtx` keeps the frame. -/
theorem good_setCtx (s : State) (n : Nat) (v : CtxCfg) (hs : s.Good Q P) : (State.setCtx s n v).Good Q P := by
  unfold State.setCtx
  repeat' first
    | (with_reducible first | assumption | intro _ | apply State.Good.ite | apply State.Good.foldl)
    | split
    | (unfold State.Good State.MemOk; dsimp only; with_reducible apply State.Good.of_and; with_reducible first | assumption | apply State.Good.ite | apply State.Good.foldl)

/-- `State.setSub` keeps the frame. -/
theorem good_setSub (s : State) (n : Nat) (v : SubRing) (hs : s.Good Q P) : (State.setSub s n v).Good Q P := by
  unfold State.setSub
  repeat' first
    | (with_reducible first | assumption | intro _ | apply State.Good.ite | apply State.Good.foldl)
    | split
    | (unfold State.Good State.MemOk; dsimp only; with_reducible apply State.Good.of_and; with_reducible first | assumption | apply State.Good.ite | apply State.Good.foldl)

/-- `State.setComp` keeps the frame. -/
theorem good_setComp (s : State) (n : Nat) (v : CompRing) (hs : s.Good Q P) : (State.setComp s n v).Good Q P := by
  unfold State.setComp
  repeat' first
    | (with_reducible first | assumption | intro _ | apply State.Good.ite | apply State.Good.foldl)
    | split
    | (unfold State.Good State.MemOk; dsimp only; with_reducible apply State.Good.of_and; with_reducible first | assumption | apply State.Good.ite | apply State.Good.foldl)

/-- `State.setRange` keeps the frame. -/
theorem good_setRange (s : State) (h : Nat) (v : RangeEnt) (hs : s.Good Q P) : (State.setRange s h v).Good Q P := by
  unfold State.setRange
  repeat' first
    | (with_reducible first | assumption | intro _ | apply State.Good.ite | apply State.Good.foldl)
    | split
    | (unfold State.Good State.MemOk; dsimp only; with_reducible apply State.Good.of_and; with_reducible first | assumption | apply State.Good.ite | apply State.Good.foldl)

/-- `State.setPool` keeps the frame. -/
theorem good_setPool (s : State) (n : Nat) (v : Pool) (hs : s.Good Q P) : (State.setPool s n v).Good Q P := by
  unfold State.setPool
  repeat' first
    | (with_reducible first | assumption | intro _ | apply State.Good.ite | apply State.Good.foldl)
    | split
    | (unfold State.Good State.MemOk; dsimp only; with_reducible apply State.Good.of_and; with_reducible first | assumption | apply State.Good.ite | apply State.Good.foldl)

/-- `State.setSeq` keeps the frame. -/
theorem good_setSeq (s : State) (n : Nat) (v : Seq) (hs : s.Good Q P) : (State.setSeq s n v).Good Q P := by
  unfold State.setSeq
  repeat' first
    | (with_reducible first | assumption | intro _ | apply State.Good.ite | apply State.Good.foldl)
    | split
    | (unfold State.Good State.MemOk; dsimp only; with_reducible apply State.Good.of_and; with_reducible first | assumption | apply State.Good.ite | apply State.Good.foldl)

/-- `State.setGroup` keeps the frame. -/
theorem good_setGroup (s : State) (n : Nat) (v : Group) (hs : s.Good Q P) : (State.setGroup s n v).Good Q P := by
  unfold State.setGroup
  repeat' first
    | (with_reducible first | assumption | intro _ | apply State.Good.ite | apply State.Good.foldl)
    | split
    | (unfold State.Good State.MemOk; dsimp only; with_reducible apply State.Good.of_and; with_reducible first | assumption | apply State.Good.ite | apply State.Good.foldl)

/-- `State.setLoop` keeps the frame. -/
theorem good_setLoop (s : State) (n : Nat) (v : LoopSt) (hs : s.Good Q P) : (State.setLoop s n v).Good Q P := by
  unfold State.setLoop
  repeat' first
    | (with_reducible first | assumption | intro _ | apply State.Good.ite | apply State.Good.foldl)
    | split
    | (unfold State.Good State.MemOk; dsimp only; with_reducible apply State.Good.of_and; with_reducible first | assumption | apply State.Good.ite | apply State.Good.foldl)

/-- `State.setModel` keeps the frame. -/
theorem good_setModel (s : State) (n : Nat) (v : Model) (hs : s.Good Q P) : (State.setModel s n v).Good Q P := by
  unfold State.setModel
  repeat' first
    | (with_reducible first | assumption | intro _ | apply State.Good.ite | apply State.Good.foldl)
    | split
    | (unfold State.Good State.MemOk; dsimp only; with_reducible apply State.Good.of_and; with_reducible first | assumption | apply State.Good.ite | apply State.Good.foldl)

/-- `State.setCcore` keeps the frame. -/
theorem good_setCcore (s : State) (n : Nat) (v : CCore) (hs : s.Good Q P) : (State.setCcore s n v).Good Q P := by
  unfold State.setCcore
  repeat' first
    | (with_reducible first | assumption | intro _ | apply State.Good.ite | apply State.Good.foldl)
    | split
    | (unfold State.Good State.MemOk; dsimp only; with_reducible apply State.Good.of_and; with_reducible first | assumption | apply State.Good.ite | apply State.Good.foldl)

/-- `State.setKernel` keeps the frame. -/
theorem good_setKernel (s : State) (n : Nat) (v : Kernel) (hs : s.Good Q P) : (State.setKernel s n v).Good Q P := by
  unfold State.setKernel
  repeat' first
    | (with_reducible first | assumption | intro _ | apply State.Good.ite | apply State.Good.foldl)
    | split
    | (unfold State.Good State.MemOk; dsimp only; with_reducible apply State.Good.of_and; with_reducible first | assumption | apply State.Good.ite | apply State.Good.foldl)

/-- `State.setCore` keeps the frame. -/
theorem good_setCore (s : State) (n : Nat) (v : Core) (hs : s.Good Q P) : (State.setCore s n v).Good Q P := by
  unfold State.setCore
  repeat' first
    | (with_reducible first | assumption | intro _ | apply State.Good.ite | apply State.Good.foldl)
    | split
    | (unfold State.Good State.MemOk; dsimp only; with_reducible apply State.Good.of_and; with_reducible first | assumption | apply State.Good.ite | apply State.Good.foldl)

/-- `State.setFport` keeps the frame. -/
theorem good_setFport (s : State) (n : Nat) (v : FPort) (hs : s.Good Q P) : (State.setFport s n v).Good Q P := by
  unfold State.setFport
  repeat' first
    | (with_reducible first | assumption | intro _ | apply State.Good.ite | apply State.Good.foldl)
    | split
    | (unfold State.Good State.MemOk; dsimp only; with_reducible apply State.Good.of_and; with_reducible first | assumption | apply State.Good.ite | apply State.Good.foldl)

/-- `State.setWatch` keeps the frame. -/
theorem good_setWatch (s : State) (n : Nat) (v : Watch) (hs : s.Good Q P) : (State.setWatch s n v).Good Q P := by
  unfold State.setWatch
  repeat' first
    | (with_reducible first | assumption | intro _ | apply State.Good.ite | apply State.Good.foldl)
    | split
    | (unfold State.Good State.MemOk; dsimp only; with_reducible apply State.Good.of_and; with_reducible first | assumption | apply State.Good.ite | apply State.Good.foldl)

/-- `State.setSsWin` keeps the frame. -/
theorem good_setSsWin (s : State) (n : Nat) (v : SsWindow) (hs : s.Good Q P) : (State.setSsWin s n v).Good Q P := by
  unfold State.setSsWin
  repeat' first
    | (with_reducible first | assumption | intro _ | apply State.Good.ite | apply State.Good.foldl)
    | split
    | (unfold State.Good State.MemOk; dsimp only; with_reducible apply State.Good.of_and; with_reducible first | assumption | apply State.Good.ite | apply State.Good.foldl)

/-- `State.setPiste` keeps the frame. -/
theorem good_setPiste (s : State) (cluster ctx : Nat) (v : Piste) (hs : s.Good Q P) : (State.setPiste s cluster ctx v).Good Q P := by
  unfold State.setPiste
  repeat' first
    | (with_reducible first | assumption | intro _ | apply State.Good.ite | apply State.Good.foldl)
    | split
    | (unfold State.Good State.MemOk; dsimp only; with_reducible apply State.Good.of_and; with_reducible first | assumption | apply State.Good.ite | apply State.Good.foldl)

/-- `State.setCluster` keeps the frame. -/
theorem good_setCluster (s : State) (n : Nat) (v : Cluster) (hs : s.Good Q P) : (State.setCluster s n v).Good Q P := by
  unfold State.setCluster
  dsimp only
  repeat' first
    | (with_reducible first | assumption | intro _ | apply State.Good.ite | apply State.Good.foldl)
    | split
    | (unfold State.Good State.MemOk; dsimp only; with_reducible apply State.Good.of_and; with_reducible first | assumption | apply State.Good.ite | apply State.Good.foldl)

/-- `State.tick` keeps the frame. -/
theorem good_tick (s : State) (hs : s.Good Q P) : (State.tick s).Good Q P := by
  unfold State.tick
  repeat' first
    | (with_reducible first | assumption | intro _ | apply State.Good.ite | apply State.Good.foldl)
    | split
    | (unfold State.Good State.MemOk; dsimp only; with_reducible apply State.Good.of_and; with_reducible first | assumption | apply State.Good.ite | apply State.Good.foldl)

/-- `State.logEvent` keeps the frame. -/
theorem good_logEvent (s : State) (event cls unit index place : Nat) (ctx : Nat := 0xFFFF) (tag : Word := 0) (hs : s.Good Q P) : (State.logEvent s event cls unit index place ctx tag).Good Q P := by
  unfold State.logEvent
  dsimp only
  repeat' first
    | (with_reducible first | assumption | intro _ | apply State.Good.ite | apply State.Good.foldl)
    | split
    | (unfold State.Good State.MemOk; dsimp only; with_reducible apply State.Good.of_and; with_reducible first | assumption | apply State.Good.ite | apply State.Good.foldl)

/-- `State.cfgIgnored` keeps the frame. -/
theorem good_cfgIgnored (s : State) (offset : Nat) (hs : s.Good Q P) : (State.cfgIgnored s offset).Good Q P := by
  unfold State.cfgIgnored
  repeat' first
    | (with_reducible first | assumption | intro _ | apply State.Good.ite | apply State.Good.foldl | apply good_logEvent)

/-- `State.noteRepeat` keeps the frame. -/
theorem good_noteRepeat (s : State) (event unit index place : Nat) (hs : s.Good Q P) : (State.noteRepeat s event unit index place).Good Q P := by
  unfold State.noteRepeat
  dsimp only
  repeat' first
    | (with_reducible first | assumption | intro _ | apply State.Good.ite | apply State.Good.foldl | apply good_logEvent)
    | split
    | (unfold State.Good State.MemOk; dsimp only; with_reducible apply State.Good.of_and; with_reducible first | assumption | apply State.Good.ite | apply State.Good.foldl | apply good_logEvent)

/-- `State.enterFatal` keeps the frame. -/
theorem good_enterFatal (s : State) (cause : Nat) (hs : s.Good Q P) : (State.enterFatal s cause).Good Q P := by
  unfold State.enterFatal
  dsimp only
  repeat' first
    | (with_reducible first | assumption | intro _ | apply State.Good.ite | apply State.Good.foldl | apply State.Good.store | apply Store.Ok.ite | apply Store.Ok.foldl | apply Store.Ok.foldlPair | apply good_logEvent)
    | split
    | (unfold State.Good State.MemOk; dsimp only; with_reducible apply State.Good.of_and; with_reducible first | assumption | apply State.Good.ite | apply State.Good.foldl | apply State.Good.store | apply Store.Ok.ite | apply Store.Ok.foldl | apply Store.Ok.foldlPair | apply good_logEvent)

/-- `State.withStore` keeps the frame. -/
theorem good_withStore (s : State) (m : Store) (h : s.Good Q P) (hm : m.Ok) : (s.withStore m).Good Q P :=
  ⟨h.1, h.2.1, hm.1, hm.2⟩

/-- `Store.write` keeps the frame. -/
theorem ok_write (m : Store) (tier a : Nat) (bs : List Byte) (h : m.Ok) : (m.write tier a bs).Ok := by
  unfold Store.write
  split
  · exact ⟨h.1, wf_memWrite h.2⟩
  · exact ⟨wf_memWrite h.1, h.2⟩

/-- `State.memPut` keeps the frame. -/
theorem good_memPut (s : State) (a : Nat) (bs : List Byte) (h : s.Good Q P) : (s.memPut a bs).Good Q P :=
  ⟨h.1, h.2.1, wf_memWrite h.2.2.1, h.2.2.2⟩

/-- `State.landCut` keeps the frame. -/
theorem good_landCut (s : State) (a : Nat) (bs : List Byte) (hs : s.Good Q P) : (State.landCut s a bs).Good Q P := by
  unfold State.landCut
  dsimp only
  repeat' first
    | (with_reducible first | assumption | intro _ | apply State.Good.ite | apply State.Good.foldl | apply good_draw | apply good_memPut)

/-- `State.storeRun` keeps the frame. -/
theorem ok_storeRun (s : State) (m : Store) (x : Desc) (r : Run) (bs : List Byte) (hs : m.Ok) : (State.storeRun s m x r bs).Ok := by
  unfold State.storeRun
  repeat' first
    | (with_reducible first | assumption | intro _ | apply State.Good.ite | apply State.Good.foldl | apply State.Good.store | apply Store.Ok.ite | apply Store.Ok.foldl | apply Store.Ok.foldlPair | apply ok_write | apply State.Good.self)
    | split

/-- `State.setDesc` keeps the frame. -/
theorem good_setDesc (s : State) (x : Desc) (hs : s.Good Q P) : (State.setDesc s x).Good Q P := by
  unfold State.setDesc
  repeat' first
    | (with_reducible first | assumption | intro _ | apply State.Good.ite | apply State.Good.foldl)
    | split
    | (unfold State.Good State.MemOk; dsimp only; with_reducible apply State.Good.of_and; with_reducible first | assumption | apply State.Good.ite | apply State.Good.foldl)

/-- `State.pushRecord` keeps the frame. -/
theorem good_pushRecord (s : State) (cring status : Nat) (irq : Bool) (bytes : List Byte) (d : Did) (hs : s.Good Q P) : (State.pushRecord s cring status irq bytes d).Good Q P := by
  unfold State.pushRecord
  repeat' first
    | (with_reducible first | assumption | intro _ | apply State.Good.ite | apply State.Good.foldl | apply good_setComp)

/-- `State.report` keeps the frame. -/
theorem good_report (s : State) (x : Desc) (status detail : Nat) (hs : s.Good Q P) : (State.report s x status detail).Good Q P := by
  unfold State.report
  repeat' first
    | (with_reducible first | assumption | intro _ | apply State.Good.ite | apply State.Good.foldl | apply good_pushRecord)

/-- `State.drainRing` keeps the frame. -/
theorem good_drainRing (s : State) (n : Nat) (hs : s.Good Q P) : (State.drainRing s n).Good Q P := by
  unfold State.drainRing
  dsimp only
  repeat' first
    | (with_reducible first | assumption | intro _ | apply State.Good.ite | apply State.Good.foldl | apply good_setSub)

/-- `State.settleSeqs` keeps the frame. -/
theorem good_settleSeqs (s : State) (hs : s.Good Q P) : (State.settleSeqs s).Good Q P := by
  unfold State.settleSeqs
  dsimp only
  repeat' first
    | (with_reducible first | assumption | intro _ | apply State.Good.ite | apply State.Good.foldl | apply good_setSeq)

/-- `State.dirtySeqs` keeps the frame. -/
theorem good_dirtySeqs (s : State) (ns : List Nat) (hs : s.Good Q P) : (State.dirtySeqs s ns).Good Q P := by
  unfold State.dirtySeqs
  repeat' first
    | (with_reducible first | assumption | intro _ | apply State.Good.ite | apply State.Good.foldl)
    | split
    | (unfold State.Good State.MemOk; dsimp only; with_reducible apply State.Good.of_and; with_reducible first | assumption | apply State.Good.ite | apply State.Good.foldl)

/-- `State.writeBack` keeps the frame. -/
theorem good_writeBack (s : State) (n : Nat) (hs : s.Good Q P) : (State.writeBack s n).Good Q P := by
  unfold State.writeBack
  dsimp only
  repeat' first
    | (with_reducible first | assumption | intro _ | apply State.Good.ite | apply State.Good.foldl | apply State.Good.store | apply Store.Ok.ite | apply Store.Ok.foldl | apply Store.Ok.foldlPair | apply good_withStore | apply ok_write)
    | split
    | (unfold State.Good State.MemOk; dsimp only; with_reducible apply State.Good.of_and; with_reducible first | assumption | apply State.Good.ite | apply State.Good.foldl | apply State.Good.store | apply Store.Ok.ite | apply Store.Ok.foldl | apply Store.Ok.foldlPair | apply good_withStore | apply ok_write)

/-- `State.trimCache` keeps the frame. -/
theorem good_trimCache (s : State) (n : Nat) (hs : s.Good Q P) : (s.trimCache n).Good Q P := by
  induction n generalizing s with
  | zero => exact hs
  | succ n ih =>
    unfold State.trimCache
    split
    · exact hs
    · split
      · exact hs
      · exact ih _ (State.Good.ite (good_writeBack _ _ hs) hs)

/-- `State.cacheSeq` keeps the frame. -/
theorem good_cacheSeq (s : State) (n : Nat) (hs : s.Good Q P) : (State.cacheSeq s n).Good Q P := by
  unfold State.cacheSeq
  dsimp only
  repeat' first
    | (with_reducible first | assumption | intro _ | apply State.Good.ite | apply State.Good.foldl | apply good_setSeq | apply good_logEvent | apply good_trimCache)
    | split
    | (unfold State.Good State.MemOk; dsimp only; with_reducible apply State.Good.of_and; with_reducible first | assumption | apply State.Good.ite | apply State.Good.foldl | apply good_setSeq | apply good_logEvent | apply good_trimCache)

/-- `State.cacheSeqs` keeps the frame. -/
theorem good_cacheSeqs (s : State) (ns : List Nat) (hs : s.Good Q P) : (State.cacheSeqs s ns).Good Q P := by
  unfold State.cacheSeqs
  repeat' first
    | (with_reducible first | assumption | intro _ | apply State.Good.ite | apply State.Good.foldl | apply good_cacheSeq)

/-- `State.removeDesc` keeps the frame. -/
theorem good_removeDesc (s : State) (d : Did) (hs : s.Good Q P) : (State.removeDesc s d).Good Q P := by
  unfold State.removeDesc
  dsimp only
  repeat' first
    | (with_reducible first | assumption | intro _ | apply State.Good.ite | apply State.Good.foldl | apply good_drainRing | apply good_settleSeqs | apply good_dirtySeqs | apply good_cacheSeqs)
    | split
    | (unfold State.Good State.MemOk; dsimp only; with_reducible apply State.Good.of_and; with_reducible first | assumption | apply State.Good.ite | apply State.Good.foldl | apply good_drainRing | apply good_settleSeqs | apply good_dirtySeqs | apply good_cacheSeqs)

/-- `State.retire` keeps the frame. -/
theorem good_retire (s : State) (x : Desc) (status detail : Nat) (hs : s.Good Q P) : (State.retire s x status detail).Good Q P := by
  unfold State.retire
  dsimp only
  repeat' first
    | (with_reducible first | assumption | intro _ | apply State.Good.ite | apply State.Good.foldl | apply good_report | apply good_removeDesc)

/-- `State.unretire` keeps the frame. -/
theorem good_unretire (s : State) (x : Desc) (hs : s.Good Q P) : (State.unretire s x).Good Q P := by
  unfold State.unretire
  dsimp only
  repeat' first
    | (with_reducible first | assumption | intro _ | apply State.Good.ite | apply State.Good.foldl | apply good_setRange)

/-- `State.cutDesc` keeps the frame. -/
theorem good_cutDesc (s : State) (x : Desc) (hs : s.Good Q P) : (State.cutDesc s x).Good Q P := by
  unfold State.cutDesc
  repeat' first
    | (with_reducible first | assumption | intro _ | apply State.Good.ite | apply State.Good.foldl | apply good_retire | apply good_unretire)

/-- `State.addFault` keeps the frame. -/
theorem good_addFault (s : State) (f : PFault) (hs : s.Good Q P) : (State.addFault s f).Good Q P := by
  unfold State.addFault
  repeat' first
    | (with_reducible first | assumption | intro _ | apply State.Good.ite | apply State.Good.foldl)
    | split
    | (unfold State.Good State.MemOk; dsimp only; with_reducible apply State.Good.of_and; with_reducible first | assumption | apply State.Good.ite | apply State.Good.foldl)

/-- `State.haltAt` keeps the frame. -/
theorem good_haltAt (s : State) (x : Desc) (core : Option Nat) (r : Run) (hs : s.Good Q P) : (State.haltAt s x core r).Good Q P := by
  unfold State.haltAt
  dsimp only
  repeat' first
    | (with_reducible first | assumption | intro _ | apply State.Good.ite | apply State.Good.foldl | apply good_setDesc | apply good_addFault)

/-- `State.haltOn` keeps the frame. -/
theorem good_haltOn (s : State) (x : Desc) (r : Run) (hs : s.Good Q P) : (State.haltOn s x r).Good Q P := by
  unfold State.haltOn
  repeat' first
    | (with_reducible first | assumption | intro _ | apply State.Good.ite | apply State.Good.foldl | apply good_haltAt)

/-- `State.raiseOn` keeps the frame. -/
theorem good_raiseOn (s : State) (ctx : Nat) (af sf : FlagSet) (hs : s.Good Q P) : (State.raiseOn s ctx af sf).Good Q P := by
  unfold State.raiseOn
  dsimp only
  repeat' first
    | (with_reducible first | assumption | intro _ | apply State.Good.ite | apply State.Good.foldl | apply good_draw | apply good_setCore)

/-- `workOfAcc` keeps the frame. -/
theorem ok_workOfAcc (r : Run) (a : Acc) : (workOfAcc r a).Ok := by cases a <;> exact trivial

/-- `State.guarded` keeps the frame. -/
theorem ok_guarded (s : State) (x : Desc) (runs : List Run) (k : Unit → Work) (hk : ∀ u, (k u).Ok) : (s.guarded x runs k).Ok := by
  unfold State.guarded
  split
  · rename_i r a _
    cases a <;> exact trivial
  · exact hk ()

/-- `State.clearCvu` keeps the frame. -/
theorem good_clearCvu (s : State) (n : Nat) (hs : s.Good Q P) : (State.clearCvu s n).Good Q P := by
  unfold State.clearCvu
  repeat' first
    | (with_reducible first | assumption | intro _ | apply State.Good.ite | apply State.Good.foldl)
    | split
    | (unfold State.Good State.MemOk; dsimp only; with_reducible apply State.Good.of_and; with_reducible first | assumption | apply State.Good.ite | apply State.Good.foldl)

/-- `State.takeCvu` keeps the frame. -/
theorem good_takeCvu (s : State) (hs : s.Good Q P) : (State.takeCvu s).Good Q P := by
  unfold State.takeCvu
  repeat' first
    | (with_reducible first | assumption | intro _ | apply State.Good.ite | apply State.Good.foldl | apply good_clearCvu)

/-- `State.leaveCvus` keeps the frame. -/
theorem good_leaveCvus (s : State) (ctx : Nat) (hs : s.Good Q P) : (State.leaveCvus s ctx).Good Q P := by
  unfold State.leaveCvus
  repeat' first
    | (with_reducible first | assumption | intro _ | apply State.Good.ite | apply State.Good.foldl | apply good_clearCvu)

/-- `State.countBubbles` keeps the frame. -/
theorem good_countBubbles (s : State) (c : Nat) (hs : s.Good Q P) : (State.countBubbles s c).Good Q P := by
  unfold State.countBubbles
  dsimp only
  repeat' first
    | (with_reducible first | assumption | intro _ | apply State.Good.ite | apply State.Good.foldl | apply good_draw | apply good_setCore)

end Sys2Proof.Machine
end

