-- ==== Sys2Proof/Laws/KeepBobbin.lean ====
section
/-!
SUPPORT. The operations of Machine/Bobbin.lean keep the frame of `State.Good`.
-/

namespace Sys2Proof.Machine

variable {Q : List Instr} {P : Part}

/-- `State.landOut` keeps the frame. -/
theorem good_landOut (s : State) (o : Out) (hs : s.Good Q P) : (State.landOut s o).Good Q P := by
  unfold State.landOut
  repeat' first
    | (with_reducible first | assumption | intro _ | apply State.Good.ite | apply State.Good.foldl | apply good_memPut)

/-- `State.cutOut` keeps the frame. -/
theorem good_cutOut (s : State) (o : Out) (hs : s.Good Q P) : (State.cutOut s o).Good Q P := by
  unfold State.cutOut
  repeat' first
    | (with_reducible first | assumption | intro _ | apply State.Good.ite | apply State.Good.foldl | apply good_landCut)

/-- `State.sendSmall` keeps the frame. -/
theorem good_sendSmall {t : State} (s : State) (r : SmallReq) (hs : s.Good Q P) (e : s.sendSmall r = some t) : t.Good Q P := by
  unfold State.sendSmall at e
  dsimp only at e
  repeat' split at e
  all_goals first
    | cases e; done
    | obtain rfl := Option.some.inj e
      exact good_setFport _ _ _ hs

/-- `State.sendSmalls` keeps the frame. -/
theorem good_sendSmalls (s : State) (l held : List SmallReq) (hs : s.Good Q P) : (s.sendSmalls l held).1.Good Q P := by
  induction l generalizing s held with
  | nil => exact hs
  | cons r l ih =>
    unfold State.sendSmalls
    dsimp only
    repeat' split
    all_goals first
      | exact ih _ _ hs
      | exact ih _ _ (good_sendSmall _ _ hs (by assumption))

/-- `State.pumpSmalls` keeps the frame. -/
theorem good_pumpSmalls (s : State) (hs : s.Good Q P) : (State.pumpSmalls s).Good Q P := by
  unfold State.pumpSmalls
  dsimp only
  repeat' first
    | (with_reducible first | assumption | intro _ | apply State.Good.ite | apply State.Good.foldl | apply good_sendSmalls)
    | split
    | (unfold State.Good State.MemOk; dsimp only; with_reducible apply State.Good.of_and; with_reducible first | assumption | apply State.Good.ite | apply State.Good.foldl | apply good_sendSmalls)

/-- `State.ask` keeps the frame. -/
theorem good_ask (s : State) (r : SmallReq) (hs : s.Good Q P) : (State.ask s r).Good Q P := by
  unfold State.ask
  repeat' first
    | (with_reducible first | assumption | intro _ | apply State.Good.ite | apply State.Good.foldl | apply good_pumpSmalls)
    | split
    | (unfold State.Good State.MemOk; dsimp only; with_reducible apply State.Good.of_and; with_reducible first | assumption | apply State.Good.ite | apply State.Good.foldl | apply good_pumpSmalls)

/-- `State.bobWrite` keeps the frame. -/
theorem good_bobWrite (s : State) (port a : Nat) (bs : List Byte) (fenced : Bool) (d : Option Did) (hs : s.Good Q P) : (State.bobWrite s port a bs fenced d).Good Q P := by
  unfold State.bobWrite
  repeat' first
    | (with_reducible first | assumption | intro _ | apply State.Good.ite | apply State.Good.foldl | apply good_ask)

/-- `State.bobSpend` keeps the frame. -/
theorem good_bobSpend (s : State) (a : Nat) (hs : s.Good Q P) : (State.bobSpend s a).Good Q P := by
  unfold State.bobSpend
  dsimp only
  repeat' first
    | (with_reducible first | assumption | intro _ | apply State.Good.ite | apply State.Good.foldl | apply good_setFport)

/-- `State.bobRun` keeps the frame. -/
theorem good_bobRun (s : State) (x : Desc) (port : Nat) (r : Run) (bs : List Byte) (fenced : Bool) (hs : s.Good Q P) : (State.bobRun s x port r bs fenced).Good Q P := by
  unfold State.bobRun
  repeat' first
    | (with_reducible first | assumption | intro _ | apply State.Good.ite | apply State.Good.foldl | apply State.Good.store | apply Store.Ok.ite | apply Store.Ok.foldl | apply Store.Ok.foldlPair | apply good_withStore | apply ok_write | apply good_bobWrite)
    | split

/-- `State.sendWatch` keeps the frame. -/
theorem good_sendWatch (s : State) (n : Nat) (hs : s.Good Q P) : (State.sendWatch s n).Good Q P := by
  unfold State.sendWatch
  repeat' first
    | (with_reducible first | assumption | intro _ | apply State.Good.ite | apply State.Good.foldl | apply good_ask)

/-- `State.beginWatch` keeps the frame. -/
theorem good_beginWatch (s : State) (n : Nat) (w : WatchOwner) (hs : s.Good Q P) : (State.beginWatch s n w).Good Q P := by
  unfold State.beginWatch
  dsimp only
  repeat' first
    | (with_reducible first | assumption | intro _ | apply State.Good.ite | apply State.Good.foldl | apply good_setWatch | apply good_sendWatch)

/-- `State.endWatch` keeps the frame. -/
theorem good_endWatch (s : State) (n : Nat) (hs : s.Good Q P) : (State.endWatch s n).Good Q P := by
  unfold State.endWatch
  dsimp only
  repeat' first
    | (with_reducible first | assumption | intro _ | apply State.Good.ite | apply State.Good.foldl | apply good_setWatch)
    | split
    | (unfold State.Good State.MemOk; dsimp only; with_reducible apply State.Good.of_and; with_reducible first | assumption | apply State.Good.ite | apply State.Good.foldl | apply good_setWatch)

/-- `State.readSeen` keeps the frame. -/
theorem good_readSeen (s : State) (n : Nat) (hs : s.Good Q P) : (State.readSeen s n).Good Q P := by
  unfold State.readSeen
  dsimp only
  repeat' first
    | (with_reducible first | assumption | intro _ | apply State.Good.ite | apply State.Good.foldl | apply good_setWatch)

/-- `State.watchDone` keeps the frame. -/
theorem good_watchDone (s : State) (at_ : Nat × Nat) (hs : s.Good Q P) : (State.watchDone s at_).Good Q P := by
  unfold State.watchDone
  repeat' first
    | (with_reducible first | assumption | intro _ | apply State.Good.ite | apply State.Good.foldl | apply good_setFport | apply good_pumpSmalls)

/-- `State.takeUnits` keeps the frame. -/
theorem good_takeUnits (s : State) (part n : Nat) (hs : s.Good Q P) : (State.takeUnits s part n).Good Q P := by
  unfold State.takeUnits
  dsimp only
  repeat' first
    | (with_reducible first | assumption | intro _ | apply State.Good.ite | apply State.Good.foldl | apply good_setPart)

end Sys2Proof.Machine
end

