-- ==== Sys2Proof/Laws/KeepOperands.lean ====
section
/-!
SUPPORT. The operations of Machine/Operands.lean keep the frame of `State.Good`.
-/

namespace Sys2Proof.Machine

variable {Q : List Instr} {P : Part}

/-- `State.markClash` keeps the frame. -/
theorem good_markClash (s : State) (x : Desc) (hs : s.Good Q P) : (s.markClash x).2.Good Q P := by
  unfold State.markClash
  split
  · exact hs
  · exact hs

/-- `State.putHistAt` keeps the frame. -/
theorem ok_putHistAt (s : State) (m : Store) (x : Desc) (r : Run) (h : Hist) (fmt : Nat) (flags : FlagSet) (hs : m.Ok) : (State.putHistAt s m x r h fmt flags).Ok := by
  unfold State.putHistAt
  repeat' first
    | (with_reducible first | assumption | intro _ | apply State.Good.ite | apply State.Good.foldl | apply State.Good.store | apply Store.Ok.ite | apply Store.Ok.foldl | apply Store.Ok.foldlPair | apply ok_storeRun)

/-- `State.putHist` keeps the frame. -/
theorem ok_putHist (s : State) (m : Store) (x : Desc) (slot : Nat) (h : Hist) (fmt : Nat) (flags : FlagSet) (hs : m.Ok) : (State.putHist s m x slot h fmt flags).Ok := by
  unfold State.putHist
  repeat' first
    | (with_reducible first | assumption | intro _ | apply State.Good.ite | apply State.Good.foldl | apply State.Good.store | apply Store.Ok.ite | apply Store.Ok.foldl | apply Store.Ok.foldlPair | apply ok_putHistAt)

end Sys2Proof.Machine
end

