-- ==== Sys2Proof/Laws/KeepFlags.lean ====
section
/-!
SUPPORT. The operations of Machine/Flags.lean keep the frame of `State.Good`.
-/

namespace Sys2Proof.Machine

variable {Q : List Instr} {P : Part}

/-- `State.raiseArray` keeps the frame. -/
theorem good_raiseArray (s : State) (c : Nat) (f : FlagSet) (hs : s.Good Q P) : (State.raiseArray s c f).Good Q P := by
  unfold State.raiseArray
  dsimp only
  repeat' first
    | (with_reducible first | assumption | intro _ | apply State.Good.ite | apply State.Good.foldl | apply good_setCore)

/-- `State.raiseSfu` keeps the frame. -/
theorem good_raiseSfu (s : State) (c : Nat) (f : FlagSet) (hs : s.Good Q P) : (State.raiseSfu s c f).Good Q P := by
  unfold State.raiseSfu
  dsimp only
  repeat' first
    | (with_reducible first | assumption | intro _ | apply State.Good.ite | apply State.Good.foldl | apply good_setCore)

/-- `State.raiseColl` keeps the frame. -/
theorem good_raiseColl (s : State) (f : FlagSet) (hs : s.Good Q P) : (State.raiseColl s f).Good Q P := by
  unfold State.raiseColl
  repeat' first
    | (with_reducible first | assumption | intro _ | apply State.Good.ite | apply State.Good.foldl)
    | split
    | (unfold State.Good State.MemOk; dsimp only; with_reducible apply State.Good.of_and; with_reducible first | assumption | apply State.Good.ite | apply State.Good.foldl)

/-- `State.raiseDesc` keeps the frame. -/
theorem good_raiseDesc (s : State) (d : Did) (f : FlagSet) (hs : s.Good Q P) : (State.raiseDesc s d f).Good Q P := by
  unfold State.raiseDesc
  repeat' first
    | (with_reducible first | assumption | intro _ | apply State.Good.ite | apply State.Good.foldl | apply good_setDesc)
    | split

/-- `State.noteStatus` keeps the frame. -/
theorem good_noteStatus (s : State) (d : Did) (st detail : Nat) (hs : s.Good Q P) : (State.noteStatus s d st detail).Good Q P := by
  unfold State.noteStatus
  dsimp only
  repeat' first
    | (with_reducible first | assumption | intro _ | apply State.Good.ite | apply State.Good.foldl | apply good_setDesc)
    | split

/-- `State.countCorrected` keeps the frame. -/
theorem good_countCorrected (s : State) (c : Nat) (hs : s.Good Q P) : (State.countCorrected s c).Good Q P := by
  unfold State.countCorrected
  dsimp only
  repeat' first
    | (with_reducible first | assumption | intro _ | apply State.Good.ite | apply State.Good.foldl | apply good_setCore)

/-- `State.countCorrectedSs` keeps the frame. -/
theorem good_countCorrectedSs (s : State) (hs : s.Good Q P) : (State.countCorrectedSs s).Good Q P := by
  unfold State.countCorrectedSs
  repeat' first
    | (with_reducible first | assumption | intro _ | apply State.Good.ite | apply State.Good.foldl)
    | split
    | (unfold State.Good State.MemOk; dsimp only; with_reducible apply State.Good.of_and; with_reducible first | assumption | apply State.Good.ite | apply State.Good.foldl)

/-- `State.clearFlags` keeps the frame. -/
theorem good_clearFlags (s : State) (c : Nat) (value raised : Word) (hs : s.Good Q P) : (State.clearFlags s c value raised).Good Q P := by
  unfold State.clearFlags
  dsimp only
  repeat' first
    | (with_reducible first | assumption | intro _ | apply State.Good.ite | apply State.Good.foldl | apply good_setCore)

end Sys2Proof.Machine
end

