-- ==== Sys2Proof/Laws/KeepBolt.lean ====
section
/-!
SUPPORT. The operations of Machine/Bolt.lean keep the frame of `State.Good`.
-/

namespace Sys2Proof.Machine

variable {Q : List Instr} {P : Part}

/-- `State.pageWrite` keeps the frame. -/
theorem good_pageWrite (s : State) (r : PageRef) (off : Nat) (bs : List Byte) (hs : s.Good Q P) : (State.pageWrite s r off bs).Good Q P := by
  unfold State.pageWrite
  dsimp only
  repeat' first
    | (with_reducible first | assumption | intro _ | apply State.Good.ite | apply State.Good.foldl | apply State.Good.store | apply Store.Ok.ite | apply Store.Ok.foldl | apply Store.Ok.foldlPair | apply good_withStore | apply ok_write)

/-- `State.putHeader` keeps the frame. -/
theorem good_putHeader (s : State) (r : PageRef) (seq layer pos wmask : Nat) (prov sealed : Bool) (crc : Nat) (hs : s.Good Q P) : (State.putHeader s r seq layer pos wmask prov sealed crc).Good Q P := by
  unfold State.putHeader
  repeat' first
    | (with_reducible first | assumption | intro _ | apply State.Good.ite | apply State.Good.foldl | apply good_pageWrite)

/-- `State.setWmask` keeps the frame. -/
theorem good_setWmask (s : State) (r : PageRef) (m : Nat) (hs : s.Good Q P) : (State.setWmask s r m).Good Q P := by
  unfold State.setWmask
  dsimp only
  repeat' first
    | (with_reducible first | assumption | intro _ | apply State.Good.ite | apply State.Good.foldl | apply good_takeCvu | apply good_putHeader)

/-- `State.putRow` keeps the frame. -/
theorem good_putRow (s : State) (r : PageRef) (k : Nat) (row : List (List Byte)) (hs : s.Good Q P) : (State.putRow s r k row).Good Q P := by
  unfold State.putRow
  dsimp only
  repeat' first
    | (with_reducible first | assumption | intro _ | apply State.Good.ite | apply State.Good.foldl | apply good_pageWrite | apply good_setWmask)

/-- `Pool.storeMeta` keeps the frame. -/
theorem ok_storeMeta (p : Pool) (pages blocks : Nat × Nat) (counts : List Nat) (m : Store) (hs : m.Ok) : (Pool.storeMeta p pages blocks counts m).Ok := by
  unfold Pool.storeMeta
  dsimp only
  repeat' first
    | (with_reducible first | assumption | intro _ | apply State.Good.ite | apply State.Good.foldl | apply State.Good.store | apply Store.Ok.ite | apply Store.Ok.foldl | apply Store.Ok.foldlPair | apply ok_write)

/-- `State.putPool` keeps the frame. -/
theorem good_putPool (s : State) (n : Nat) (p : Pool) (hs : s.Good Q P) : (State.putPool s n p).Good Q P := by
  unfold State.putPool
  dsimp only
  repeat' first
    | (with_reducible first | assumption | intro _ | apply State.Good.ite | apply State.Good.foldl | apply State.Good.store | apply Store.Ok.ite | apply Store.Ok.foldl | apply Store.Ok.foldlPair | apply good_setPool | apply good_withStore | apply ok_storeMeta)

/-- `State.freshPool` keeps the frame. -/
theorem good_freshPool (s : State) (n : Nat) (p : Pool) (hs : s.Good Q P) : (State.freshPool s n p).Good Q P := by
  unfold State.freshPool
  dsimp only
  repeat' first
    | (with_reducible first | assumption | intro _ | apply State.Good.ite | apply State.Good.foldl | apply State.Good.store | apply Store.Ok.ite | apply Store.Ok.foldl | apply Store.Ok.foldlPair | apply good_setPool | apply good_withStore | apply ok_storeMeta)

/-- `State.freePage` keeps the frame. -/
theorem good_freePage (s : State) (r : PageRef) (self : Option Did) (hs : s.Good Q P) : (State.freePage s r self).Good Q P := by
  unfold State.freePage
  dsimp only
  repeat' first
    | (with_reducible first | assumption | intro _ | apply State.Good.ite | apply State.Good.foldl | apply good_putPool)
    | split

/-- `State.dropRef` keeps the frame. -/
theorem good_dropRef (s : State) (r : PageRef) (self : Option Did) (hs : s.Good Q P) : (State.dropRef s r self).Good Q P := by
  unfold State.dropRef
  dsimp only
  repeat' first
    | (with_reducible first | assumption | intro _ | apply State.Good.ite | apply State.Good.foldl | apply good_putPool | apply good_freePage)

/-- `State.dropRefs` keeps the frame. -/
theorem good_dropRefs (s : State) (rs : List PageRef) (self : Option Did) (hs : s.Good Q P) : (State.dropRefs s rs self).Good Q P := by
  unfold State.dropRefs
  repeat' first
    | (with_reducible first | assumption | intro _ | apply State.Good.ite | apply State.Good.foldl | apply good_dropRef)

/-- `State.freeBlock` keeps the frame. -/
theorem good_freeBlock (s : State) (pool n : Nat) (self : Option Did) (hs : s.Good Q P) : (State.freeBlock s pool n self).Good Q P := by
  unfold State.freeBlock
  dsimp only
  repeat' first
    | (with_reducible first | assumption | intro _ | apply State.Good.ite | apply State.Good.foldl | apply good_putPool)
    | split

/-- `State.freeBlocks` keeps the frame. -/
theorem good_freeBlocks (s : State) (pool : Nat) (ns : List Nat) (self : Option Did) (hs : s.Good Q P) : (State.freeBlocks s pool ns self).Good Q P := by
  unfold State.freeBlocks
  repeat' first
    | (with_reducible first | assumption | intro _ | apply State.Good.ite | apply State.Good.foldl | apply good_freeBlock)

/-- `State.addRef` keeps the frame. -/
theorem good_addRef (s : State) (r : PageRef) (hs : s.Good Q P) : (State.addRef s r).1.Good Q P := by
  unfold State.addRef
  dsimp only
  repeat' first
    | (with_reducible first | assumption | intro _ | apply State.Good.ite | apply State.Good.foldl | apply State.Good.foldlPair | apply good_putPool)
    | split

/-- `State.takePage` keeps the frame. -/
theorem good_takePage (s : State) (pool seq layer pos : Nat) (prov : Bool) (hs : s.Good Q P) : (State.takePage s pool seq layer pos prov).1.Good Q P := by
  unfold State.takePage
  dsimp only
  repeat' first
    | (with_reducible first | assumption | intro _ | apply State.Good.ite | apply State.Good.foldl | apply State.Good.foldlPair | apply good_putHeader | apply good_putPool)
    | split

/-- `State.takeBlocks` keeps the frame. -/
theorem good_takeBlocks (s : State) (pool n : Nat) (hs : s.Good Q P) : (s.takeBlocks pool n).1.Good Q P := by
  induction n generalizing s with
  | zero => exact hs
  | succ n ih =>
    unfold State.takeBlocks
    split
    · exact hs
    · exact ih _ (good_putPool _ _ _ hs)

/-- `State.putSeq` keeps the frame. -/
theorem good_putSeq (s : State) (n : Nat) (q : Seq) (hs : s.Good Q P) : (State.putSeq s n q).Good Q P := by
  unfold State.putSeq
  repeat' first
    | (with_reducible first | assumption | intro _ | apply State.Good.ite | apply State.Good.foldl | apply good_setSeq | apply good_dirtySeqs)

/-- `State.putIndexed` keeps the frame. -/
theorem good_putIndexed (s : State) (n : Nat) (q : Seq) (hs : s.Good Q P) : (State.putIndexed s n q).Good Q P := by
  unfold State.putIndexed
  dsimp only
  repeat' first
    | (with_reducible first | assumption | intro _ | apply State.Good.ite | apply State.Good.foldl | apply State.Good.store | apply Store.Ok.ite | apply Store.Ok.foldl | apply Store.Ok.foldlPair | apply good_withStore | apply ok_write | apply good_putSeq)

/-- `State.takeSeqId` keeps the frame. -/
theorem good_takeSeqId (s : State) (part n : Nat) (hs : s.Good Q P) : (s.takeSeqId part n).2.Good Q P := by
  induction n generalizing s with
  | zero => exact hs
  | succ n ih =>
    unfold State.takeSeqId
    split
    · exact hs
    · dsimp only
      split
      · exact ih _ (good_cacheSeq _ _ hs)
      · exact good_cacheSeq _ _ hs

/-- `State.closeSpec` keeps the frame. -/
theorem good_closeSpec (s : State) (n lim : Nat) (self : Option Did) (hs : s.Good Q P) : (State.closeSpec s n lim self).1.Good Q P := by
  unfold State.closeSpec
  dsimp only
  repeat' first
    | (with_reducible first | assumption | intro _ | apply State.Good.ite | apply State.Good.foldl | apply State.Good.foldlPair | apply good_dropRefs | apply good_freeBlocks | apply good_putSeq)

/-- `State.freeEmptied` keeps the frame. -/
theorem good_freeEmptied (s : State) (n : Nat) (self : Option Did) (hs : s.Good Q P) : (State.freeEmptied s n self).Good Q P := by
  unfold State.freeEmptied
  dsimp only
  repeat' first
    | (with_reducible first | assumption | intro _ | apply State.Good.ite | apply State.Good.foldl | apply good_freeBlocks | apply good_putSeq)

/-- `State.dropOne` keeps the frame. -/
theorem good_dropOne (s : State) (n : Nat) (self : Option Did) (hs : s.Good Q P) : (State.dropOne s n self).1.Good Q P := by
  unfold State.dropOne
  dsimp only
  repeat' first
    | (with_reducible first | assumption | intro _ | apply State.Good.ite | apply State.Good.foldl | apply State.Good.foldlPair | apply good_dropRef | apply good_freeBlocks | apply good_putSeq | apply good_freeEmptied)
    | split

/-- `State.dropMany` keeps the frame. -/
theorem good_dropMany (s : State) (n : Nat) (self : Option Did) (lim : Nat) (hs : s.Good Q P) : (s.dropMany n self lim).1.Good Q P := by
  induction lim generalizing s with
  | zero => exact hs
  | succ lim ih =>
    unfold State.dropMany
    split
    · exact ih _ (State.Good.ofFst (by assumption) (good_dropOne _ _ _ hs))
    · exact State.Good.ofFst (by assumption) (good_dropOne _ _ _ hs)

/-- `State.writeRows` keeps the frame. -/
theorem good_writeRows (s : State) (views : List View) (c : ConvWord) (seed i : Nat) (l : List (WriteEnt × List Nat)) (hs : s.Good Q P) :
    (s.writeRows views c seed i l).state.Good Q P := by
  induction l generalizing s i with
  | nil => exact hs
  | cons a l ih =>
    unfold State.writeRows
    split
    · exact ih _ _ hs
    · exact ih _ _ (good_putRow _ _ _ _ hs)

end Sys2Proof.Machine
end

