-- ==== Sys2Proof/Laws/KeepStartup.lean ====
section
/-!
SUPPORT. The operations of Machine/Startup.lean keep the frame of `State.Good`.
-/

namespace Sys2Proof.Machine

variable {Q : List Instr} {P : Part}

/-- `State.spiEffect` keeps the frame. -/
theorem good_spiEffect (s : State) (op : SpiOp) (len : Nat) (hs : s.Good Q P) : (State.spiEffect s op len).Good Q P := by
  unfold State.spiEffect
  dsimp only
  repeat' first
    | (with_reducible first | assumption | intro _ | apply State.Good.ite | apply State.Good.foldl)
    | split
    | (unfold State.Good State.MemOk; dsimp only; with_reducible apply State.Good.of_and; with_reducible first | assumption | apply State.Good.ite | apply State.Good.foldl)

/-- `State.spiFailed` keeps the frame. -/
theorem good_spiFailed (s : State) (op : SpiOp) (len : Nat) (hs : s.Good Q P) : (State.spiFailed s op len).Good Q P := by
  unfold State.spiFailed
  dsimp only
  repeat' first
    | (with_reducible first | assumption | intro _ | apply State.Good.ite | apply State.Good.foldl | apply good_draw | apply good_spiEffect)
    | split
    | (unfold State.Good State.MemOk; dsimp only; with_reducible apply State.Good.of_and; with_reducible first | assumption | apply State.Good.ite | apply State.Good.foldl | apply good_draw | apply good_spiEffect)

/-- `State.cutSpi` keeps the frame. -/
theorem good_cutSpi (s : State) (hs : s.Good Q P) : (State.cutSpi s).Good Q P := by
  unfold State.cutSpi
  repeat' first
    | (with_reducible first | assumption | intro _ | apply State.Good.ite | apply State.Good.foldl | apply good_spiFailed)
    | split

/-- `State.cutOuts` keeps the frame. -/
theorem good_cutOuts (s : State) (hs : s.Good Q P) : (State.cutOuts s).Good Q P := by
  unfold State.cutOuts
  repeat' first
    | (with_reducible first | assumption | intro _ | apply State.Good.ite | apply State.Good.foldl | apply good_cutOut)
    | split

/-- `State.restart` keeps the frame. -/
theorem good_restart (s : State) (log : ErrLog) (power : BlockPower) (hs : s.Good Q P) : (s.restart log power).Good Q P :=
  ⟨hs.1, hs.2.1, (good_cutSpi _ (good_cutOuts s hs)).2.2.1, rfl⟩

/-- `State.blockReset` keeps the frame. -/
theorem good_blockReset (s : State) (hs : s.Good Q P) : (State.blockReset s).Good Q P := by
  unfold State.blockReset
  dsimp only
  repeat' first
    | (with_reducible first | assumption | intro _ | apply State.Good.ite | apply State.Good.foldl | apply good_restart)

/-- `State.enterP3` keeps the frame. -/
theorem good_enterP3 (s : State) (hs : s.Good Q P) : (State.enterP3 s).Good Q P := by
  unfold State.enterP3
  repeat' first
    | (with_reducible first | assumption | intro _ | apply State.Good.ite | apply State.Good.foldl | apply good_restart)

/-- `State.tripP3` keeps the frame. -/
theorem good_tripP3 (s : State) (hs : s.Good Q P) : (State.tripP3 s).Good Q P := by
  unfold State.tripP3
  dsimp only
  repeat' first
    | (with_reducible first | assumption | intro _ | apply State.Good.ite | apply State.Good.foldl | apply good_restart)
    | split
    | (unfold State.Good State.MemOk; dsimp only; with_reducible apply State.Good.of_and; with_reducible first | assumption | apply State.Good.ite | apply State.Good.foldl | apply good_restart)

/-- `execPowerOn` keeps the frame. -/
theorem good_execPowerOn {t : State} (s : State) (hs : s.Good Q P) (e : execPowerOn s = .next t) : t.Good Q P := by
  obtain rfl := Host.Outcome.next.inj e
  repeat' first
    | (with_reducible first | assumption | intro _ | apply State.Good.ite | apply State.Good.foldl | apply good_restart)

/-- `execBlockReset` keeps the frame. -/
theorem good_execBlockReset {t : State} (s : State) (hs : s.Good Q P) (e : execBlockReset s = .next t) : t.Good Q P := by
  obtain rfl := Host.Outcome.next.inj e
  repeat' first
    | (with_reducible first | assumption | intro _ | apply State.Good.ite | apply State.Good.foldl | apply good_blockReset)

/-- `execWakeFromP3` keeps the frame. -/
theorem good_execWakeFromP3 {t : State} (s : State) (hs : s.Good Q P) (e : execWakeFromP3 s = .next t) : t.Good Q P := by
  obtain rfl := Host.Outcome.next.inj e
  repeat' first
    | (with_reducible first | assumption | intro _ | apply State.Good.ite | apply State.Good.foldl | apply good_restart)

/-- `State.toPhase` keeps the frame. -/
theorem good_toPhase (s : State) (p : Phase) (hs : s.Good Q P) : (State.toPhase s p).Good Q P := by
  unfold State.toPhase
  dsimp only
  repeat' first
    | (with_reducible first | assumption | intro _ | apply State.Good.ite | apply State.Good.foldl)
    | split
    | (unfold State.Good State.MemOk; dsimp only; with_reducible apply State.Good.of_and; with_reducible first | assumption | apply State.Good.ite | apply State.Good.foldl)

/-- `State.startFail` keeps the frame. -/
theorem good_startFail (s : State) (cause : Nat) (hs : s.Good Q P) : (State.startFail s cause).Good Q P := by
  unfold State.startFail
  dsimp only
  repeat' first
    | (with_reducible first | assumption | intro _ | apply State.Good.ite | apply State.Good.foldl | apply good_logEvent)
    | split
    | (unfold State.Good State.MemOk; dsimp only; with_reducible apply State.Good.of_and; with_reducible first | assumption | apply State.Good.ite | apply State.Good.foldl | apply good_logEvent)

/-- `execStartupPllLock` keeps the frame. -/
theorem good_execStartupPllLock {t : State} (locked : Bool) (s : State) (hs : s.Good Q P) (e : execStartupPllLock locked s = .next t) : t.Good Q P := by
  obtain rfl := Host.Outcome.next.inj e
  repeat' first
    | (with_reducible first | assumption | intro _ | apply State.Good.ite | apply State.Good.foldl | apply good_toPhase | apply good_startFail)

/-- `execSfdpDiscoveryDone` keeps the frame. -/
theorem good_execSfdpDiscoveryDone {t : State} (f : SfdpFound) (s : State) (hs : s.Good Q P) (e : execSfdpDiscoveryDone f s = .next t) : t.Good Q P := by
  obtain rfl := Host.Outcome.next.inj e
  dsimp only
  repeat' first
    | (with_reducible first | assumption | intro _ | apply State.Good.ite | apply State.Good.foldl | apply good_startFail)
    | split
    | (unfold State.Good State.MemOk; dsimp only; with_reducible apply State.Good.of_and; with_reducible first | assumption | apply State.Good.ite | apply State.Good.foldl | apply good_startFail)

/-- `execFactoryRecordRead` keeps the frame. -/
theorem good_execFactoryRecordRead {t : State} (s : State) (hs : s.Good Q P) (e : execFactoryRecordRead s = .next t) : t.Good Q P := by
  obtain rfl := Host.Outcome.next.inj e
  dsimp only
  repeat' first
    | (with_reducible first | assumption | intro _ | apply State.Good.ite | apply State.Good.foldl | apply good_startFail)
    | split
    | (unfold State.Good State.MemOk; dsimp only; with_reducible apply State.Good.of_and; with_reducible first | assumption | apply State.Good.ite | apply State.Good.foldl | apply good_startFail)

/-- `State.logRecord` keeps the frame. -/
theorem good_logRecord (s : State) (offset gen : Nat) (hs : s.Good Q P) : (State.logRecord s offset gen).Good Q P := by
  unfold State.logRecord
  repeat' first
    | (with_reducible first | assumption | intro _ | apply State.Good.ite | apply State.Good.foldl | apply good_logEvent)

/-- `State.chooseRecord` keeps the frame. -/
theorem good_chooseRecord (s : State) (hs : s.Good Q P) : (State.chooseRecord s).1.Good Q P := by
  unfold State.chooseRecord
  dsimp only
  repeat' first
    | (with_reducible first | assumption | intro _ | apply State.Good.ite | apply State.Good.foldl | apply State.Good.foldlPair | apply good_logRecord)
    | split

/-- `State.userEntry` keeps the frame. -/
theorem good_userEntry (addr gen : Nat) (s : State) (e : Nat × List Byte) (hs : s.Good Q P) : (State.userEntry addr gen s e).Good Q P := by
  unfold State.userEntry
  dsimp only
  repeat' first
    | (with_reducible first | assumption | intro _ | apply State.Good.ite | apply State.Good.foldl | apply good_logRecord)
    | split
    | (unfold State.Good State.MemOk; dsimp only; with_reducible apply State.Good.of_and; with_reducible first | assumption | apply State.Good.ite | apply State.Good.foldl | apply good_logRecord)

/-- `execUserRecordsRead` keeps the frame. -/
theorem good_execUserRecordsRead {t : State} (s : State) (hs : s.Good Q P) (e : execUserRecordsRead s = .next t) : t.Good Q P := by
  obtain rfl := Host.Outcome.next.inj e
  dsimp only
  repeat' first
    | (with_reducible first | assumption | intro _ | apply State.Good.ite | apply State.Good.foldl | apply State.Good.foldlPair | apply good_chooseRecord | apply good_userEntry)
    | split
    | (unfold State.Good State.MemOk; dsimp only; with_reducible apply State.Good.of_and; with_reducible first | assumption | apply State.Good.ite | apply State.Good.foldl | apply State.Good.foldlPair | apply good_chooseRecord | apply good_userEntry)

/-- `execCalibrationApplied` keeps the frame. -/
theorem good_execCalibrationApplied {t : State} (s : State) (hs : s.Good Q P) (e : execCalibrationApplied s = .next t) : t.Good Q P := by
  obtain rfl := Host.Outcome.next.inj e
  dsimp only
  repeat' first
    | (with_reducible first | assumption | intro _ | apply State.Good.ite | apply State.Good.foldl | apply good_setCluster)
    | split
    | (unfold State.Good State.MemOk; dsimp only; with_reducible apply State.Good.of_and; with_reducible first | assumption | apply State.Good.ite | apply State.Good.foldl | apply good_setCluster)

/-- `State.selftest` keeps the frame. -/
theorem good_selftest (s : State) (f : SramFaults) (hs : s.Good Q P) : (State.selftest s f).Good Q P := by
  unfold State.selftest
  dsimp only
  repeat' first
    | (with_reducible first | assumption | intro _ | apply State.Good.ite | apply State.Good.foldl | apply good_setCcore | apply good_logEvent | apply good_toPhase | apply good_startFail)
    | split
    | (unfold State.Good State.MemOk; dsimp only; with_reducible apply State.Good.of_and; with_reducible first | assumption | apply State.Good.ite | apply State.Good.foldl | apply good_setCcore | apply good_logEvent | apply good_toPhase | apply good_startFail)

/-- `execSramSelftestDone` keeps the frame. -/
theorem good_execSramSelftestDone {t : State} (f : SramFaults) (s : State) (hs : s.Good Q P) (e : execSramSelftestDone f s = .next t) : t.Good Q P := by
  obtain rfl := Host.Outcome.next.inj e
  repeat' first
    | (with_reducible first | assumption | intro _ | apply State.Good.ite | apply State.Good.foldl | apply good_selftest)

/-- `State.seedFallback` keeps the frame. -/
theorem good_seedFallback (s : State) (x : Nat × Nat) (hs : s.Good Q P) : (State.seedFallback s x).Good Q P := by
  unfold State.seedFallback
  dsimp only
  repeat' first
    | (with_reducible first | assumption | intro _ | apply State.Good.ite | apply State.Good.foldl | apply good_setCore | apply good_logEvent)

/-- `execSfuSeedCheckDone` keeps the frame. -/
theorem good_execSfuSeedCheckDone {t : State} (seedFails : List (Nat × Nat)) (segFails : List Nat) (s : State) (hs : s.Good Q P) (e : execSfuSeedCheckDone seedFails segFails s = .next t) : t.Good Q P := by
  obtain rfl := Host.Outcome.next.inj e
  dsimp only
  repeat' first
    | (with_reducible first | assumption | intro _ | apply State.Good.ite | apply State.Good.foldl | apply good_toPhase | apply good_startFail | apply good_seedFallback)
    | split
    | (unfold State.Good State.MemOk; dsimp only; with_reducible apply State.Good.of_and; with_reducible first | assumption | apply State.Good.ite | apply State.Good.foldl | apply good_toPhase | apply good_startFail | apply good_seedFallback)

/-- `State.rejectImage` keeps the frame. -/
theorem good_rejectImage (s : State) (image : Nat) (hs : s.Good Q P) : (State.rejectImage s image).Good Q P := by
  unfold State.rejectImage
  dsimp only
  repeat' first
    | (with_reducible first | assumption | intro _ | apply State.Good.ite | apply State.Good.foldl | apply good_startFail | apply good_logRecord)
    | split
    | (unfold State.Good State.MemOk; dsimp only; with_reducible apply State.Good.of_and; with_reducible first | assumption | apply State.Good.ite | apply State.Good.foldl | apply good_startFail | apply good_logRecord)

/-- `execFwsigCheckDone` keeps the frame. -/
theorem good_execFwsigCheckDone {t : State} (sigOk : Bool) (s : State) (hs : s.Good Q P) (e : execFwsigCheckDone sigOk s = .next t) : t.Good Q P := by
  obtain rfl := Host.Outcome.next.inj e
  repeat' first
    | (with_reducible first | assumption | intro _ | apply State.Good.ite | apply State.Good.foldl | apply good_toPhase | apply good_rejectImage)
    | split

/-- `execFwreadDone` keeps the frame. -/
theorem good_execFwreadDone {t : State} (hashOk : Bool) (s : State) (hs : s.Good Q P) (e : execFwreadDone hashOk s = .next t) : t.Good Q P := by
  obtain rfl := Host.Outcome.next.inj e
  repeat' first
    | (with_reducible first | assumption | intro _ | apply State.Good.ite | apply State.Good.foldl | apply good_toPhase | apply good_rejectImage)
    | split

/-- `execFwloadReady` keeps the frame. -/
theorem good_execFwloadReady {t : State} (s : State) (hs : s.Good Q P) (e : execFwloadReady s = .next t) : t.Good Q P := by
  obtain rfl := Host.Outcome.next.inj e
  dsimp only
  repeat' first
    | (with_reducible first | assumption | intro _ | apply State.Good.ite | apply State.Good.foldl)
    | split
    | (unfold State.Good State.MemOk; dsimp only; with_reducible apply State.Good.of_and; with_reducible first | assumption | apply State.Good.ite | apply State.Good.foldl)

/-- `execRegisterPortReady` keeps the frame. -/
theorem good_execRegisterPortReady {t : State} (s : State) (hs : s.Good Q P) (e : execRegisterPortReady s = .next t) : t.Good Q P := by
  obtain rfl := Host.Outcome.next.inj e
  dsimp only
  repeat' first
    | (with_reducible first | assumption | intro _ | apply State.Good.ite | apply State.Good.foldl)
    | split
    | (unfold State.Good State.MemOk; dsimp only; with_reducible apply State.Good.of_and; with_reducible first | assumption | apply State.Good.ite | apply State.Good.foldl)

/-- `execMailboxStatusReady` keeps the frame. -/
theorem good_execMailboxStatusReady {t : State} (s : State) (hs : s.Good Q P) (e : execMailboxStatusReady s = .next t) : t.Good Q P := by
  obtain rfl := Host.Outcome.next.inj e
  dsimp only
  repeat' first
    | (with_reducible first | assumption | intro _ | apply State.Good.ite | apply State.Good.foldl)
    | split
    | (unfold State.Good State.MemOk; dsimp only; with_reducible apply State.Good.of_and; with_reducible first | assumption | apply State.Good.ite | apply State.Good.foldl)

/-- `State.mbxSay` keeps the frame. -/
theorem good_mbxSay (s : State) (r : MbxReply) (hs : s.Good Q P) : (State.mbxSay s r).Good Q P := by
  unfold State.mbxSay
  dsimp only
  repeat' first
    | (with_reducible first | assumption | intro _ | apply State.Good.ite | apply State.Good.foldl)
    | split
    | (unfold State.Good State.MemOk; dsimp only; with_reducible apply State.Good.of_and; with_reducible first | assumption | apply State.Good.ite | apply State.Good.foldl)

/-- `State.mbxRequest` keeps the frame. -/
theorem good_mbxRequest (s : State) (act : State → State) (hs : s.Good Q P) (h_act : ∀ s , s.Good Q P → (act s ).Good Q P) : (State.mbxRequest s act).Good Q P := by
  unfold State.mbxRequest
  repeat' first
    | (with_reducible first | assumption | intro _ | apply State.Good.ite | apply State.Good.foldl | apply h_act | apply good_mbxSay)

/-- `execMbxStatusRequest` keeps the frame. -/
theorem good_execMbxStatusRequest {t : State} (s : State) (hs : s.Good Q P) (e : execMbxStatusRequest s = .next t) : t.Good Q P := by
  obtain rfl := Host.Outcome.next.inj e
  repeat' first
    | (with_reducible first | assumption | intro _ | apply State.Good.ite | apply State.Good.foldl | apply good_mbxSay)

/-- `execMbxFreqLimit` keeps the frame. -/
theorem good_execMbxFreqLimit {t : State} (cluster code : Nat) (s : State) (hs : s.Good Q P) (e : execMbxFreqLimit cluster code s = .next t) : t.Good Q P := by
  obtain rfl := Host.Outcome.next.inj e
  dsimp only
  repeat' first
    | (with_reducible first | assumption | intro _ | apply State.Good.ite | apply State.Good.foldl | apply good_setCluster | apply good_mbxSay | apply good_mbxRequest)

/-- `execMbxReset` keeps the frame. -/
theorem good_execMbxReset {t : State} (s : State) (hs : s.Good Q P) (e : execMbxReset s = .next t) : t.Good Q P := by
  obtain rfl := Host.Outcome.next.inj e
  repeat' first
    | (with_reducible first | assumption | intro _ | apply State.Good.ite | apply State.Good.foldl | apply good_blockReset | apply good_mbxSay | apply good_mbxRequest)

/-- `execMbxP3` keeps the frame. -/
theorem good_execMbxP3 {t : State} (s : State) (hs : s.Good Q P) (e : execMbxP3 s = .next t) : t.Good Q P := by
  obtain rfl := Host.Outcome.next.inj e
  repeat' first
    | (with_reducible first | assumption | intro _ | apply State.Good.ite | apply State.Good.foldl | apply good_enterP3 | apply good_mbxSay | apply good_mbxRequest)

/-- `execMbxP3Force` keeps the frame. -/
theorem good_execMbxP3Force {t : State} (s : State) (hs : s.Good Q P) (e : execMbxP3Force s = .next t) : t.Good Q P := by
  obtain rfl := Host.Outcome.next.inj e
  repeat' first
    | (with_reducible first | assumption | intro _ | apply State.Good.ite | apply State.Good.foldl | apply good_enterP3 | apply good_mbxSay | apply good_mbxRequest)

/-- `execMbxWake` keeps the frame. -/
theorem good_execMbxWake {t : State} (s : State) (hs : s.Good Q P) (e : execMbxWake s = .next t) : t.Good Q P := by
  obtain rfl := Host.Outcome.next.inj e
  repeat' first
    | (with_reducible first | assumption | intro _ | apply State.Good.ite | apply State.Good.foldl | apply good_restart)

/-- `State.sharedLost` keeps the frame. -/
theorem good_sharedLost (s : State) (c : SharedLoss) (hs : s.Good Q P) : (s.sharedLost c).Good Q P := by
  cases c with
  | stack n => exact good_enterFatal _ _ (good_logEvent _ _ _ _ _ _ _ _ hs)
  | tagTable => exact good_enterFatal _ _ hs
  | credits => exact good_enterFatal _ _ hs
  | loomRouting => exact good_enterFatal _ _ hs

/-- `execMemoryStackLost` keeps the frame. -/
theorem good_execMemoryStackLost {t : State} (loss : SharedLoss) (s : State) (hs : s.Good Q P) (e : execMemoryStackLost loss s = .next t) : t.Good Q P := by
  obtain rfl := Host.Outcome.next.inj e
  repeat' first
    | (with_reducible first | assumption | intro _ | apply State.Good.ite | apply State.Good.foldl | apply good_sharedLost)

end Sys2Proof.Machine
end

