-- ==== Sys2Proof/Laws/KeepClocks.lean ====
section
/-!
SUPPORT. The operations of Machine/Clocks.lean keep the frame of `State.Good`.
-/

namespace Sys2Proof.Machine

variable {Q : List Instr} {P : Part}

/-- `State.relimit` keeps the frame. -/
theorem good_relimit (s : State) (n : Nat) (c : Cluster) (hs : s.Good Q P) : (State.relimit s n c).Good Q P := by
  unfold State.relimit
  repeat' first
    | (with_reducible first | assumption | intro _ | apply State.Good.ite | apply State.Good.foldl | apply good_setCluster)

/-- `State.clockBoundary` keeps the frame. -/
theorem good_clockBoundary (s : State) (n : Nat) (hs : s.Good Q P) : (State.clockBoundary s n).Good Q P := by
  unfold State.clockBoundary
  dsimp only
  repeat' first
    | (with_reducible first | assumption | intro _ | apply State.Good.ite | apply State.Good.foldl | apply good_relimit)

/-- `State.switchClock` keeps the frame. -/
theorem good_switchClock (s : State) (n k : Nat) (hs : s.Good Q P) : (State.switchClock s n k).Good Q P := by
  unfold State.switchClock
  dsimp only
  repeat' first
    | (with_reducible first | assumption | intro _ | apply State.Good.ite | apply State.Good.foldl | apply good_relimit)

/-- `execPllRelockDone` keeps the frame. -/
theorem good_execPllRelockDone {t : State} (cluster : Nat) (s : State) (hs : s.Good Q P) (e : execPllRelockDone cluster s = .next t) : t.Good Q P := by
  obtain rfl := Host.Outcome.next.inj e
  dsimp only
  repeat' first
    | (with_reducible first | assumption | intro _ | apply State.Good.ite | apply State.Good.foldl | apply good_switchClock)
    | split

/-- `execPowerGood` keeps the frame. -/
theorem good_execPowerGood {t : State} (cluster : Nat) (s : State) (hs : s.Good Q P) (e : execPowerGood cluster s = .next t) : t.Good Q P := by
  obtain rfl := Host.Outcome.next.inj e
  dsimp only
  repeat' first
    | (with_reducible first | assumption | intro _ | apply State.Good.ite | apply State.Good.foldl | apply good_switchClock)
    | split

/-- `State.freqWrite` keeps the frame. -/
theorem good_freqWrite (s : State) (offset cluster : Nat) (value : Word) (hs : s.Good Q P) : (State.freqWrite s offset cluster value).Good Q P := by
  unfold State.freqWrite
  dsimp only
  repeat' first
    | (with_reducible first | assumption | intro _ | apply State.Good.ite | apply State.Good.foldl | apply good_setCluster | apply good_cfgIgnored)

/-- `execZtClkReqWrite` keeps the frame. -/
theorem good_execZtClkReqWrite {t : State} (cluster : Nat) (value : Word) (s : State) (hs : s.Good Q P) (e : execZtClkReqWrite cluster value s = .next t) : t.Good Q P := by
  obtain rfl := Host.Outcome.next.inj e
  repeat' first
    | (with_reducible first | assumption | intro _ | apply State.Good.ite | apply State.Good.foldl | apply good_cfgIgnored | apply good_freqWrite)

/-- `execZtPwrFlimWrite` keeps the frame. -/
theorem good_execZtPwrFlimWrite {t : State} (cluster : Nat) (value : Word) (s : State) (hs : s.Good Q P) (e : execZtPwrFlimWrite cluster value s = .next t) : t.Good Q P := by
  obtain rfl := Host.Outcome.next.inj e
  repeat' first
    | (with_reducible first | assumption | intro _ | apply State.Good.ite | apply State.Good.foldl | apply good_freqWrite)

/-- `State.wakeCluster` keeps the frame. -/
theorem good_wakeCluster (s : State) (n : Nat) (hs : s.Good Q P) : (State.wakeCluster s n).Good Q P := by
  unfold State.wakeCluster
  repeat' first
    | (with_reducible first | assumption | intro _ | apply State.Good.ite | apply State.Good.foldl | apply good_setCluster)

/-- `State.powerRequest` keeps the frame. -/
theorem good_powerRequest (s : State) (n req : Nat) (hs : s.Good Q P) : (State.powerRequest s n req).Good Q P := by
  unfold State.powerRequest
  dsimp only
  repeat' first
    | (with_reducible first | assumption | intro _ | apply State.Good.ite | apply State.Good.foldl | apply good_setCluster | apply good_cfgIgnored)
    | split

/-- `State.powerWrite` keeps the frame. -/
theorem good_powerWrite (s : State) (n req : Nat) (hs : s.Good Q P) : (State.powerWrite s n req).Good Q P := by
  unfold State.powerWrite
  dsimp only
  repeat' first
    | (with_reducible first | assumption | intro _ | apply State.Good.ite | apply State.Good.foldl | apply good_setCluster | apply good_powerRequest)

/-- `execClusterP0Request` keeps the frame. -/
theorem good_execClusterP0Request {t : State} (cluster : Nat) (s : State) (hs : s.Good Q P) (e : execClusterP0Request cluster s = .next t) : t.Good Q P := by
  obtain rfl := Host.Outcome.next.inj e
  repeat' first
    | (with_reducible first | assumption | intro _ | apply State.Good.ite | apply State.Good.foldl | apply good_powerWrite)

/-- `execClusterP1Request` keeps the frame. -/
theorem good_execClusterP1Request {t : State} (cluster : Nat) (s : State) (hs : s.Good Q P) (e : execClusterP1Request cluster s = .next t) : t.Good Q P := by
  obtain rfl := Host.Outcome.next.inj e
  repeat' first
    | (with_reducible first | assumption | intro _ | apply State.Good.ite | apply State.Good.foldl | apply good_powerWrite)

/-- `execClusterP2Request` keeps the frame. -/
theorem good_execClusterP2Request {t : State} (cluster : Nat) (s : State) (hs : s.Good Q P) (e : execClusterP2Request cluster s = .next t) : t.Good Q P := by
  obtain rfl := Host.Outcome.next.inj e
  repeat' first
    | (with_reducible first | assumption | intro _ | apply State.Good.ite | apply State.Good.foldl | apply good_powerWrite)

/-- `State.powerBoundary` keeps the frame. -/
theorem good_powerBoundary (s : State) (n : Nat) (busy : Bool) (hs : s.Good Q P) : (State.powerBoundary s n busy).Good Q P := by
  unfold State.powerBoundary
  dsimp only
  repeat' first
    | (with_reducible first | assumption | intro _ | apply State.Good.ite | apply State.Good.foldl | apply good_setCluster)

/-- `State.loseCluster` keeps the frame. -/
theorem good_loseCluster (s : State) (n : Nat) (hs : s.Good Q P) : (State.loseCluster s n).Good Q P := by
  unfold State.loseCluster
  dsimp only
  repeat' first
    | (with_reducible first | assumption | intro _ | apply State.Good.ite | apply State.Good.foldl | apply good_setCore | apply good_setPiste)

/-- `execClusterP2Entry` keeps the frame. -/
theorem good_execClusterP2Entry {t : State} (cluster : Nat) (s : State) (hs : s.Good Q P) (e : execClusterP2Entry cluster s = .next t) : t.Good Q P := by
  obtain rfl := Host.Outcome.next.inj e
  dsimp only
  repeat' first
    | (with_reducible first | assumption | intro _ | apply State.Good.ite | apply State.Good.foldl | apply good_setCluster | apply good_loseCluster)

/-- `execClusterRampStart` keeps the frame. -/
theorem good_execClusterRampStart {t : State} (cluster : Nat) (s : State) (hs : s.Good Q P) (e : execClusterRampStart cluster s = .next t) : t.Good Q P := by
  obtain rfl := Host.Outcome.next.inj e
  dsimp only
  repeat' first
    | (with_reducible first | assumption | intro _ | apply State.Good.ite | apply State.Good.foldl | apply good_setCluster)
    | split
    | (unfold State.Good State.MemOk; dsimp only; with_reducible apply State.Good.of_and; with_reducible first | assumption | apply State.Good.ite | apply State.Good.foldl | apply good_setCluster)

/-- `execClusterWakeDone` keeps the frame. -/
theorem good_execClusterWakeDone {t : State} (cluster : Nat) (s : State) (hs : s.Good Q P) (e : execClusterWakeDone cluster s = .next t) : t.Good Q P := by
  obtain rfl := Host.Outcome.next.inj e
  dsimp only
  repeat' first
    | (with_reducible first | assumption | intro _ | apply State.Good.ite | apply State.Good.foldl | apply good_setCluster)

/-- `execThermalSample` keeps the frame. -/
theorem good_execThermalSample {t : State} (sensor : Nat) (raw : BitVec 16) (s : State) (hs : s.Good Q P) (e : execThermalSample sensor raw s = .next t) : t.Good Q P := by
  obtain rfl := Host.Outcome.next.inj e
  dsimp only
  repeat' first
    | (with_reducible first | assumption | intro _ | apply State.Good.ite | apply State.Good.foldl | apply good_logEvent | apply good_tripP3)
    | split
    | (unfold State.Good State.MemOk; dsimp only; with_reducible apply State.Good.of_and; with_reducible first | assumption | apply State.Good.ite | apply State.Good.foldl | apply good_logEvent | apply good_tripP3)

/-- `execThrottleStep` keeps the frame. -/
theorem good_execThrottleStep {t : State} (cluster : Nat) (s : State) (hs : s.Good Q P) (e : execThrottleStep cluster s = .next t) : t.Good Q P := by
  obtain rfl := Host.Outcome.next.inj e
  dsimp only
  repeat' first
    | (with_reducible first | assumption | intro _ | apply State.Good.ite | apply State.Good.foldl | apply good_relimit)

/-- `execDemandReport` keeps the frame. -/
theorem good_execDemandReport {t : State} (halfAmps : Nat) (s : State) (hs : s.Good Q P) (e : execDemandReport halfAmps s = .next t) : t.Good Q P := by
  obtain rfl := Host.Outcome.next.inj e
  dsimp only
  repeat' first
    | (with_reducible first | assumption | intro _ | apply State.Good.ite | apply State.Good.foldl)
    | split
    | (unfold State.Good State.MemOk; dsimp only; with_reducible apply State.Good.of_and; with_reducible first | assumption | apply State.Good.ite | apply State.Good.foldl)

/-- `State.throttleWrite` keeps the frame. -/
theorem good_throttleWrite (s : State) (value : Word) (hs : s.Good Q P) : (State.throttleWrite s value).Good Q P := by
  unfold State.throttleWrite
  dsimp only
  repeat' first
    | (with_reducible first | assumption | intro _ | apply State.Good.ite | apply State.Good.foldl)
    | split
    | (unfold State.Good State.MemOk; dsimp only; with_reducible apply State.Good.of_and; with_reducible first | assumption | apply State.Good.ite | apply State.Good.foldl)

/-- `execZtTelThrottleWrite` keeps the frame. -/
theorem good_execZtTelThrottleWrite {t : State} (value : Word) (s : State) (hs : s.Good Q P) (e : execZtTelThrottleWrite value s = .next t) : t.Good Q P := by
  obtain rfl := Host.Outcome.next.inj e
  repeat' first
    | (with_reducible first | assumption | intro _ | apply State.Good.ite | apply State.Good.foldl | apply good_throttleWrite)

/-- `State.cmdRefused` keeps the frame. -/
theorem good_cmdRefused (s : State) (hs : s.Good Q P) : (State.cmdRefused s).Good Q P := by
  unfold State.cmdRefused
  dsimp only
  repeat' first
    | (with_reducible first | assumption | intro _ | apply State.Good.ite | apply State.Good.foldl)
    | split
    | (unfold State.Good State.MemOk; dsimp only; with_reducible apply State.Good.of_and; with_reducible first | assumption | apply State.Good.ite | apply State.Good.foldl)

/-- `State.pwrCmd` keeps the frame. -/
theorem good_pwrCmd (s : State) (cmd key : Nat) (hs : s.Good Q P) : (State.pwrCmd s cmd key).Good Q P := by
  unfold State.pwrCmd
  repeat' first
    | (with_reducible first | assumption | intro _ | apply State.Good.ite | apply State.Good.foldl | apply good_blockReset | apply good_enterP3 | apply good_cmdRefused)
    | split

/-- `execPwrCmdBlockReset` keeps the frame. -/
theorem good_execPwrCmdBlockReset {t : State} (key : BitVec 16) (s : State) (hs : s.Good Q P) (e : execPwrCmdBlockReset key s = .next t) : t.Good Q P := by
  obtain rfl := Host.Outcome.next.inj e
  repeat' first
    | (with_reducible first | assumption | intro _ | apply State.Good.ite | apply State.Good.foldl | apply good_pwrCmd)

/-- `execPwrCmdEnterP3` keeps the frame. -/
theorem good_execPwrCmdEnterP3 {t : State} (key : BitVec 16) (s : State) (hs : s.Good Q P) (e : execPwrCmdEnterP3 key s = .next t) : t.Good Q P := by
  obtain rfl := Host.Outcome.next.inj e
  repeat' first
    | (with_reducible first | assumption | intro _ | apply State.Good.ite | apply State.Good.foldl | apply good_pwrCmd)

end Sys2Proof.Machine
end

