-- ==== Sys2Proof/Laws/KeepSetup.lean ====
section
/-!
SUPPORT. The operations of Machine/Setup.lean keep the frame of `State.Good`.
-/

namespace Sys2Proof.Machine

variable {Q : List Instr} {P : Part}

/-- `State.beginTurnOf` keeps the frame. -/
theorem good_beginTurnOf (s : State) (u : Bool) (ctx : Nat) (hs : s.Good Q P) : (State.beginTurnOf s u ctx).Good Q P := by
  unfold State.beginTurnOf
  dsimp only
  repeat' first
    | (with_reducible first | assumption | intro _ | apply State.Good.ite | apply State.Good.foldl | apply good_setCtx)

/-- `State.giveTurnOf` keeps the frame. -/
theorem good_giveTurnOf (s : State) (u : Bool) (cs : List Nat) (hs : s.Good Q P) : (State.giveTurnOf s u cs).Good Q P := by
  unfold State.giveTurnOf
  dsimp only
  repeat' first
    | (with_reducible first | assumption | intro _ | apply State.Good.ite | apply State.Good.foldl | apply good_setCtx | apply good_beginTurnOf)
    | split

/-- `State.passTurnOf` keeps the frame. -/
theorem good_passTurnOf (s : State) (u : Bool) (ctx overrun : Nat) (hs : s.Good Q P) : (State.passTurnOf s u ctx overrun).Good Q P := by
  unfold State.passTurnOf
  dsimp only
  repeat' first
    | (with_reducible first | assumption | intro _ | apply State.Good.ite | apply State.Good.foldl | apply good_setCtx | apply good_giveTurnOf)

/-- `State.beginTurn` keeps the frame. -/
theorem good_beginTurn (s : State) (ctx : Nat) (hs : s.Good Q P) : (State.beginTurn s ctx).Good Q P := by
  unfold State.beginTurn
  repeat' first
    | (with_reducible first | assumption | intro _ | apply State.Good.ite | apply State.Good.foldl | apply good_beginTurnOf)

/-- `State.giveTurn` keeps the frame. -/
theorem good_giveTurn (s : State) (cs : List Nat) (hs : s.Good Q P) : (State.giveTurn s cs).Good Q P := by
  unfold State.giveTurn
  repeat' first
    | (with_reducible first | assumption | intro _ | apply State.Good.ite | apply State.Good.foldl | apply good_giveTurnOf)

/-- `State.passTurn` keeps the frame. -/
theorem good_passTurn (s : State) (ctx overrun : Nat) (hs : s.Good Q P) : (State.passTurn s ctx overrun).Good Q P := by
  unfold State.passTurn
  repeat' first
    | (with_reducible first | assumption | intro _ | apply State.Good.ite | apply State.Good.foldl | apply good_passTurnOf)

/-- `State.takeUnit` keeps the frame. -/
theorem good_takeUnit (s : State) (x : Desc) (hs : s.Good Q P) : (State.takeUnit s x).Good Q P := by
  unfold State.takeUnit
  dsimp only
  repeat' first
    | (with_reducible first | assumption | intro _ | apply State.Good.ite | apply State.Good.foldl | apply good_setCtx | apply good_beginTurnOf)

/-- `State.partEnable` keeps the frame. -/
theorem good_partEnable (s : State) (n : Nat) (value : Word) (hs : s.Good Q P) : (State.partEnable s n value).Good Q P := by
  unfold State.partEnable
  dsimp only
  repeat' first
    | (with_reducible first | assumption | intro _ | apply State.Good.ite | apply State.Good.foldl | apply good_setPart | apply good_cfgIgnored)

/-- `State.partDisable` keeps the frame. -/
theorem good_partDisable (s : State) (n : Nat) (value : Word) (hs : s.Good Q P) : (State.partDisable s n value).Good Q P := by
  unfold State.partDisable
  dsimp only
  repeat' first
    | (with_reducible first | assumption | intro _ | apply State.Good.ite | apply State.Good.foldl | apply good_setPart | apply good_cfgIgnored)

/-- `State.setupWrite` keeps the frame. -/
theorem good_setupWrite (s : State) (offset : Nat) (act : State → State) (hs : s.Good Q P) (h_act : ∀ s , s.Good Q P → (act s ).Good Q P) : (State.setupWrite s offset act).Good Q P := by
  unfold State.setupWrite
  repeat' first
    | (with_reducible first | assumption | intro _ | apply State.Good.ite | apply State.Good.foldl | apply h_act | apply good_cfgIgnored)

/-- `execPartitionEnable` keeps the frame. -/
theorem good_execPartitionEnable {t : State} (n : Nat) (value : Word) (s : State) (hs : s.Good Q P) (e : execPartitionEnable n value s = .next t) : t.Good Q P := by
  obtain rfl := Host.Outcome.next.inj e
  repeat' first
    | (with_reducible first | assumption | intro _ | apply State.Good.ite | apply State.Good.foldl | apply good_partEnable | apply good_setupWrite)

/-- `execPartitionDisable` keeps the frame. -/
theorem good_execPartitionDisable {t : State} (n : Nat) (value : Word) (s : State) (hs : s.Good Q P) (e : execPartitionDisable n value s = .next t) : t.Good Q P := by
  obtain rfl := Host.Outcome.next.inj e
  repeat' first
    | (with_reducible first | assumption | intro _ | apply State.Good.ite | apply State.Good.foldl | apply good_partDisable | apply good_setupWrite)

/-- `State.ctxEnable` keeps the frame. -/
theorem good_ctxEnable (s : State) (n : Nat) (value : Word) (hs : s.Good Q P) : (State.ctxEnable s n value).Good Q P := by
  unfold State.ctxEnable
  dsimp only
  repeat' first
    | (with_reducible first | assumption | intro _ | apply State.Good.ite | apply State.Good.foldl | apply good_setCtx | apply good_cfgIgnored | apply good_wakeCluster)

/-- `State.releaseAreas` keeps the frame. -/
theorem good_releaseAreas (s : State) (ctx : Nat) (hs : s.Good Q P) : (State.releaseAreas s ctx).Good Q P := by
  unfold State.releaseAreas
  repeat' first
    | (with_reducible first | assumption | intro _ | apply State.Good.ite | apply State.Good.foldl | apply good_setCore)

/-- `State.releaseContext` keeps the frame. -/
theorem good_releaseContext (s : State) (ctx : Nat) (hs : s.Good Q P) : (State.releaseContext s ctx).Good Q P := by
  unfold State.releaseContext
  dsimp only
  repeat' first
    | (with_reducible first | assumption | intro _ | apply State.Good.ite | apply State.Good.foldl | apply good_setCore | apply good_setPiste | apply good_releaseAreas)

/-- `State.ctxDisable` keeps the frame. -/
theorem good_ctxDisable (s : State) (n : Nat) (value : Word) (hs : s.Good Q P) : (State.ctxDisable s n value).Good Q P := by
  unfold State.ctxDisable
  dsimp only
  repeat' first
    | (with_reducible first | assumption | intro _ | apply State.Good.ite | apply State.Good.foldl | apply good_setCtx | apply good_cfgIgnored | apply good_passTurnOf | apply good_passTurn | apply good_releaseContext)

/-- `execContextEnable` keeps the frame. -/
theorem good_execContextEnable {t : State} (n : Nat) (value : Word) (s : State) (hs : s.Good Q P) (e : execContextEnable n value s = .next t) : t.Good Q P := by
  obtain rfl := Host.Outcome.next.inj e
  repeat' first
    | (with_reducible first | assumption | intro _ | apply State.Good.ite | apply State.Good.foldl | apply good_setupWrite | apply good_ctxEnable)

/-- `execContextDisable` keeps the frame. -/
theorem good_execContextDisable {t : State} (n : Nat) (value : Word) (s : State) (hs : s.Good Q P) (e : execContextDisable n value s = .next t) : t.Good Q P := by
  obtain rfl := Host.Outcome.next.inj e
  repeat' first
    | (with_reducible first | assumption | intro _ | apply State.Good.ite | apply State.Good.foldl | apply good_setupWrite | apply good_ctxDisable)

/-- `State.watchRing` keeps the frame. -/
theorem good_watchRing (s : State) (n : Nat) (hs : s.Good Q P) : (State.watchRing s n).Good Q P := by
  unfold State.watchRing
  repeat' first
    | (with_reducible first | assumption | intro _ | apply State.Good.ite | apply State.Good.foldl | apply good_beginWatch)

/-- `State.subEnable` keeps the frame. -/
theorem good_subEnable (s : State) (n : Nat) (value : Word) (hs : s.Good Q P) : (State.subEnable s n value).Good Q P := by
  unfold State.subEnable
  dsimp only
  repeat' first
    | (with_reducible first | assumption | intro _ | apply State.Good.ite | apply State.Good.foldl | apply good_setSub | apply good_cfgIgnored | apply good_watchRing)

/-- `State.subDisable` keeps the frame. -/
theorem good_subDisable (s : State) (n : Nat) (value : Word) (hs : s.Good Q P) : (State.subDisable s n value).Good Q P := by
  unfold State.subDisable
  dsimp only
  repeat' first
    | (with_reducible first | assumption | intro _ | apply State.Good.ite | apply State.Good.foldl | apply good_setSub | apply good_drainRing | apply good_endWatch)

/-- `execSubmissionRingEnable` keeps the frame. -/
theorem good_execSubmissionRingEnable {t : State} (n : Nat) (value : Word) (s : State) (hs : s.Good Q P) (e : execSubmissionRingEnable n value s = .next t) : t.Good Q P := by
  obtain rfl := Host.Outcome.next.inj e
  repeat' first
    | (with_reducible first | assumption | intro _ | apply State.Good.ite | apply State.Good.foldl | apply good_setupWrite | apply good_subEnable)

/-- `execSubmissionRingDisable` keeps the frame. -/
theorem good_execSubmissionRingDisable {t : State} (n : Nat) (value : Word) (s : State) (hs : s.Good Q P) (e : execSubmissionRingDisable n value s = .next t) : t.Good Q P := by
  obtain rfl := Host.Outcome.next.inj e
  repeat' first
    | (with_reducible first | assumption | intro _ | apply State.Good.ite | apply State.Good.foldl | apply good_setupWrite | apply good_subDisable)

/-- `State.compEnable` keeps the frame. -/
theorem good_compEnable (s : State) (n : Nat) (value : Word) (hs : s.Good Q P) : (State.compEnable s n value).Good Q P := by
  unfold State.compEnable
  dsimp only
  repeat' first
    | (with_reducible first | assumption | intro _ | apply State.Good.ite | apply State.Good.foldl | apply good_setComp | apply good_cfgIgnored)

/-- `State.compDisable` keeps the frame. -/
theorem good_compDisable (s : State) (n : Nat) (value : Word) (hs : s.Good Q P) : (State.compDisable s n value).Good Q P := by
  unfold State.compDisable
  dsimp only
  repeat' first
    | (with_reducible first | assumption | intro _ | apply State.Good.ite | apply State.Good.foldl | apply good_setComp | apply good_cfgIgnored)

/-- `execCompletionRingEnable` keeps the frame. -/
theorem good_execCompletionRingEnable {t : State} (n : Nat) (value : Word) (s : State) (hs : s.Good Q P) (e : execCompletionRingEnable n value s = .next t) : t.Good Q P := by
  obtain rfl := Host.Outcome.next.inj e
  repeat' first
    | (with_reducible first | assumption | intro _ | apply State.Good.ite | apply State.Good.foldl | apply good_setupWrite | apply good_compEnable)

/-- `execCompletionRingDisable` keeps the frame. -/
theorem good_execCompletionRingDisable {t : State} (n : Nat) (value : Word) (s : State) (hs : s.Good Q P) (e : execCompletionRingDisable n value s = .next t) : t.Good Q P := by
  obtain rfl := Host.Outcome.next.inj e
  repeat' first
    | (with_reducible first | assumption | intro _ | apply State.Good.ite | apply State.Good.foldl | apply good_setupWrite | apply good_compDisable)

/-- `State.verSelWrite` keeps the frame. -/
theorem good_verSelWrite (s : State) (value : Word) (hs : s.Good Q P) : (State.verSelWrite s value).Good Q P := by
  unfold State.verSelWrite
  repeat' first
    | (with_reducible first | assumption | intro _ | apply State.Good.ite | apply State.Good.foldl)
    | split
    | (unfold State.Good State.MemOk; dsimp only; with_reducible apply State.Good.of_and; with_reducible first | assumption | apply State.Good.ite | apply State.Good.foldl)

/-- `execZtVerSelWrite` keeps the frame. -/
theorem good_execZtVerSelWrite {t : State} (value : Word) (s : State) (hs : s.Good Q P) (e : execZtVerSelWrite value s = .next t) : t.Good Q P := by
  obtain rfl := Host.Outcome.next.inj e
  repeat' first
    | (with_reducible first | assumption | intro _ | apply State.Good.ite | apply State.Good.foldl | apply good_setupWrite | apply good_verSelWrite)

end Sys2Proof.Machine
end

