-- ==== Sys2Proof/Laws/KeepTeardown.lean ====
section
/-!
SUPPORT. The operations of Machine/Teardown.lean keep the frame of `State.Good`.
-/

namespace Sys2Proof.Machine

variable {Q : List Instr} {P : Part}

/-- `State.resetKernel` keeps the frame. -/
theorem good_resetKernel (s : State) (ctx : Nat) (hs : s.Good Q P) : (State.resetKernel s ctx).Good Q P := by
  unfold State.resetKernel
  dsimp only
  repeat' first
    | (with_reducible first | assumption | intro _ | apply State.Good.ite | apply State.Good.foldl | apply good_setKernel | apply good_setCore | apply good_setSsWin | apply good_setPiste | apply good_releaseAreas)
    | split
    | (unfold State.Good State.MemOk; dsimp only; with_reducible apply State.Good.of_and; with_reducible first | assumption | apply State.Good.ite | apply State.Good.foldl | apply good_setKernel | apply good_setCore | apply good_setSsWin | apply good_setPiste | apply good_releaseAreas)

/-- `State.stopKernel` keeps the frame. -/
theorem good_stopKernel (s : State) (x : Desc) (hs : s.Good Q P) : (State.stopKernel s x).Good Q P := by
  unfold State.stopKernel
  dsimp only
  repeat' first
    | (with_reducible first | assumption | intro _ | apply State.Good.ite | apply State.Good.foldl | apply good_setCore)

/-- `State.endKernelOn` keeps the frame. -/
theorem good_endKernelOn (s : State) (c status : Nat) (hs : s.Good Q P) : (State.endKernelOn s c status).Good Q P := by
  unfold State.endKernelOn
  repeat' first
    | (with_reducible first | assumption | intro _ | apply State.Good.ite | apply State.Good.foldl | apply good_retire | apply good_stopKernel)
    | split

/-- `State.endLoop` keeps the frame. -/
theorem good_endLoop (s : State) (n status : Nat) (hs : s.Good Q P) : (State.endLoop s n status).Good Q P := by
  unfold State.endLoop
  dsimp only
  repeat' first
    | (with_reducible first | assumption | intro _ | apply State.Good.ite | apply State.Good.foldl | apply good_setLoop | apply good_pushRecord | apply good_bobRun | apply good_endWatch)
    | split
    | (unfold State.Good State.MemOk; dsimp only; with_reducible apply State.Good.of_and; with_reducible first | assumption | apply State.Good.ite | apply State.Good.foldl | apply good_setLoop | apply good_pushRecord | apply good_bobRun | apply good_endWatch)

/-- `State.cutLoop` keeps the frame. -/
theorem good_cutLoop (s : State) (n : Nat) (hs : s.Good Q P) : (State.cutLoop s n).1.Good Q P := by
  unfold State.cutLoop
  dsimp only
  repeat' first
    | (with_reducible first | assumption | intro _ | apply State.Good.ite | apply State.Good.foldl | apply State.Good.foldlPair | apply good_closeSpec | apply good_endLoop)
    | split

/-- `State.noteLoop` keeps the frame. -/
theorem good_noteLoop (s : State) (n status : Nat) (hs : s.Good Q P) : (State.noteLoop s n status).Good Q P := by
  unfold State.noteLoop
  dsimp only
  repeat' first
    | (with_reducible first | assumption | intro _ | apply State.Good.ite | apply State.Good.foldl | apply good_setLoop)

/-- `State.silenceColl` keeps the frame. -/
theorem good_silenceColl (s : State) (d : Did) (hs : s.Good Q P) : (State.silenceColl s d).Good Q P := by
  unfold State.silenceColl
  dsimp only
  repeat' first
    | (with_reducible first | assumption | intro _ | apply State.Good.ite | apply State.Good.foldl | apply good_setGroup)

/-- `State.tearDown` keeps the frame. -/
theorem good_tearDown (s : State) (ctx status core detail : Nat) (d : Option Did) (hs : s.Good Q P) : (State.tearDown s ctx status core detail d).Good Q P := by
  unfold State.tearDown
  dsimp only
  repeat' first
    | (with_reducible first | assumption | intro _ | apply State.Good.ite | apply State.Good.foldl | apply State.Good.foldlPair | apply good_setCtx | apply good_logEvent | apply good_retire | apply good_cutDesc | apply good_giveTurnOf | apply good_giveTurn | apply good_resetKernel | apply good_cutLoop | apply good_silenceColl)
    | split

/-- `State.coreFault` keeps the frame. -/
theorem good_coreFault (s : State) (c status : Nat) (hs : s.Good Q P) : (State.coreFault s c status).Good Q P := by
  unfold State.coreFault
  dsimp only
  repeat' first
    | (with_reducible first | assumption | intro _ | apply State.Good.ite | apply State.Good.foldl | apply good_tearDown)
    | split

/-- `State.descFault` keeps the frame. -/
theorem good_descFault (s : State) (x : Desc) (status : Nat) (hs : s.Good Q P) : (State.descFault s x status).Good Q P := by
  unfold State.descFault
  repeat' first
    | (with_reducible first | assumption | intro _ | apply State.Good.ite | apply State.Good.foldl | apply good_tearDown)

/-- `State.rowLost` keeps the frame. -/
theorem good_rowLost (s : State) (x : Desc) (row : Nat) (hs : s.Good Q P) : (State.rowLost s x row).Good Q P := by
  unfold State.rowLost
  repeat' first
    | (with_reducible first | assumption | intro _ | apply State.Good.ite | apply State.Good.foldl | apply good_logEvent | apply good_descFault)

/-- `State.concludeOwn` keeps the frame. -/
theorem good_concludeOwn (s : State) (x : Desc) (w : Work) (hs : s.Good Q P) (hw : w.Ok) : (s.concludeOwn x w).Good Q P := by
  cases w with
  | bad st det => exact good_retire _ _ _ _ hs
  | halt r => exact good_haltOn _ _ _ hs
  | mismatch r => exact good_descFault _ _ _ hs
  | lost row => exact good_rowLost _ _ _ hs
  | done st af sf m => exact good_retire _ _ _ _ (good_withStore _ _ hs hw)

/-- `State.conclude` keeps the frame. -/
theorem good_conclude (s : State) (x : Desc) (w : Work) (hs : s.Good Q P) (hw : w.Ok) : (s.conclude x w).Good Q P := by
  cases w with
  | bad st det => exact good_retire _ _ _ _ hs
  | halt r => exact good_haltOn _ _ _ hs
  | mismatch r => exact good_descFault _ _ _ (good_logEvent _ _ _ _ _ _ _ _ hs)
  | lost row => exact good_rowLost _ _ _ hs
  | done st af sf m => exact good_retire _ _ _ _ (good_raiseOn _ _ _ _ (good_withStore _ _ hs hw))

/-- `State.readCured` keeps the frame. -/
theorem good_readCured (s : State) (x : Desc) (r : BadRead) (hs : s.Good Q P) : (State.readCured s x r).Good Q P := by
  unfold State.readCured
  dsimp only
  repeat' first
    | (with_reducible first | assumption | intro _ | apply State.Good.ite | apply State.Good.foldl | apply good_logEvent | apply good_noteRepeat)

/-- `State.readLost` keeps the frame. -/
theorem good_readLost (s : State) (x : Desc) (r : BadRead) (hs : s.Good Q P) : (State.readLost s x r).Good Q P := by
  unfold State.readLost
  dsimp only
  repeat' first
    | (with_reducible first | assumption | intro _ | apply State.Good.ite | apply State.Good.foldl | apply good_logEvent)
    | split
    | (unfold State.Good State.MemOk; dsimp only; with_reducible apply State.Good.of_and; with_reducible first | assumption | apply State.Good.ite | apply State.Good.foldl | apply good_logEvent)

/-- `State.readsMet` keeps the frame. -/
theorem good_readsMet (s : State) (x : Desc) (c : ReadCheck) (hs : s.Good Q P) : (s.readsMet x c).2.Good Q P := by
  cases c with
  | clean => exact hs
  | corrected row => exact State.Good.ite (good_countCorrectedSs s hs) hs
  | retried r => exact State.Good.ite (good_noteStatus _ _ _ _ (good_readCured _ _ _ hs)) hs
  | lasting r =>
    dsimp only [State.readsMet]
    split
    · exact good_descFault _ _ _ (good_readLost _ _ _ hs)
    · exact hs

/-- `State.readThen` keeps the frame. -/
theorem good_readThen (s : State) (x : Desc) (r : ReadCheck) (work : State → Desc → Work) (fin : State → Desc → Work → State) (hs : s.Good Q P)
    (h_work : ∀ s a, s.store.Ok → (work s a).Ok) (h_fin : ∀ s a w, s.Good Q P → w.Ok → (fin s a w).Good Q P) :
    (s.readThen x r work fin).Good Q P := by
  have h := good_readsMet s x r hs
  unfold State.readThen
  split
  · exact h_fin _ _ _ hs (h_work _ _ hs.store)
  · split
    · rename_i e
      rw [e] at h
      exact h_fin _ _ _ h (h_work _ _ h.store)
    · rename_i e
      rw [e] at h
      exact h
  · exact h_fin _ _ _ hs (h_work _ _ hs.store)

/-- `State.takeTurn` keeps the frame. -/
theorem good_takeTurn (s : State) (ctx : Nat) (hs : s.Good Q P) : (State.takeTurn s ctx).Good Q P := by
  unfold State.takeTurn
  repeat' first
    | (with_reducible first | assumption | intro _ | apply State.Good.ite | apply State.Good.foldl | apply good_beginTurn)

/-- `State.kernelBoundary` keeps the frame. -/
theorem good_kernelBoundary (s : State) (ctx : Nat) (busy : Bool) (hs : s.Good Q P) : (State.kernelBoundary s ctx busy).Good Q P := by
  unfold State.kernelBoundary
  repeat' first
    | (with_reducible first | assumption | intro _ | apply State.Good.ite | apply State.Good.foldl | apply good_clockBoundary | apply good_powerBoundary)

/-- `State.kernelDo` keeps the frame. -/
theorem good_kernelDo (s : State) (c : RunCmd) (op : Nat) (work : State → Desc → Work) (hs : s.Good Q P)
    (h_work : ∀ s a, s.store.Ok → (work s a).Ok) : (s.kernelDo c op work).Good Q P := by
  unfold State.kernelDo
  split
  · dsimp only
    split
    · exact good_kernelBoundary _ _ _ (State.Good.foldl (fun _ _ h => good_countBubbles _ _ h)
        (good_readThen _ _ _ _ _ (good_kernelBoundary _ _ _ (good_takeTurn _ _ hs)) h_work (fun _ _ _ h w => good_conclude _ _ _ h w)))
    · exact hs
  · exact hs

/-- `State.pushFault` keeps the frame. -/
theorem good_pushFault (s : State) (part : Nat) (bs : List Byte) (hs : s.Good Q P) : (State.pushFault s part bs).Good Q P := by
  unfold State.pushFault
  dsimp only
  repeat' first
    | (with_reducible first | assumption | intro _ | apply State.Good.ite | apply State.Good.foldl | apply good_setPart | apply good_bobWrite)

/-- `execTeardownDrained` keeps the frame. -/
theorem good_execTeardownDrained {t : State} (ctx : Nat) (s : State) (hs : s.Good Q P) (e : execTeardownDrained ctx s = .next t) : t.Good Q P := by
  unfold execTeardownDrained at e
  dsimp only at e
  repeat' split at e
  all_goals first
    | cases e; done
    | obtain rfl := Host.Outcome.next.inj e
  repeat' first
    | (with_reducible first | assumption | intro _ | apply State.Good.ite | apply State.Good.foldl | apply good_setCtx | apply good_logEvent | apply good_enterFatal | apply good_pushFault)

end Sys2Proof.Machine
end

