-- ==== Sys2Proof/Laws/KeepBoltStep.lean ====
section
/-!
SUPPORT. The operations of Machine/BoltStep.lean keep the frame of `State.Good`.
-/

namespace Sys2Proof.Machine

variable {Q : List Instr} {P : Part}

/-- `State.copyPage` keeps the frame. -/
theorem good_copyPage (s : State) (n : Nat) (q : Seq) (layer : Nat) (old : PageRef) (hs : s.Good Q P) : (State.copyPage s n q layer old).1.Good Q P := by
  unfold State.copyPage
  dsimp only
  repeat' first
    | (with_reducible first | assumption | intro _ | apply State.Good.ite | apply State.Good.foldl | apply State.Good.foldlPair | apply good_pageWrite | apply good_setWmask | apply good_takePage)

/-- `State.clearAbove` keeps the frame. -/
theorem good_clearAbove (s : State) (r : PageRef) (len : Nat) (hs : s.Good Q P) : (State.clearAbove s r len).Good Q P := by
  unfold State.clearAbove
  dsimp only
  repeat' first
    | (with_reducible first | assumption | intro _ | apply State.Good.ite | apply State.Good.foldl | apply good_setWmask)

/-- `State.reserveLayer` keeps the frame. -/
theorem good_reserveLayer (s : State) (n : Nat) (q : Seq) (nres : Nat) (need : Need) (self : Option Did) (layer : Nat) (hs : s.Good Q P) : (State.reserveLayer s n q nres need self layer).1.Good Q P := by
  unfold State.reserveLayer
  dsimp only
  repeat' first
    | (with_reducible first | assumption | intro _ | apply State.Good.ite | apply State.Good.foldl | apply State.Good.foldlPair | apply good_dropRef | apply good_takePage | apply good_copyPage | apply good_clearAbove)
    | split

/-- `State.reserveSpec` keeps the frame. -/
theorem good_reserveSpec (s : State) (n : Nat) (q : Seq) (need : Need) (len : Nat) (hs : s.Good Q P) : (State.reserveSpec s n q need len).1.Good Q P := by
  unfold State.reserveSpec
  dsimp only
  repeat' first
    | (with_reducible first | assumption | intro _ | apply State.Good.ite | apply State.Good.foldl | apply State.Good.foldlPair | apply good_takePage)

/-- `State.reserve` keeps the frame. -/
theorem good_reserve {t : State} {s : State} {n : Nat} {q : Seq} {nres : Nat} {tree : Option (List Nat)} {self : Option Did} {b : Seq × Tally}
    (e : s.reserve n q nres tree self = some (t, b)) (hs : s.Good Q P) : t.Good Q P := by
  unfold State.reserve at e
  dsimp only at e
  split at e
  · cases e
  · have h₁ := good_takeBlocks s q.pool (s.needOf q nres tree).blocks hs
    have h₂ : ∀ l : List Nat, (l.foldl (fun (acc : State × List (List PageRef)) layer =>
        ((acc.1.reserveLayer n q nres (s.needOf q nres tree) self layer).1,
          acc.2 ++ [(acc.1.reserveLayer n q nres (s.needOf q nres tree) self layer).2]))
        ((s.takeBlocks q.pool (s.needOf q nres tree).blocks).1, [])).1.Good Q P :=
      fun l => State.Good.foldlPair (fun a x h => good_reserveLayer _ _ _ _ _ _ _ h) h₁
    split at e
    · cases e; exact h₂ _
    · cases e; exact good_reserveSpec _ _ _ _ _ (h₂ _)

/-- `State.leave` keeps the frame. -/
theorem good_leave (s : State) (n lim : Nat) (self : Option Did) (hs : s.Good Q P) : (State.leave s n lim self).1.Good Q P := by
  unfold State.leave
  dsimp only
  repeat' first
    | (with_reducible first | assumption | intro _ | apply State.Good.ite | apply State.Good.foldl | apply State.Good.foldlPair | apply good_settleSeqs | apply good_putSeq | apply good_closeSpec | apply good_dropMany)
    | split
    | (unfold State.Good State.MemOk; dsimp only; with_reducible apply State.Good.of_and; with_reducible first | assumption | apply State.Good.ite | apply State.Good.foldl | apply State.Good.foldlPair | apply good_settleSeqs | apply good_putSeq | apply good_closeSpec | apply good_dropMany)

/-- `State.run` keeps the frame. -/
theorem good_run (s : State) (r : Req) (tree : List Nat) (self : Option Did) (hs : s.Good Q P) : (State.run s r tree self).1.Good Q P := by
  unfold State.run
  dsimp only
  repeat' first
    | (with_reducible first | assumption | intro _ | apply State.Good.ite | apply State.Good.foldl | apply State.Good.foldlPair | apply good_putSeq | apply good_putIndexed)
    | (with_reducible refine good_reserve (by assumption) ?_)
    | split

/-- `State.shareRefs` keeps the frame. -/
theorem good_shareRefs (s : State) (parent layers p : Nat) (hs : s.Good Q P) : (State.shareRefs s parent layers p).1.Good Q P := by
  unfold State.shareRefs
  dsimp only
  repeat' first
    | (with_reducible first | assumption | intro _ | apply State.Good.ite | apply State.Good.foldl | apply State.Good.foldlPair | apply good_addRef)

/-- `State.joinAs` keeps the frame. -/
theorem good_joinAs {t : State} {s : State} {n : Nat} {r : Req} {self : Option Did} {b : Nat × Tally}
    (e : s.joinAs n r self = some (t, b)) (hs : s.Good Q P) : t.Good Q P := by
  unfold State.joinAs at e
  dsimp only at e
  repeat' split at e
  all_goals first
    | cases e; done
    | (cases e; refine good_putIndexed _ _ _ (good_reserve (by assumption) (good_takeBlocks _ _ _ ?_)))
  all_goals first
    | exact hs
    | exact good_shareRefs _ _ _ _ hs

/-- `State.joins` keeps the frame. -/
theorem good_joins (s : State) (part : Nat) (self : Option Did) (dead : List Nat) (noId : Bool) (l : List (Nat × Req × List Nat))
    (ds : List Decided) (hs : s.Good Q P) : (s.joins part self dead noId l ds).1.Good Q P := by
  induction l generalizing s dead noId ds with
  | nil => exact hs
  | cons a l ih =>
    obtain ⟨i, r, b⟩ := a
    have h := good_takeSeqId s part ((s.part part).seqCntM1 + 1) hs
    unfold State.joins
    dsimp only
    split
    · exact ih _ _ _ _ hs
    · split
      · rename_i e
        rw [e] at h
        exact ih _ _ _ _ h
      · rename_i e
        rw [e] at h
        split
        · exact ih _ _ _ _ h
        · rename_i e
          exact ih _ _ _ _ (good_joinAs e h)

/-- `State.decideReqs` keeps the frame. -/
theorem good_decideReqs (s : State) (part : Nat) (self : Option Did) (rs : List (Req × List Nat)) (hs : s.Good Q P) : (State.decideReqs s part self rs).1.Good Q P := by
  unfold State.decideReqs
  dsimp only
  repeat' first
    | (with_reducible first | assumption | intro _ | apply State.Good.ite | apply State.Good.foldl | apply State.Good.foldlPair | apply good_leave | apply good_run | apply good_joins)

/-- `State.stepPrepare` keeps the frame. -/
theorem good_stepPrepare (s : State) (x : Desc) (hs : s.Good Q P) : (State.stepPrepare s x).Good Q P := by
  unfold State.stepPrepare
  dsimp only
  repeat' first
    | (with_reducible first | assumption | intro _ | apply State.Good.ite | apply State.Good.foldl | apply State.Good.store | apply Store.Ok.ite | apply Store.Ok.foldl | apply Store.Ok.foldlPair | apply Work.Ok.ite | apply Work.Ok.bad | apply Work.Ok.halt | apply Work.Ok.mismatch | apply Work.Ok.lost | apply Work.Ok.done | apply good_setDesc | apply good_cacheSeqs | apply good_retire | apply ok_workOfAcc | apply good_conclude | apply State.Good.self)
    | split
    | (unfold State.Good State.MemOk; dsimp only; with_reducible apply State.Good.of_and; with_reducible first | assumption | apply State.Good.ite | apply State.Good.foldl | apply State.Good.store | apply Store.Ok.ite | apply Store.Ok.foldl | apply Store.Ok.foldlPair | apply good_setDesc | apply good_cacheSeqs | apply good_retire | apply ok_workOfAcc | apply good_conclude | apply State.Good.self)

/-- `State.boltStepCmd` keeps the frame. -/
theorem good_boltStepCmd (s : State) (d : Did) (hs : s.Good Q P) : (State.boltStepCmd s d).Good Q P := by
  unfold State.boltStepCmd
  repeat' first
    | (with_reducible first | assumption | intro _ | apply State.Good.ite | apply State.Good.foldl | apply good_stepPrepare)
    | split

/-- `State.pageMismatch` keeps the frame. -/
theorem good_pageMismatch (s : State) (x : Desc) (r : PageRef) (hs : s.Good Q P) : (State.pageMismatch s x r).Good Q P := by
  unfold State.pageMismatch
  repeat' first
    | (with_reducible first | assumption | intro _ | apply State.Good.ite | apply State.Good.foldl | apply good_logEvent)

/-- `State.stepAtomic` keeps the frame. -/
theorem good_stepAtomic (s : State) (x : Desc) (hs : s.Good Q P) : (State.stepAtomic s x).Good Q P := by
  unfold State.stepAtomic
  dsimp only
  repeat' first
    | (with_reducible first | assumption | intro _ | apply State.Good.ite | apply State.Good.foldl | apply State.Good.store | apply Store.Ok.ite | apply Store.Ok.foldl | apply Store.Ok.foldlPair | apply good_withStore | apply ok_storeRun | apply good_retire | apply good_descFault | apply good_decideReqs | apply good_pageMismatch)
    | split

/-- `execBoltAtomicPhase` keeps the frame. -/
theorem good_execBoltAtomicPhase {t : State} (d : Did) (s : State) (hs : s.Good Q P) (e : execBoltAtomicPhase d s = .next t) : t.Good Q P := by
  obtain rfl := Host.Outcome.next.inj e
  repeat' first
    | (with_reducible first | assumption | intro _ | apply State.Good.ite | apply State.Good.foldl | apply good_stepAtomic)
    | split

/-- `State.commitRow` keeps the frame. -/
theorem good_commitRow (s : State) (n : Nat) (slots : List Nat) (layer : Nat) (acc : List PageRef × List Nat) (k : Nat) (hs : s.Good Q P) : (State.commitRow s n slots layer acc k).1.Good Q P := by
  unfold State.commitRow
  dsimp only
  repeat' first
    | (with_reducible first | assumption | intro _ | apply State.Good.ite | apply State.Good.foldl | apply State.Good.foldlPair | apply good_putRow)
    | split

/-- `State.commitLayer` keeps the frame. -/
theorem good_commitLayer (s : State) (n : Nat) (slots : List Nat) (layer : Nat) (hs : s.Good Q P) : (State.commitLayer s n slots layer).1.Good Q P := by
  unfold State.commitLayer
  dsimp only
  repeat' first
    | (with_reducible first | assumption | intro _ | apply State.Good.ite | apply State.Good.foldl | apply State.Good.foldlPair | apply good_commitRow)

/-- `State.commitSeq` keeps the frame. -/
theorem good_commitSeq (s : State) (n leaf : Nat) (self : Option Did) (hs : s.Good Q P) : (State.commitSeq s n leaf self).1.Good Q P := by
  unfold State.commitSeq
  dsimp only
  repeat' first
    | (with_reducible first | assumption | intro _ | apply State.Good.ite | apply State.Good.foldl | apply State.Good.foldlPair | apply good_putSeq | apply good_putIndexed | apply good_closeSpec | apply good_commitLayer)

/-- `State.commitAll` keeps the frame. -/
theorem good_commitAll (s : State) (self : Option Did) (es : List (Nat × Nat × Nat)) (hs : s.Good Q P) : (State.commitAll s self es).1.Good Q P := by
  unfold State.commitAll
  dsimp only
  repeat' first
    | (with_reducible first | assumption | intro _ | apply State.Good.ite | apply State.Good.foldl | apply State.Good.foldlPair | apply good_commitSeq)
    | split

/-- `State.commitWork` keeps the frame. -/
theorem good_commitWork (s : State) (x : Desc) (hs : s.Good Q P) : (State.commitWork s x).Good Q P := by
  unfold State.commitWork
  dsimp only
  repeat' first
    | (with_reducible first | assumption | intro _ | apply State.Good.ite | apply State.Good.foldl | apply State.Good.foldlPair | apply State.Good.store | apply Store.Ok.ite | apply Store.Ok.foldl | apply Store.Ok.foldlPair | apply Work.Ok.ite | apply Work.Ok.bad | apply Work.Ok.halt | apply Work.Ok.mismatch | apply Work.Ok.lost | apply Work.Ok.done | apply good_withStore | apply ok_storeRun | apply good_cacheSeqs | apply good_retire | apply ok_workOfAcc | apply good_descFault | apply good_conclude | apply good_pageMismatch | apply good_commitAll | apply State.Good.self)
    | split

/-- `State.boltCommitCmd` keeps the frame. -/
theorem good_boltCommitCmd (s : State) (d : Did) (hs : s.Good Q P) : (State.boltCommitCmd s d).Good Q P := by
  unfold State.boltCommitCmd
  repeat' first
    | (with_reducible first | assumption | intro _ | apply State.Good.ite | apply State.Good.foldl | apply good_commitWork)
    | split

/-- `execLeaveReferenceDrop` keeps the frame. -/
theorem good_execLeaveReferenceDrop {t : State} (seq : Nat) (s : State) (hs : s.Good Q P) (e : execLeaveReferenceDrop seq s = .next t) : t.Good Q P := by
  obtain rfl := Host.Outcome.next.inj e
  dsimp only
  repeat' first
    | (with_reducible first | assumption | intro _ | apply State.Good.ite | apply State.Good.foldl | apply good_settleSeqs | apply good_cacheSeq | apply good_dropOne)
    | split
    | (unfold State.Good State.MemOk; dsimp only; with_reducible apply State.Good.of_and; with_reducible first | assumption | apply State.Good.ite | apply State.Good.foldl | apply good_settleSeqs | apply good_cacheSeq | apply good_dropOne)

end Sys2Proof.Machine
end

