-- ==== Sys2Proof/Laws/KeepBoltPool.lean ====
section
/-!
SUPPORT. The operations of Machine/BoltPool.lean keep the frame of `State.Good`.
-/

namespace Sys2Proof.Machine

variable {Q : List Instr} {P : Part}

/-- What one page of a move leaves keeps the frame. -/
def PageStep.Good (Q : List Instr) (P : Part) : PageStep → Prop
  | .ok s | .stop s _ | .mismatch s => s.Good Q P

/-- A page done. -/
theorem PageStep.Good.ok {s : State} (h : s.Good Q P) : (PageStep.ok s).Good Q P := h
/-- A page that stops the move. -/
theorem PageStep.Good.stop {s : State} {n : Nat} (h : s.Good Q P) : (PageStep.stop s n).Good Q P := h
/-- A page whose identity does not match. -/
theorem PageStep.Good.mismatch {s : State} (h : s.Good Q P) : (PageStep.mismatch s).Good Q P := h
/-- Either branch of a choice. -/
theorem PageStep.Good.ite {c : Prop} [Decidable c] {a b : PageStep} (ha : a.Good Q P) (hb : b.Good Q P) : (if c then a else b).Good Q P := by
  split
  · exact ha
  · exact hb

/-- `State.rehome` keeps the frame. -/
theorem good_rehome (s : State) (r : PageRef) (h : List Byte) (hs : s.Good Q P) : (State.rehome s r h).Good Q P := by
  unfold State.rehome
  repeat' first
    | (with_reducible first | assumption | intro _ | apply State.Good.ite | apply State.Good.foldl | apply good_pageWrite)

/-- `State.movePage` keeps the frame. -/
theorem good_movePage (s : State) (x : Desc) (n layer i : Nat) (r : PageRef) (hs : s.Good Q P) : (State.movePage s x n layer i r).Good Q P := by
  unfold State.movePage
  dsimp only
  repeat' first
    | (with_reducible first | assumption | intro _ | apply State.Good.ite | apply State.Good.foldl | apply State.Good.foldlPair | apply PageStep.Good.ite | apply PageStep.Good.ok | apply PageStep.Good.stop | apply PageStep.Good.mismatch | apply good_pageWrite | apply good_dropRef | apply good_takePage | apply good_putIndexed | apply good_pageMismatch | apply good_rehome)

/-- `State.importPage` keeps the frame. -/
theorem good_importPage (s : State) (n i : Nat) (r : PageRef) (img : List Byte) (hs : s.Good Q P) : (State.importPage s n i r img).Good Q P := by
  unfold State.importPage
  dsimp only
  repeat' first
    | (with_reducible first | assumption | intro _ | apply State.Good.ite | apply State.Good.foldl | apply PageStep.Good.ite | apply PageStep.Good.ok | apply PageStep.Good.stop | apply PageStep.Good.mismatch | apply good_putRow)

/-- `State.migratePage` keeps the frame. -/
theorem good_migratePage (s : State) (x : Desc) (n : Nat) (layer i at_ : Nat) (hs : s.Good Q P) : (State.migratePage s x n layer i at_).Good Q P := by
  unfold State.migratePage
  dsimp only
  repeat' first
    | (with_reducible first | assumption | intro _ | apply State.Good.ite | apply State.Good.foldl | apply State.Good.store | apply Store.Ok.ite | apply Store.Ok.foldl | apply Store.Ok.foldlPair | apply PageStep.Good.ite | apply PageStep.Good.ok | apply PageStep.Good.stop | apply PageStep.Good.mismatch | apply good_withStore | apply ok_storeRun | apply good_takeCvu | apply good_pageMismatch | apply good_movePage | apply good_importPage)
    | split

/-- `State.migrateEnd` keeps the frame. -/
theorem good_migrateEnd (s : State) (x : Desc) (k st : Nat) (bad : Bool) (hs : s.Good Q P) : (State.migrateEnd s x k st bad).Good Q P := by
  unfold State.migrateEnd
  dsimp only
  repeat' first
    | (with_reducible first | assumption | intro _ | apply State.Good.ite | apply State.Good.foldl | apply State.Good.store | apply Store.Ok.ite | apply Store.Ok.foldl | apply Store.Ok.foldlPair | apply good_withStore | apply ok_storeRun | apply good_retire | apply good_descFault)

/-- `State.migrateNext` keeps the frame. -/
theorem good_migrateNext (s : State) (x : Desc) (hs : s.Good Q P) : (s.migrateNext x).Good Q P := by
  unfold State.migrateNext
  dsimp only
  split
  · exact good_migrateEnd _ _ _ _ _ hs
  · rename_i l i _
    have h := good_migratePage s x (x.field 10 2) l i x.prog hs
    split
    · rename_i e
      rw [e] at h
      exact good_migrateEnd _ _ _ _ _ h
    · rename_i e
      rw [e] at h
      exact good_migrateEnd _ _ _ _ _ h
    · rename_i e
      rw [e] at h
      exact .ite (good_setDesc _ _ h) (good_migrateEnd _ _ _ _ _ h)

/-- `State.migrate` keeps the frame. -/
theorem good_migrate (s : State) (x : Desc) (hs : s.Good Q P) : (State.migrate s x).Good Q P := by
  unfold State.migrate
  dsimp only
  repeat' first
    | (with_reducible first | assumption | intro _ | apply State.Good.ite | apply State.Good.foldl | apply State.Good.store | apply Store.Ok.ite | apply Store.Ok.foldl | apply Store.Ok.foldlPair | apply Work.Ok.ite | apply Work.Ok.bad | apply Work.Ok.halt | apply Work.Ok.mismatch | apply Work.Ok.lost | apply Work.Ok.done | apply good_cacheSeq | apply good_retire | apply ok_workOfAcc | apply good_takeUnits | apply good_conclude | apply good_migrateNext | apply State.Good.self)
    | split

/-- `State.migrateMode` keeps the frame. -/
theorem good_migrateMode (s : State) (d : Did) (mode : Nat) (hs : s.Good Q P) : (State.migrateMode s d mode).Good Q P := by
  unfold State.migrateMode
  repeat' first
    | (with_reducible first | assumption | intro _ | apply State.Good.ite | apply State.Good.foldl | apply good_migrate)
    | split

/-- `State.boltMigrateMoveCmd` keeps the frame. -/
theorem good_boltMigrateMoveCmd (s : State) (d : Did) (hs : s.Good Q P) : (State.boltMigrateMoveCmd s d).Good Q P := by
  unfold State.boltMigrateMoveCmd
  repeat' first
    | (with_reducible first | assumption | intro _ | apply State.Good.ite | apply State.Good.foldl | apply good_migrateMode)

/-- `State.boltMigrateExportCmd` keeps the frame. -/
theorem good_boltMigrateExportCmd (s : State) (d : Did) (hs : s.Good Q P) : (State.boltMigrateExportCmd s d).Good Q P := by
  unfold State.boltMigrateExportCmd
  repeat' first
    | (with_reducible first | assumption | intro _ | apply State.Good.ite | apply State.Good.foldl | apply good_migrateMode)

/-- `State.boltMigrateImportCmd` keeps the frame. -/
theorem good_boltMigrateImportCmd (s : State) (d : Did) (hs : s.Good Q P) : (State.boltMigrateImportCmd s d).Good Q P := by
  unfold State.boltMigrateImportCmd
  repeat' first
    | (with_reducible first | assumption | intro _ | apply State.Good.ite | apply State.Good.foldl | apply good_migrateMode)

/-- `State.boltMigrateCheckCmd` keeps the frame. -/
theorem good_boltMigrateCheckCmd (s : State) (d : Did) (hs : s.Good Q P) : (State.boltMigrateCheckCmd s d).Good Q P := by
  unfold State.boltMigrateCheckCmd
  repeat' first
    | (with_reducible first | assumption | intro _ | apply State.Good.ite | apply State.Good.foldl | apply good_migrateMode)

/-- `State.poolCreate` keeps the frame. -/
theorem good_poolCreate (s : State) (x : Desc) (hs : s.Good Q P) : (State.poolCreate s x).Good Q P := by
  unfold State.poolCreate
  dsimp only
  repeat' first
    | (with_reducible first | assumption | intro _ | apply State.Good.ite | apply State.Good.foldl | apply good_retire | apply good_freshPool)

/-- `State.poolReset` keeps the frame. -/
theorem good_poolReset (s : State) (x : Desc) (destroy : Bool) (hs : s.Good Q P) : (State.poolReset s x destroy).Good Q P := by
  unfold State.poolReset
  dsimp only
  repeat' first
    | (with_reducible first | assumption | intro _ | apply State.Good.ite | apply State.Good.foldl | apply good_setPool | apply good_retire | apply good_freshPool)
    | split

/-- `State.poolQuery` keeps the frame. -/
theorem good_poolQuery (s : State) (x : Desc) (hs : s.Good Q P) : (State.poolQuery s x).Good Q P := by
  unfold State.poolQuery
  dsimp only
  repeat' first
    | (with_reducible first | assumption | intro _ | apply State.Good.ite | apply State.Good.foldl | apply State.Good.store | apply Store.Ok.ite | apply Store.Ok.foldl | apply Store.Ok.foldlPair | apply Work.Ok.ite | apply Work.Ok.bad | apply Work.Ok.halt | apply Work.Ok.mismatch | apply Work.Ok.lost | apply Work.Ok.done | apply good_setPool | apply good_logEvent | apply good_withStore | apply ok_storeRun | apply good_retire | apply ok_workOfAcc | apply good_conclude | apply State.Good.self)
    | split

/-- `State.poolSeqtab` keeps the frame. -/
theorem good_poolSeqtab (s : State) (x : Desc) (hs : s.Good Q P) : (State.poolSeqtab s x).Good Q P := by
  unfold State.poolSeqtab
  repeat' first
    | (with_reducible first | assumption | intro _ | apply State.Good.ite | apply State.Good.foldl | apply good_retire)
    | split
    | (unfold State.Good State.MemOk; dsimp only; with_reducible apply State.Good.of_and; with_reducible first | assumption | apply State.Good.ite | apply State.Good.foldl | apply good_retire)

/-- `State.poolSync` keeps the frame. -/
theorem good_poolSync (s : State) (x : Desc) (hs : s.Good Q P) : (State.poolSync s x).Good Q P := by
  unfold State.poolSync
  repeat' first
    | (with_reducible first | assumption | intro _ | apply State.Good.ite | apply State.Good.foldl | apply good_writeBack | apply good_retire)

/-- `State.poolDo` keeps the frame. -/
theorem good_poolDo (s : State) (d : Did) (op : Nat) (act : State → Desc → State) (hs : s.Good Q P) (h_act : ∀ s (a0 : Desc), s.Good Q P → (act s a0).Good Q P) : (State.poolDo s d op act).Good Q P := by
  unfold State.poolDo
  repeat' first
    | (with_reducible first | assumption | intro _ | apply State.Good.ite | apply State.Good.foldl | apply h_act)
    | split

/-- `State.boltPoolCreateCmd` keeps the frame. -/
theorem good_boltPoolCreateCmd (s : State) (d : Did) (hs : s.Good Q P) : (State.boltPoolCreateCmd s d).Good Q P := by
  unfold State.boltPoolCreateCmd
  repeat' first
    | (with_reducible first | assumption | intro _ | apply State.Good.ite | apply State.Good.foldl | apply good_poolCreate | apply good_poolDo)

/-- `State.boltPoolDestroyCmd` keeps the frame. -/
theorem good_boltPoolDestroyCmd (s : State) (d : Did) (hs : s.Good Q P) : (State.boltPoolDestroyCmd s d).Good Q P := by
  unfold State.boltPoolDestroyCmd
  repeat' first
    | (with_reducible first | assumption | intro _ | apply State.Good.ite | apply State.Good.foldl | apply good_poolReset | apply good_poolDo)

/-- `State.boltPoolResetCmd` keeps the frame. -/
theorem good_boltPoolResetCmd (s : State) (d : Did) (hs : s.Good Q P) : (State.boltPoolResetCmd s d).Good Q P := by
  unfold State.boltPoolResetCmd
  repeat' first
    | (with_reducible first | assumption | intro _ | apply State.Good.ite | apply State.Good.foldl | apply good_poolReset | apply good_poolDo)

/-- `State.boltPoolQueryCmd` keeps the frame. -/
theorem good_boltPoolQueryCmd (s : State) (d : Did) (hs : s.Good Q P) : (State.boltPoolQueryCmd s d).Good Q P := by
  unfold State.boltPoolQueryCmd
  repeat' first
    | (with_reducible first | assumption | intro _ | apply State.Good.ite | apply State.Good.foldl | apply good_poolQuery | apply good_poolDo)

/-- `State.boltPoolSeqtabCmd` keeps the frame. -/
theorem good_boltPoolSeqtabCmd (s : State) (d : Did) (hs : s.Good Q P) : (State.boltPoolSeqtabCmd s d).Good Q P := by
  unfold State.boltPoolSeqtabCmd
  repeat' first
    | (with_reducible first | assumption | intro _ | apply State.Good.ite | apply State.Good.foldl | apply good_poolSeqtab | apply good_poolDo)

/-- `State.boltPoolSyncCmd` keeps the frame. -/
theorem good_boltPoolSyncCmd (s : State) (d : Did) (hs : s.Good Q P) : (State.boltPoolSyncCmd s d).Good Q P := by
  unfold State.boltPoolSyncCmd
  repeat' first
    | (with_reducible first | assumption | intro _ | apply State.Good.ite | apply State.Good.foldl | apply good_poolSync | apply good_poolDo)

/-- `execPageRetirePush` keeps the frame. -/
theorem good_execPageRetirePush {t : State} (pool : Nat) (isIndex : Bool) (number : Nat) (s : State) (hs : s.Good Q P) (e : execPageRetirePush pool isIndex number s = .next t) : t.Good Q P := by
  obtain rfl := Host.Outcome.next.inj e
  dsimp only
  repeat' first
    | (with_reducible first | assumption | intro _ | apply State.Good.ite | apply State.Good.foldl | apply good_putPool)

/-- `State.fillRetried` keeps the frame. -/
theorem good_fillRetried (s : State) (seq : Nat) (hs : s.Good Q P) : (State.fillRetried s seq).Good Q P := by
  unfold State.fillRetried
  dsimp only
  repeat' first
    | (with_reducible first | assumption | intro _ | apply State.Good.ite | apply State.Good.foldl | apply good_logEvent | apply good_noteRepeat | apply good_noteStatus)

/-- `execSeqCacheFill` keeps the frame. -/
theorem good_execSeqCacheFill {t : State} (seq : Nat) (firstOk : Bool) (s : State) (hs : s.Good Q P) (e : execSeqCacheFill seq firstOk s = .next t) : t.Good Q P := by
  obtain rfl := Host.Outcome.next.inj e
  dsimp only
  repeat' first
    | (with_reducible first | assumption | intro _ | apply State.Good.ite | apply State.Good.foldl | apply good_cacheSeq | apply good_fillRetried)

end Sys2Proof.Machine
end

