-- ==== Sys2Proof/Laws/KeepTransfers.lean ====
section
/-!
SUPPORT. The operations of Machine/Transfers.lean keep the frame of `State.Good`.
-/

namespace Sys2Proof.Machine

variable {Q : List Instr} {P : Part}

/-- `State.copyStore` keeps the frame. -/
theorem ok_copyStore (s : State) (x : Desc) (e : Xfer) (m : Store) (p : (Nat × Nat) × RowOut) (hs : m.Ok) : (State.copyStore s x e m p).Ok := by
  unfold State.copyStore
  dsimp only
  repeat' first
    | (with_reducible first | assumption | intro _ | apply State.Good.ite | apply State.Good.foldl | apply State.Good.store | apply Store.Ok.ite | apply Store.Ok.foldl | apply Store.Ok.foldlPair | apply ok_storeRun)

/-- `State.copyEntry` keeps the frame. -/
theorem ok_copyEntry (s : State) (x : Desc) (e : Xfer) (hs : s.store.Ok) : (State.copyEntry s x e).Ok := by
  unfold State.copyEntry
  dsimp only
  repeat' first
    | (with_reducible first | assumption | intro _ | apply State.Good.ite | apply State.Good.foldl | apply State.Good.store | apply Store.Ok.ite | apply Store.Ok.foldl | apply Store.Ok.foldlPair | apply Work.Ok.ite | apply Work.Ok.bad | apply Work.Ok.halt | apply Work.Ok.mismatch | apply Work.Ok.lost | apply Work.Ok.done | apply ok_storeRun | apply ok_guarded | apply ok_putHist | apply ok_copyStore)

/-- `State.copyWork` keeps the frame. -/
theorem ok_copyWork (s : State) (x : Desc) (hs : s.store.Ok) : (State.copyWork s x).Ok := by
  unfold State.copyWork
  dsimp only
  repeat' first
    | (with_reducible first | assumption | intro _ | apply State.Good.ite | apply State.Good.foldl | apply State.Good.store | apply Store.Ok.ite | apply Store.Ok.foldl | apply Store.Ok.foldlPair | apply Work.Ok.ite | apply Work.Ok.bad | apply Work.Ok.halt | apply Work.Ok.mismatch | apply Work.Ok.lost | apply Work.Ok.done | apply ok_guarded | apply ok_copyEntry)

/-- `State.concludeCopy` keeps the frame. -/
theorem good_concludeCopy (s : State) (x : Desc) (w : Work) (hs : s.Good Q P) (hw : w.Ok) : (s.concludeCopy x w).Good Q P := by
  unfold State.concludeCopy
  split
  · exact good_concludeOwn _ _ _ (good_takeUnits _ _ _ hs) hw
  · exact good_concludeOwn _ _ _ hs hw

/-- `State.copyDesc` keeps the frame. -/
theorem good_copyDesc (s : State) (c : RunCmd) (op : Nat) (hs : s.Good Q P) : (State.copyDesc s c op).Good Q P := by
  unfold State.copyDesc
  repeat' first
    | (with_reducible first | assumption | intro _ | apply State.Good.ite | apply State.Good.foldl | apply State.Good.store | apply Store.Ok.ite | apply Store.Ok.foldl | apply Store.Ok.foldlPair | apply Work.Ok.ite | apply Work.Ok.bad | apply Work.Ok.halt | apply Work.Ok.mismatch | apply Work.Ok.lost | apply Work.Ok.done | apply good_readThen | apply ok_copyWork | apply good_concludeCopy | apply State.Good.self)
    | split

/-- `execMove` keeps the frame. -/
theorem good_execMove {t : State} (c : RunCmd) (s : State) (hs : s.Good Q P) (e : execMove c s = .next t) : t.Good Q P := by
  obtain rfl := Host.Outcome.next.inj e
  repeat' first
    | (with_reducible first | assumption | intro _ | apply State.Good.ite | apply State.Good.foldl | apply good_copyDesc)

/-- `execConvert` keeps the frame. -/
theorem good_execConvert {t : State} (c : RunCmd) (s : State) (hs : s.Good Q P) (e : execConvert c s = .next t) : t.Good Q P := by
  obtain rfl := Host.Outcome.next.inj e
  repeat' first
    | (with_reducible first | assumption | intro _ | apply State.Good.ite | apply State.Good.foldl | apply good_copyDesc)

/-- `execTurn` keeps the frame. -/
theorem good_execTurn {t : State} (c : RunCmd) (s : State) (hs : s.Good Q P) (e : execTurn c s = .next t) : t.Good Q P := by
  obtain rfl := Host.Outcome.next.inj e
  repeat' first
    | (with_reducible first | assumption | intro _ | apply State.Good.ite | apply State.Good.foldl | apply good_copyDesc)

end Sys2Proof.Machine
end

