-- ==== Sys2Proof/Laws/KeepGemm.lean ====
section
/-!
SUPPORT. The operations of Machine/Gemm.lean keep the frame of `State.Good`.
-/

namespace Sys2Proof.Machine

variable {Q : List Instr} {P : Part}

/-- `State.matTensor` keeps the frame. -/
theorem ok_matTensor (s : State) (x : Desc) (p : MatParams) (rows : List (List Nat)) (e : Epilogue) (hs : s.store.Ok) : (State.matTensor s x p rows e).1.Ok := by
  unfold State.matTensor
  dsimp only
  repeat' first
    | (with_reducible first | assumption | intro _ | apply State.Good.ite | apply State.Good.foldl | apply State.Good.store | apply Store.Ok.ite | apply Store.Ok.foldl | apply Store.Ok.foldlPair | apply ok_storeRun | apply ok_putHist | apply State.Good.self)
    | split

/-- `State.matBolts` keeps the frame. -/
theorem ok_matBolts (s : State) (x : Desc) (p : MatParams) (rows : List (List Nat)) (e : Epilogue) (ws : List WriteEnt) (hs : s.store.Ok) : (State.matBolts s x p rows e ws).1.Ok := by
  unfold State.matBolts
  dsimp only
  repeat' first
    | (with_reducible first | assumption | intro _ | apply State.Good.ite | apply State.Good.foldl | apply State.Good.foldlPair | apply State.Good.store | apply Store.Ok.ite | apply Store.Ok.foldl | apply Store.Ok.foldlPair | apply ok_putHist | apply good_writeRows | apply State.Good.self)

/-- `State.listBad` keeps the frame. -/
theorem ok_listBad {s : State} {x : Desc} {p : MatParams} {l : List WriteEnt} {c : Prop} [Decidable c] {w : Work} (e : (if c then s.listBad x p l else none) = some w) : w.Ok := by
  unfold State.listBad at e
  dsimp only at e
  repeat' split at e
  all_goals first
    | cases e; done
    | (obtain rfl := Option.some.inj e; exact trivial)
    | (obtain ⟨b, -, rfl⟩ := Option.map_eq_some_iff.mp e; exact ok_workOfAcc _ _)

/-- `State.matWork` keeps the frame. -/
theorem ok_matWork (s : State) (x : Desc) (hs : s.store.Ok) : (State.matWork s x).Ok := by
  unfold State.matWork
  dsimp only
  repeat' first
    | (with_reducible first | assumption | intro _ | apply State.Good.ite | apply State.Good.foldl | apply State.Good.store | apply Store.Ok.ite | apply Store.Ok.foldl | apply Store.Ok.foldlPair | apply Work.Ok.ite | apply Work.Ok.bad | apply Work.Ok.halt | apply Work.Ok.mismatch | apply Work.Ok.lost | apply Work.Ok.done | apply ok_guarded | apply ok_matTensor | apply ok_matBolts | apply State.Good.self)
    | (with_reducible refine ok_listBad (by assumption); done)
    | split

/-- `execGemm` keeps the frame. -/
theorem good_execGemm {t : State} (c : RunCmd) (s : State) (hs : s.Good Q P) (e : execGemm c s = .next t) : t.Good Q P := by
  obtain rfl := Host.Outcome.next.inj e
  repeat' first
    | (with_reducible first | assumption | intro _ | apply State.Good.ite | apply State.Good.foldl | apply State.Good.store | apply Store.Ok.ite | apply Store.Ok.foldl | apply Store.Ok.foldlPair | apply Work.Ok.ite | apply Work.Ok.bad | apply Work.Ok.halt | apply Work.Ok.mismatch | apply Work.Ok.lost | apply Work.Ok.done | apply good_kernelDo | apply ok_matWork)

/-- `execConv` keeps the frame. -/
theorem good_execConv {t : State} (c : RunCmd) (s : State) (hs : s.Good Q P) (e : execConv c s = .next t) : t.Good Q P := by
  obtain rfl := Host.Outcome.next.inj e
  repeat' first
    | (with_reducible first | assumption | intro _ | apply State.Good.ite | apply State.Good.foldl | apply State.Good.store | apply Store.Ok.ite | apply Store.Ok.foldl | apply Store.Ok.foldlPair | apply Work.Ok.ite | apply Work.Ok.bad | apply Work.Ok.halt | apply Work.Ok.mismatch | apply Work.Ok.lost | apply Work.Ok.done | apply good_kernelDo | apply ok_matWork)

end Sys2Proof.Machine
end

