-- ==== Sys2Proof/Laws/KeepMaps.lean ====
section
/-!
SUPPORT. The operations of Machine/Maps.lean keep the frame of `State.Good`.
-/

namespace Sys2Proof.Machine

variable {Q : List Instr} {P : Part}

/-- `State.mapWork` keeps the frame. -/
theorem ok_mapWork (s : State) (x : Desc) (hs : s.store.Ok) : (State.mapWork s x).Ok := by
  unfold State.mapWork
  dsimp only
  repeat' first
    | (with_reducible first | assumption | intro _ | apply State.Good.ite | apply State.Good.foldl | apply State.Good.store | apply Store.Ok.ite | apply Store.Ok.foldl | apply Store.Ok.foldlPair | apply Work.Ok.ite | apply Work.Ok.bad | apply Work.Ok.halt | apply Work.Ok.mismatch | apply Work.Ok.lost | apply Work.Ok.done | apply ok_storeRun | apply ok_guarded | apply ok_putHist)

/-- `execSfuMap` keeps the frame. -/
theorem good_execSfuMap {t : State} (c : RunCmd) (s : State) (hs : s.Good Q P) (e : execSfuMap c s = .next t) : t.Good Q P := by
  obtain rfl := Host.Outcome.next.inj e
  repeat' first
    | (with_reducible first | assumption | intro _ | apply State.Good.ite | apply State.Good.foldl | apply State.Good.store | apply Store.Ok.ite | apply Store.Ok.foldl | apply Store.Ok.foldlPair | apply Work.Ok.ite | apply Work.Ok.bad | apply Work.Ok.halt | apply Work.Ok.mismatch | apply Work.Ok.lost | apply Work.Ok.done | apply good_kernelDo | apply ok_mapWork)

/-- `State.normWork` keeps the frame. -/
theorem ok_normWork (s : State) (x : Desc) (hs : s.store.Ok) : (State.normWork s x).Ok := by
  unfold State.normWork
  dsimp only
  repeat' first
    | (with_reducible first | assumption | intro _ | apply State.Good.ite | apply State.Good.foldl | apply State.Good.store | apply Store.Ok.ite | apply Store.Ok.foldl | apply Store.Ok.foldlPair | apply Work.Ok.ite | apply Work.Ok.bad | apply Work.Ok.halt | apply Work.Ok.mismatch | apply Work.Ok.lost | apply Work.Ok.done | apply ok_storeRun | apply ok_guarded | apply ok_putHistAt)

/-- `execNorm` keeps the frame. -/
theorem good_execNorm {t : State} (c : RunCmd) (s : State) (hs : s.Good Q P) (e : execNorm c s = .next t) : t.Good Q P := by
  obtain rfl := Host.Outcome.next.inj e
  repeat' first
    | (with_reducible first | assumption | intro _ | apply State.Good.ite | apply State.Good.foldl | apply State.Good.store | apply Store.Ok.ite | apply Store.Ok.foldl | apply Store.Ok.foldlPair | apply Work.Ok.ite | apply Work.Ok.bad | apply Work.Ok.halt | apply Work.Ok.mismatch | apply Work.Ok.lost | apply Work.Ok.done | apply good_kernelDo | apply ok_normWork)

end Sys2Proof.Machine
end

