-- ==== Sys2Proof/Laws/KeepAttention.lean ====
section
/-!
SUPPORT. The operations of Machine/Attention.lean keep the frame of `State.Good`.
-/

namespace Sys2Proof.Machine

variable {Q : List Instr} {P : Part}

/-- `State.boltUnread` keeps the frame. -/
theorem ok_boltUnread {s : State} {l : List View} {n : Nat} {w : Work} (e : s.boltUnread l n = some w) : w.Ok := by
  unfold State.boltUnread at e
  split at e
  · obtain rfl := Option.some.inj e
    exact ok_workOfAcc _ _
  · obtain ⟨r, -, rfl⟩ := Option.map_eq_some_iff.mp e
    exact trivial

/-- `State.clearUnits` keeps the frame. -/
theorem ok_clearUnits (s : State) (m : Store) (x : Desc) (ref n : Nat) (is : List Nat) (hs : m.Ok) : (State.clearUnits s m x ref n is).Ok := by
  unfold State.clearUnits
  repeat' first
    | (with_reducible first | assumption | intro _ | apply State.Good.ite | apply State.Good.foldl | apply State.Good.store | apply Store.Ok.ite | apply Store.Ok.foldl | apply Store.Ok.foldlPair | apply ok_storeRun)

/-- `State.putEntries` keeps the frame. -/
theorem ok_putEntries (s : State) (m : Store) (x : Desc) (ref n : Nat) (es : List (Nat × List Byte)) (hs : m.Ok) : (State.putEntries s m x ref n es).Ok := by
  unfold State.putEntries
  repeat' first
    | (with_reducible first | assumption | intro _ | apply State.Good.ite | apply State.Good.foldl | apply State.Good.store | apply Store.Ok.ite | apply Store.Ok.foldl | apply Store.Ok.foldlPair | apply ok_storeRun)

/-- `State.putFinished` keeps the frame. -/
theorem ok_putFinished (s : State) (m : Store) (x : Desc) (p : AttnP) (env : SfuEnv) (seed oref lref : Nat) (e : AttnEnt) (parts : List ((Nat × Nat) × Part3)) (hs : m.Ok) : (State.putFinished s m x p env seed oref lref e parts).1.Ok := by
  unfold State.putFinished
  dsimp only
  repeat' first
    | (with_reducible first | assumption | intro _ | apply State.Good.ite | apply State.Good.foldl | apply State.Good.store | apply Store.Ok.ite | apply Store.Ok.foldl | apply Store.Ok.foldlPair | apply ok_storeRun | apply ok_putEntries)

/-- `State.putParts` keeps the frame. -/
theorem ok_putParts (s : State) (m : Store) (x : Desc) (p : AttnP) (e : AttnEnt) (parts : List ((Nat × Nat) × Part3)) (hs : m.Ok) : (State.putParts s m x p e parts).Ok := by
  unfold State.putParts
  repeat' first
    | (with_reducible first | assumption | intro _ | apply State.Good.ite | apply State.Good.foldl | apply State.Good.store | apply Store.Ok.ite | apply Store.Ok.foldl | apply Store.Ok.foldlPair | apply ok_storeRun)

/-- `State.attnRead` keeps the frame. -/
theorem ok_attnRead {s : State} {x : Desc} {bwd : Bool} {direct : AttnP → List (Nat × Bool)} {w : Work} (e : s.attnRead x bwd direct = .error w) : w.Ok := by
  unfold State.attnRead at e
  dsimp only at e
  repeat' split at e
  all_goals first
    | cases e; done
    | (obtain rfl := Except.error.inj e; first | exact ok_workOfAcc _ _ | exact trivial)

/-- `State.boltListBad` keeps the frame. -/
theorem ok_boltListBad {s : State} {x : Desc} {p : AttnP} {l : List AttnEnt} {c : Prop} [Decidable c] {w : Work} (e : (if c then s.boltListBad x p l else none) = some w) : w.Ok := by
  unfold State.boltListBad at e
  dsimp only at e
  repeat' split at e
  all_goals first
    | cases e; done
    | (obtain rfl := Option.some.inj e; exact trivial)

/-- `State.fwdEntry` keeps the frame. -/
theorem ok_fwdEntry (s : State) (x : Desc) (i : AttnIn) (t : AttnTile) (acc : Store × FlagSet × FlagSet) (e : AttnEnt × Option View) (hs : acc.1.Ok) : (State.fwdEntry s x i t acc e).1.Ok := by
  unfold State.fwdEntry
  dsimp only
  repeat' first
    | (with_reducible first | assumption | intro _ | apply State.Good.ite | apply State.Good.foldl | apply State.Good.store | apply Store.Ok.ite | apply Store.Ok.foldl | apply Store.Ok.foldlPair | apply ok_putFinished | apply ok_putParts | apply State.Good.self)
    | split

/-- `State.attnWork` keeps the frame. -/
theorem ok_attnWork (s : State) (x : Desc) (hs : s.store.Ok) : (State.attnWork s x).Ok := by
  unfold State.attnWork
  dsimp only
  repeat' first
    | (with_reducible first | assumption | intro _ | apply State.Good.ite | apply State.Good.foldl | apply State.Good.store | apply Store.Ok.ite | apply Store.Ok.foldl | apply Store.Ok.foldlPair | apply Work.Ok.ite | apply Work.Ok.bad | apply Work.Ok.halt | apply Work.Ok.mismatch | apply Work.Ok.lost | apply Work.Ok.done | apply ok_guarded | apply ok_clearUnits | apply ok_fwdEntry | apply State.Good.self)
    | (with_reducible refine ok_boltUnread (by assumption); done)
    | (with_reducible refine ok_attnRead (by assumption); done)
    | (with_reducible refine ok_boltListBad (by assumption); done)
    | split

/-- `execAttnFwd` keeps the frame. -/
theorem good_execAttnFwd {t : State} (c : RunCmd) (s : State) (hs : s.Good Q P) (e : execAttnFwd c s = .next t) : t.Good Q P := by
  obtain rfl := Host.Outcome.next.inj e
  repeat' first
    | (with_reducible first | assumption | intro _ | apply State.Good.ite | apply State.Good.foldl | apply State.Good.store | apply Store.Ok.ite | apply Store.Ok.foldl | apply Store.Ok.foldlPair | apply Work.Ok.ite | apply Work.Ok.bad | apply Work.Ok.halt | apply Work.Ok.mismatch | apply Work.Ok.lost | apply Work.Ok.done | apply good_kernelDo | apply ok_attnWork)

end Sys2Proof.Machine
end

