-- ==== Sys2Proof/Laws/KeepAttnGrad.lean ====
section
/-!
SUPPORT. The operations of Machine/AttnGrad.lean keep the frame of `State.Good`.
-/

namespace Sys2Proof.Machine

variable {Q : List Instr} {P : Part}

/-- `State.mergeFinish` keeps the frame. -/
theorem ok_mergeFinish (s : State) (x : Desc) (g : MergeDesc) (env : SfuEnv) (parts : List Part3) (hs : s.store.Ok) : (State.mergeFinish s x g env parts).1.Ok := by
  unfold State.mergeFinish
  dsimp only
  repeat' first
    | (with_reducible first | assumption | intro _ | apply State.Good.ite | apply State.Good.foldl | apply State.Good.store | apply Store.Ok.ite | apply Store.Ok.foldl | apply Store.Ok.foldlPair | apply ok_storeRun)

/-- `State.mergeWork` keeps the frame. -/
theorem ok_mergeWork (s : State) (x : Desc) (hs : s.store.Ok) : (State.mergeWork s x).Ok := by
  unfold State.mergeWork
  dsimp only
  repeat' first
    | (with_reducible first | assumption | intro _ | apply State.Good.ite | apply State.Good.foldl | apply State.Good.store | apply Store.Ok.ite | apply Store.Ok.foldl | apply Store.Ok.foldlPair | apply Work.Ok.ite | apply Work.Ok.bad | apply Work.Ok.halt | apply Work.Ok.mismatch | apply Work.Ok.lost | apply Work.Ok.done | apply ok_storeRun | apply ok_guarded | apply ok_mergeFinish)

/-- `State.mergeMode` keeps the frame. -/
theorem good_mergeMode (s : State) (c : RunCmd) (mode : Nat) (hs : s.Good Q P) : (State.mergeMode s c mode).Good Q P := by
  unfold State.mergeMode
  repeat' first
    | (with_reducible first | assumption | intro _ | apply State.Good.ite | apply State.Good.foldl | apply State.Good.store | apply Store.Ok.ite | apply Store.Ok.foldl | apply Store.Ok.foldlPair | apply Work.Ok.ite | apply Work.Ok.bad | apply Work.Ok.halt | apply Work.Ok.mismatch | apply Work.Ok.lost | apply Work.Ok.done | apply good_kernelDo | apply ok_mergeWork | apply State.Good.self)
    | split

/-- `execMergeFold` keeps the frame. -/
theorem good_execMergeFold {t : State} (c : RunCmd) (s : State) (hs : s.Good Q P) (e : execMergeFold c s = .next t) : t.Good Q P := by
  obtain rfl := Host.Outcome.next.inj e
  repeat' first
    | (with_reducible first | assumption | intro _ | apply State.Good.ite | apply State.Good.foldl | apply good_mergeMode)

/-- `execMergeMaxslot` keeps the frame. -/
theorem good_execMergeMaxslot {t : State} (c : RunCmd) (s : State) (hs : s.Good Q P) (e : execMergeMaxslot c s = .next t) : t.Good Q P := by
  obtain rfl := Host.Outcome.next.inj e
  repeat' first
    | (with_reducible first | assumption | intro _ | apply State.Good.ite | apply State.Good.foldl | apply good_mergeMode)

/-- `execMergeRescale` keeps the frame. -/
theorem good_execMergeRescale {t : State} (c : RunCmd) (s : State) (hs : s.Good Q P) (e : execMergeRescale c s = .next t) : t.Good Q P := by
  obtain rfl := Host.Outcome.next.inj e
  repeat' first
    | (with_reducible first | assumption | intro _ | apply State.Good.ite | apply State.Good.foldl | apply good_mergeMode)

/-- `execMergeFinish` keeps the frame. -/
theorem good_execMergeFinish {t : State} (c : RunCmd) (s : State) (hs : s.Good Q P) (e : execMergeFinish c s = .next t) : t.Good Q P := by
  obtain rfl := Host.Outcome.next.inj e
  repeat' first
    | (with_reducible first | assumption | intro _ | apply State.Good.ite | apply State.Good.foldl | apply good_mergeMode)

/-- `State.putGrad` keeps the frame. -/
theorem ok_putGrad (s : State) (x : Desc) (m : Store) (iovf : Bool) (ref stride r0 w seed plane : Nat) (rows : List (List Nat)) (hs : m.Ok) : (State.putGrad s x m iovf ref stride r0 w seed plane rows).1.Ok := by
  unfold State.putGrad
  dsimp only
  repeat' first
    | (with_reducible first | assumption | intro _ | apply State.Good.ite | apply State.Good.foldl | apply State.Good.store | apply Store.Ok.ite | apply Store.Ok.foldl | apply Store.Ok.foldlPair | apply ok_storeRun)

/-- `State.bwdEntry` keeps the frame. -/
theorem ok_bwdEntry (s : State) (x : Desc) (i : BwdIn) (acc : Store × FlagSet × FlagSet) (e : AttnEnt) (hs : acc.1.Ok) : (State.bwdEntry s x i acc e).1.Ok := by
  unfold State.bwdEntry
  dsimp only
  repeat' first
    | (with_reducible first | assumption | intro _ | apply State.Good.ite | apply State.Good.foldl | apply State.Good.store | apply Store.Ok.ite | apply Store.Ok.foldl | apply Store.Ok.foldlPair | apply ok_putEntries | apply ok_putGrad)

/-- `State.attnBwdWork` keeps the frame. -/
theorem ok_attnBwdWork (s : State) (x : Desc) (hs : s.store.Ok) : (State.attnBwdWork s x).Ok := by
  unfold State.attnBwdWork
  dsimp only
  repeat' first
    | (with_reducible first | assumption | intro _ | apply State.Good.ite | apply State.Good.foldl | apply State.Good.store | apply Store.Ok.ite | apply Store.Ok.foldl | apply Store.Ok.foldlPair | apply Work.Ok.ite | apply Work.Ok.bad | apply Work.Ok.halt | apply Work.Ok.mismatch | apply Work.Ok.lost | apply Work.Ok.done | apply ok_guarded | apply ok_clearUnits | apply ok_bwdEntry | apply State.Good.self)
    | (with_reducible refine ok_attnRead (by assumption); done)
    | split

/-- `execAttnBwd` keeps the frame. -/
theorem good_execAttnBwd {t : State} (c : RunCmd) (s : State) (hs : s.Good Q P) (e : execAttnBwd c s = .next t) : t.Good Q P := by
  obtain rfl := Host.Outcome.next.inj e
  repeat' first
    | (with_reducible first | assumption | intro _ | apply State.Good.ite | apply State.Good.foldl | apply State.Good.store | apply Store.Ok.ite | apply Store.Ok.foldl | apply Store.Ok.foldlPair | apply Work.Ok.ite | apply Work.Ok.bad | apply Work.Ok.halt | apply Work.Ok.mismatch | apply Work.Ok.lost | apply Work.Ok.done | apply good_kernelDo | apply ok_attnBwdWork)

end Sys2Proof.Machine
end

