-- ==== Sys2Proof/Laws/KeepSem.lean ====
section
/-!
SUPPORT. The operations of Machine/Sem.lean keep the frame of `State.Good`.
-/

namespace Sys2Proof.Machine

variable {Q : List Instr} {P : Part}

/-- `State.bindSems` keeps the frame. -/
theorem good_bindSems (s : State) (ctx : Nat) (cs : List Nat) (d : Did) (hs : s.Good Q P) : (State.bindSems s ctx cs d).Good Q P := by
  unfold State.bindSems
  repeat' first
    | (with_reducible first | assumption | intro _ | apply State.Good.ite | apply State.Good.foldl)
    | split
    | (unfold State.Good State.MemOk; dsimp only; with_reducible apply State.Good.of_and; with_reducible first | assumption | apply State.Good.ite | apply State.Good.foldl)

/-- `State.semFault` keeps the frame. -/
theorem good_semFault (s : State) (x : Desc) (core : Nat) (hs : s.Good Q P) : (State.semFault s x core).Good Q P := by
  unfold State.semFault
  repeat' first
    | (with_reducible first | assumption | intro _ | apply State.Good.ite | apply State.Good.foldl | apply good_tearDown)

/-- `State.semPost` keeps the frame. -/
theorem good_semPost (s : State) (x : Desc) (hs : s.Good Q P) : (State.semPost s x).Good Q P := by
  unfold State.semPost
  dsimp only
  repeat' first
    | (with_reducible first | assumption | intro _ | apply State.Good.ite | apply State.Good.foldl | apply good_setCore | apply good_retire | apply good_semFault)
    | split

/-- `State.semWait` keeps the frame. -/
theorem good_semWait (s : State) (x : Desc) (hs : s.Good Q P) : (State.semWait s x).Good Q P := by
  unfold State.semWait
  dsimp only
  repeat' first
    | (with_reducible first | assumption | intro _ | apply State.Good.ite | apply State.Good.foldl | apply good_setCore | apply good_retire | apply good_semFault)

/-- `State.endWaits` keeps the frame. -/
theorem good_endWaits (s : State) (ctx : Nat) (hs : s.Good Q P) : (State.endWaits s ctx).Good Q P := by
  unfold State.endWaits
  repeat' first
    | (with_reducible first | assumption | intro _ | apply State.Good.ite | apply State.Good.foldl | apply good_retire)

/-- `execSemOpPost` keeps the frame. -/
theorem good_execSemOpPost {t : State} (d : Did) (s : State) (hs : s.Good Q P) (e : execSemOpPost d s = .next t) : t.Good Q P := by
  obtain rfl := Host.Outcome.next.inj e
  repeat' first
    | (with_reducible first | assumption | intro _ | apply State.Good.ite | apply State.Good.foldl | apply good_semPost)
    | split

/-- `execSemOpWait` keeps the frame. -/
theorem good_execSemOpWait {t : State} (d : Did) (s : State) (hs : s.Good Q P) (e : execSemOpWait d s = .next t) : t.Good Q P := by
  obtain rfl := Host.Outcome.next.inj e
  repeat' first
    | (with_reducible first | assumption | intro _ | apply State.Good.ite | apply State.Good.foldl | apply good_semWait)
    | split

end Sys2Proof.Machine
end

