-- ==== Sys2Proof/Laws/KeepColl.lean ====
section
/-!
SUPPORT. The operations of Machine/Coll.lean keep the frame of `State.Good`.
-/

namespace Sys2Proof.Machine

variable {Q : List Instr} {P : Part}

/-- `State.putLine` keeps the frame. -/
theorem good_putLine (s : State) (g : Group) (st i : Nat) (bs : List Byte) (hs : s.Good Q P) : (State.putLine s g st i bs).Good Q P := by
  unfold State.putLine
  dsimp only
  repeat' first
    | (with_reducible first | assumption | intro _ | apply State.Good.ite | apply State.Good.foldl | apply good_memPut)
    | split
    | (unfold State.Good State.MemOk; dsimp only; with_reducible apply State.Good.of_and; with_reducible first | assumption | apply State.Good.ite | apply State.Good.foldl | apply good_memPut)

/-- `State.clearLines` keeps the frame. -/
theorem good_clearLines (s : State) (g : Group) (hs : s.Good Q P) : (State.clearLines s g).Good Q P := by
  unfold State.clearLines
  dsimp only
  repeat' first
    | (with_reducible first | assumption | intro _ | apply State.Good.ite | apply State.Good.foldl)
    | split
    | (unfold State.Good State.MemOk; dsimp only; with_reducible apply State.Good.of_and; with_reducible first | assumption | apply State.Good.ite | apply State.Good.foldl)

/-- `State.putStatus` keeps the frame. -/
theorem good_putStatus (s : State) (n : Nat) (c : Coll) (hs : s.Good Q P) : (State.putStatus s n c).Good Q P := by
  unfold State.putStatus
  repeat' first
    | (with_reducible first | assumption | intro _ | apply State.Good.ite | apply State.Good.foldl | apply State.Good.store | apply Store.Ok.ite | apply Store.Ok.foldl | apply Store.Ok.foldlPair | apply good_withStore | apply ok_storeRun)
    | split

/-- `State.collCreate` keeps the frame. -/
theorem good_collCreate (s : State) (x : Desc) (hs : s.Good Q P) : (State.collCreate s x).Good Q P := by
  unfold State.collCreate
  dsimp only
  repeat' first
    | (with_reducible first | assumption | intro _ | apply State.Good.ite | apply State.Good.foldl | apply State.Good.store | apply Store.Ok.ite | apply Store.Ok.foldl | apply Store.Ok.foldlPair | apply Work.Ok.ite | apply Work.Ok.bad | apply Work.Ok.halt | apply Work.Ok.mismatch | apply Work.Ok.lost | apply Work.Ok.done | apply good_setGroup | apply good_withStore | apply ok_storeRun | apply good_retire | apply ok_workOfAcc | apply good_conclude | apply good_clearLines | apply State.Good.self)
    | split

/-- `State.collDestroy` keeps the frame. -/
theorem good_collDestroy (s : State) (x : Desc) (hs : s.Good Q P) : (State.collDestroy s x).Good Q P := by
  unfold State.collDestroy
  repeat' first
    | (with_reducible first | assumption | intro _ | apply State.Good.ite | apply State.Good.foldl | apply good_setGroup | apply good_retire)
    | split

/-- `State.collTake` keeps the frame. -/
theorem good_collTake (s : State) (x : Desc) (hs : s.Good Q P) : (State.collTake s x).Good Q P := by
  unfold State.collTake
  dsimp only
  repeat' first
    | (with_reducible first | assumption | intro _ | apply State.Good.ite | apply State.Good.foldl | apply good_setGroup | apply good_putStatus)
    | split

/-- `State.collRetire` keeps the frame. -/
theorem good_collRetire (s : State) (x : Desc) (status detail : Nat) (hs : s.Good Q P) : (State.collRetire s x status detail).Good Q P := by
  unfold State.collRetire
  repeat' first
    | (with_reducible first | assumption | intro _ | apply State.Good.ite | apply State.Good.foldl | apply good_removeDesc | apply good_retire)

/-- `State.collStart` keeps the frame. -/
theorem good_collStart (s : State) (x : Desc) (hs : s.Good Q P) : (State.collStart s x).Good Q P := by
  unfold State.collStart
  dsimp only
  repeat' first
    | (with_reducible first | assumption | intro _ | apply State.Good.ite | apply State.Good.foldl | apply State.Good.store | apply Store.Ok.ite | apply Store.Ok.foldl | apply Store.Ok.foldlPair | apply Work.Ok.ite | apply Work.Ok.bad | apply Work.Ok.halt | apply Work.Ok.mismatch | apply Work.Ok.lost | apply Work.Ok.done | apply good_setGroup | apply good_removeDesc | apply good_haltOn | apply ok_workOfAcc | apply good_conclude | apply good_putStatus | apply good_collTake | apply good_collRetire | apply State.Good.self)
    | split

/-- `State.putResult` keeps the frame. -/
theorem good_putResult (s : State) (g : Group) (x : Desc) (a : Nat) (bs : List Byte) (hs : s.Good Q P) : (State.putResult s g x a bs).Good Q P := by
  unfold State.putResult
  repeat' first
    | (with_reducible first | assumption | intro _ | apply State.Good.ite | apply State.Good.foldl | apply State.Good.store | apply Store.Ok.ite | apply Store.Ok.foldl | apply Store.Ok.foldlPair | apply good_withStore | apply ok_storeRun)

/-- `State.collBreak` keeps the frame. -/
theorem good_collBreak (s : State) (n : Nat) (d : Did) (hs : s.Good Q P) : (State.collBreak s n d).Good Q P := by
  unfold State.collBreak
  dsimp only
  repeat' first
    | (with_reducible first | assumption | intro _ | apply State.Good.ite | apply State.Good.foldl | apply good_setGroup)

/-- `State.collRowLost` keeps the frame. -/
theorem good_collRowLost (s : State) (n : Nat) (x : Desc) (row : Nat) (hs : s.Good Q P) : (State.collRowLost s n x row).Good Q P := by
  unfold State.collRowLost
  dsimp only
  repeat' first
    | (with_reducible first | assumption | intro _ | apply State.Good.ite | apply State.Good.foldl | apply good_logEvent | apply good_removeDesc | apply good_rowLost | apply good_collBreak)

/-- `State.collGuard` keeps the frame. -/
theorem good_collGuard (s : State) (n : Nat) (x : Desc) (w : CollNeeds) (work : Unit → State) (hs : s.Good Q P) (h_work : ∀ u, (work u).Good Q P) : (State.collGuard s n x w work).Good Q P := by
  unfold State.collGuard
  repeat' first
    | (with_reducible first | assumption | intro _ | apply State.Good.ite | apply State.Good.foldl | apply h_work | apply good_haltOn | apply good_collRetire | apply good_collBreak | apply good_collRowLost)
    | split

/-- `State.sendChunk` keeps the frame. -/
theorem good_sendChunk (s : State) (g : Group) (x : Desc) (c : Coll) (again : Bool) (d : Nat) (hs : s.Good Q P) : (State.sendChunk s g x c again d).Good Q P := by
  unfold State.sendChunk
  dsimp only
  repeat' first
    | (with_reducible first | assumption | intro _ | apply State.Good.ite | apply State.Good.foldl | apply good_memPut)

/-- `State.collRaise` keeps the frame. -/
theorem good_collRaise (s : State) (c : Coll) (f : FlagSet) (hs : s.Good Q P) : (State.collRaise s c f).1.Good Q P := by
  unfold State.collRaise
  dsimp only
  repeat' first
    | (with_reducible first | assumption | intro _ | apply State.Good.ite | apply State.Good.foldl | apply State.Good.foldlPair)
    | split
    | (unfold State.Good State.MemOk; dsimp only; with_reducible apply State.Good.of_and; with_reducible first | assumption | apply State.Good.ite | apply State.Good.foldl | apply State.Good.foldlPair)

/-- `State.ownResult` keeps the frame. -/
theorem good_ownResult (s : State) (g : Group) (x : Desc) (c : Coll) (hs : s.Good Q P) : (State.ownResult s g x c).1.Good Q P := by
  unfold State.ownResult
  dsimp only
  repeat' first
    | (with_reducible first | assumption | intro _ | apply State.Good.ite | apply State.Good.foldl | apply State.Good.foldlPair | apply good_putResult | apply good_collRaise)

/-- `State.releaseStage` keeps the frame. -/
theorem good_releaseStage (s : State) (g : Group) (c : Coll) (hs : s.Good Q P) : (State.releaseStage s g c).Good Q P := by
  unfold State.releaseStage
  dsimp only
  repeat' first
    | (with_reducible first | assumption | intro _ | apply State.Good.ite | apply State.Good.foldl | apply good_putLine)

/-- `State.nextStage` keeps the frame. -/
theorem good_nextStage (s : State) (g : Group) (x : Desc) (c : Coll) (hs : s.Good Q P) : (State.nextStage s g x c).1.Good Q P := by
  unfold State.nextStage
  dsimp only
  repeat' first
    | (with_reducible first | assumption | intro _ | apply State.Good.ite | apply State.Good.foldl | apply State.Good.foldlPair | apply good_ownResult)
    | split

/-- `State.useRound` keeps the frame. -/
theorem good_useRound (s : State) (g : Group) (x : Desc) (c : Coll) (hs : s.Good Q P) : (State.useRound s g x c).1.Good Q P := by
  unfold State.useRound
  dsimp only
  repeat' first
    | (with_reducible first | assumption | intro _ | apply State.Good.ite | apply State.Good.foldl | apply State.Good.foldlPair | apply State.Good.store | apply Store.Ok.ite | apply Store.Ok.foldl | apply Store.Ok.foldlPair | apply good_withStore | apply ok_write | apply good_putResult | apply good_collRaise)
    | split

/-- `State.advance` keeps the frame. -/
theorem good_advance (s : State) (n : Nat) (x : Desc) (c : Coll) (hs : s.Good Q P) : (State.advance s n x c).Good Q P := by
  unfold State.advance
  dsimp only
  repeat' first
    | (with_reducible first | assumption | intro _ | apply State.Good.ite | apply State.Good.foldl | apply State.Good.foldlPair | apply good_setGroup | apply good_raiseDesc | apply good_releaseStage | apply good_nextStage | apply good_useRound)
    | split

/-- `State.startAlone` keeps the frame. -/
theorem good_startAlone (s : State) (n : Nat) (d : Did) (hs : s.Good Q P) : (State.startAlone s n d).Good Q P := by
  unfold State.startAlone
  dsimp only
  repeat' first
    | (with_reducible first | assumption | intro _ | apply State.Good.ite | apply State.Good.foldl | apply State.Good.foldlPair | apply good_setGroup | apply good_raiseDesc | apply good_ownResult)
    | split

/-- `State.collReduceCmd` keeps the frame. -/
theorem good_collReduceCmd (s : State) (d : Did) (hs : s.Good Q P) : (State.collReduceCmd s d).Good Q P := by
  unfold State.collReduceCmd
  repeat' first
    | (with_reducible first | assumption | intro _ | apply State.Good.ite | apply State.Good.foldl | apply good_collStart | apply good_startAlone)
    | split

/-- `State.collCreateCmd` keeps the frame. -/
theorem good_collCreateCmd (s : State) (d : Did) (hs : s.Good Q P) : (State.collCreateCmd s d).Good Q P := by
  unfold State.collCreateCmd
  repeat' first
    | (with_reducible first | assumption | intro _ | apply State.Good.ite | apply State.Good.foldl | apply good_collCreate)
    | split

/-- `State.collDestroyCmd` keeps the frame. -/
theorem good_collDestroyCmd (s : State) (d : Did) (hs : s.Good Q P) : (State.collDestroyCmd s d).Good Q P := by
  unfold State.collDestroyCmd
  repeat' first
    | (with_reducible first | assumption | intro _ | apply State.Good.ite | apply State.Good.foldl | apply good_collDestroy)
    | split

/-- `State.collSend` keeps the frame. -/
theorem good_collSend (s : State) (n : Nat) (hs : s.Good Q P) : (State.collSend s n).Good Q P := by
  unfold State.collSend
  dsimp only
  repeat' first
    | (with_reducible first | assumption | intro _ | apply State.Good.ite | apply State.Good.foldl | apply good_takeUnits | apply good_collGuard | apply good_sendChunk | apply good_advance)
    | split

/-- `execCollRound` keeps the frame. -/
theorem good_execCollRound {t : State} (group : Nat) (s : State) (hs : s.Good Q P) (e : execCollRound group s = .next t) : t.Good Q P := by
  obtain rfl := Host.Outcome.next.inj e
  repeat' first
    | (with_reducible first | assumption | intro _ | apply State.Good.ite | apply State.Good.foldl | apply good_collSend)

/-- `State.askAgain` keeps the frame. -/
theorem good_askAgain (s : State) (g : Group) (c : Coll) (i : Nat) (hs : s.Good Q P) : (State.askAgain s g c i).Good Q P := by
  unfold State.askAgain
  dsimp only
  repeat' first
    | (with_reducible first | assumption | intro _ | apply State.Good.ite | apply State.Good.foldl | apply good_putLine)

/-- `State.collPoll` keeps the frame. -/
theorem good_collPoll (s : State) (n i : Nat) (hs : s.Good Q P) : (State.collPoll s n i).Good Q P := by
  unfold State.collPoll
  dsimp only
  repeat' first
    | (with_reducible first | assumption | intro _ | apply State.Good.ite | apply State.Good.foldl | apply good_setGroup | apply good_logEvent | apply good_noteRepeat | apply good_takeUnits | apply good_collGuard | apply good_advance | apply good_askAgain)
    | split

/-- `execCollPollReturn` keeps the frame. -/
theorem good_execCollPollReturn {t : State} (group peer : Nat) (s : State) (hs : s.Good Q P) (e : execCollPollReturn group peer s = .next t) : t.Good Q P := by
  obtain rfl := Host.Outcome.next.inj e
  repeat' first
    | (with_reducible first | assumption | intro _ | apply State.Good.ite | apply State.Good.foldl | apply good_collPoll)

/-- `State.resendChunk` keeps the frame. -/
theorem good_resendChunk (s : State) (n i : Nat) (x : Desc) (c : Coll) (d seen : Nat) (hs : s.Good Q P) : (State.resendChunk s n i x c d seen).Good Q P := by
  unfold State.resendChunk
  dsimp only
  repeat' first
    | (with_reducible first | assumption | intro _ | apply State.Good.ite | apply State.Good.foldl | apply good_setGroup | apply good_takeUnits | apply good_collGuard | apply good_sendChunk)

/-- `State.collResend` keeps the frame. -/
theorem good_collResend (s : State) (n i : Nat) (hs : s.Good Q P) : (State.collResend s n i).Good Q P := by
  unfold State.collResend
  dsimp only
  repeat' first
    | (with_reducible first | assumption | intro _ | apply State.Good.ite | apply State.Good.foldl | apply good_resendChunk)
    | split

/-- `execCollRetransmit` keeps the frame. -/
theorem good_execCollRetransmit {t : State} (group peer : Nat) (s : State) (hs : s.Good Q P) (e : execCollRetransmit group peer s = .next t) : t.Good Q P := by
  obtain rfl := Host.Outcome.next.inj e
  repeat' first
    | (with_reducible first | assumption | intro _ | apply State.Good.ite | apply State.Good.foldl | apply good_collResend)

/-- `State.setPairCore` keeps the frame. -/
theorem good_setPairCore (s : State) (ctx c : Nat) (v : Core) (hs : s.Good Q P) : (State.setPairCore s ctx c v).Good Q P := by
  unfold State.setPairCore
  dsimp only
  repeat' first
    | (with_reducible first | assumption | intro _ | apply State.Good.ite | apply State.Good.foldl | apply good_setKernel | apply good_setCore)

/-- `State.postPair` keeps the frame. -/
theorem good_postPair (s : State) (ctx c pair : Nat) (hs : s.Good Q P) : (State.postPair s ctx c pair).Good Q P := by
  unfold State.postPair
  repeat' first
    | (with_reducible first | assumption | intro _ | apply State.Good.ite | apply State.Good.foldl | apply good_tearDown | apply good_setPairCore)
    | split

/-- `State.collLocal` keeps the frame. -/
theorem good_collLocal (s : State) (n : Nat) (hs : s.Good Q P) : (State.collLocal s n).Good Q P := by
  unfold State.collLocal
  dsimp only
  repeat' first
    | (with_reducible first | assumption | intro _ | apply State.Good.ite | apply State.Good.foldl | apply good_setGroup | apply good_putStatus | apply good_collGuard | apply good_postPair)
    | split

/-- `execCollLocalComplete` keeps the frame. -/
theorem good_execCollLocalComplete {t : State} (group : Nat) (s : State) (hs : s.Good Q P) (e : execCollLocalComplete group s = .next t) : t.Good Q P := by
  obtain rfl := Host.Outcome.next.inj e
  repeat' first
    | (with_reducible first | assumption | intro _ | apply State.Good.ite | apply State.Good.foldl | apply good_collLocal)

/-- `State.putVote` keeps the frame. -/
theorem good_putVote (s : State) (g : Group) (c : Coll) (st i v : Nat) (x : Vote) (hs : s.Good Q P) : (State.putVote s g c st i v x).Good Q P := by
  unfold State.putVote
  repeat' first
    | (with_reducible first | assumption | intro _ | apply State.Good.ite | apply State.Good.foldl | apply good_putLine)

/-- `State.collCast` keeps the frame. -/
theorem good_collCast (s : State) (n : Nat) (hs : s.Good Q P) : (State.collCast s n).Good Q P := by
  unfold State.collCast
  dsimp only
  repeat' first
    | (with_reducible first | assumption | intro _ | apply State.Good.ite | apply State.Good.foldl | apply good_setGroup | apply good_putVote)
    | split

/-- `execCollVote` keeps the frame. -/
theorem good_execCollVote {t : State} (group : Nat) (s : State) (hs : s.Good Q P) (e : execCollVote group s = .next t) : t.Good Q P := by
  obtain rfl := Host.Outcome.next.inj e
  repeat' first
    | (with_reducible first | assumption | intro _ | apply State.Good.ite | apply State.Good.foldl | apply good_collCast)

/-- `State.passDown` keeps the frame. -/
theorem good_passDown (s : State) (g : Group) (c : Coll) (v : Vote) (hs : s.Good Q P) : (State.passDown s g c v).Good Q P := by
  unfold State.passDown
  dsimp only
  repeat' first
    | (with_reducible first | assumption | intro _ | apply State.Good.ite | apply State.Good.foldl | apply good_putVote)

/-- `State.markPair` keeps the frame. -/
theorem good_markPair (s : State) (x : Desc) (hs : s.Good Q P) : (State.markPair s x).Good Q P := by
  unfold State.markPair
  dsimp only
  repeat' first
    | (with_reducible first | assumption | intro _ | apply State.Good.ite | apply State.Good.foldl | apply good_endKernelOn | apply good_setPairCore)
    | split

/-- `State.collEnd` keeps the frame. -/
theorem good_collEnd (s : State) (n : Nat) (c : Coll) (x : Desc) (status : Nat) (flags : FlagSet) (hs : s.Good Q P) : (State.collEnd s n c x status flags).Good Q P := by
  unfold State.collEnd
  dsimp only
  repeat' first
    | (with_reducible first | assumption | intro _ | apply State.Good.ite | apply State.Good.foldl | apply good_setGroup | apply good_removeDesc | apply good_retire)

/-- `State.collVerdict` keeps the frame. -/
theorem good_collVerdict (s : State) (n : Nat) (hs : s.Good Q P) : (State.collVerdict s n).Good Q P := by
  unfold State.collVerdict
  dsimp only
  repeat' first
    | (with_reducible first | assumption | intro _ | apply State.Good.ite | apply State.Good.foldl | apply good_setGroup | apply good_putStatus | apply good_passDown | apply good_markPair | apply good_collEnd)
    | split

/-- `execCollVerdict` keeps the frame. -/
theorem good_execCollVerdict {t : State} (group : Nat) (s : State) (hs : s.Good Q P) (e : execCollVerdict group s = .next t) : t.Good Q P := by
  obtain rfl := Host.Outcome.next.inj e
  repeat' first
    | (with_reducible first | assumption | intro _ | apply State.Good.ite | apply State.Good.foldl | apply good_collVerdict)

/-- `State.collLost` keeps the frame. -/
theorem good_collLost (s : State) (p : PollLost) (hs : s.Good Q P) : (State.collLost s p).Good Q P := by
  unfold State.collLost
  dsimp only
  repeat' first
    | (with_reducible first | assumption | intro _ | apply State.Good.ite | apply State.Good.foldl | apply good_setGroup | apply good_putStatus | apply good_collBreak | apply good_collEnd)
    | split

/-- `execCollTimeout` keeps the frame. -/
theorem good_execCollTimeout {t : State} (p : PollLost) (s : State) (hs : s.Good Q P) (e : execCollTimeout p s = .next t) : t.Good Q P := by
  obtain rfl := Host.Outcome.next.inj e
  repeat' first
    | (with_reducible first | assumption | intro _ | apply State.Good.ite | apply State.Good.foldl | apply good_collLost)

end Sys2Proof.Machine
end

