-- ==== Sys2Proof/Laws/KeepCrc.lean ====
section
/-!
SUPPORT. The operations of Machine/Crc.lean keep the frame of `State.Good`.
-/

namespace Sys2Proof.Machine

variable {Q : List Instr} {P : Part}

/-- `State.scanEnd` keeps the frame. -/
theorem good_scanEnd (s : State) (x : Desc) (c : CrcDesc) (p : CrcParams) (u : Scan) (hs : s.Good Q P) : (State.scanEnd s x c p u).Good Q P := by
  unfold State.scanEnd
  dsimp only
  repeat' first
    | (with_reducible first | assumption | intro _ | apply State.Good.ite | apply State.Good.foldl | apply State.Good.store | apply Store.Ok.ite | apply Store.Ok.foldl | apply Store.Ok.foldlPair | apply Work.Ok.ite | apply Work.Ok.bad | apply Work.Ok.halt | apply Work.Ok.mismatch | apply Work.Ok.lost | apply Work.Ok.done | apply good_draw | apply good_withStore | apply ok_storeRun | apply good_retire | apply ok_workOfAcc | apply good_concludeOwn | apply State.Good.self)
    | split

/-- `State.scanOn` keeps the frame. -/
theorem good_scanOn (s : State) (x : Desc) (granules : Nat) (u : Scan) (hs : s.Good Q P) : (State.scanOn s x granules u).Good Q P := by
  unfold State.scanOn
  dsimp only
  repeat' first
    | (with_reducible first | assumption | intro _ | apply State.Good.ite | apply State.Good.foldl | apply State.Good.store | apply Store.Ok.ite | apply Store.Ok.foldl | apply Store.Ok.foldlPair | apply Work.Ok.ite | apply Work.Ok.bad | apply Work.Ok.halt | apply Work.Ok.mismatch | apply Work.Ok.lost | apply Work.Ok.done | apply good_setDesc | apply ok_workOfAcc | apply good_takeUnits | apply good_concludeOwn | apply good_scanEnd | apply State.Good.self)
    | split

/-- `State.scanStart` keeps the frame. -/
theorem good_scanStart (s : State) (x : Desc) (granules : Nat) (hs : s.Good Q P) : (State.scanStart s x granules).Good Q P := by
  unfold State.scanStart
  dsimp only
  repeat' first
    | (with_reducible first | assumption | intro _ | apply State.Good.ite | apply State.Good.foldl | apply State.Good.store | apply Store.Ok.ite | apply Store.Ok.foldl | apply Store.Ok.foldlPair | apply Work.Ok.ite | apply Work.Ok.bad | apply Work.Ok.halt | apply Work.Ok.mismatch | apply Work.Ok.lost | apply Work.Ok.done | apply good_retire | apply ok_workOfAcc | apply good_concludeOwn | apply good_scanOn | apply State.Good.self)
    | split

/-- `State.scanOnCvu` keeps the frame. -/
theorem good_scanOnCvu (s : State) (x : Desc) (act : Nat → State → State) (hs : s.Good Q P) (h : ∀ n s, s.Good Q P → (act n s).Good Q P) :
    (s.scanOnCvu x act).Good Q P := by
  unfold State.scanOnCvu
  split
  · exact h _ _ hs
  · exact hs

/-- `State.unitChecked` keeps the frame. -/
theorem good_unitChecked (s : State) (x : Desc) (n : Nat) (parity : UnitCheck) (act : State → Desc → State) (hs : s.Good Q P) (h_act : ∀ s (a0 : Desc), s.Good Q P → (act s a0).Good Q P) : (State.unitChecked s x n parity act).Good Q P := by
  unfold State.unitChecked
  dsimp only
  repeat' first
    | (with_reducible first | assumption | intro _ | apply State.Good.ite | apply State.Good.foldl | apply h_act | apply good_logEvent | apply good_noteRepeat | apply good_noteStatus | apply good_descFault)
    | split

/-- `State.unitRun` keeps the frame. -/
theorem good_unitRun (s : State) (x : Desc) (n : Nat) (run : UnitRun) (act : State → Desc → State) (hs : s.Good Q P)
    (h_act : ∀ s (a : Desc), s.Good Q P → (act s a).Good Q P) : (s.unitRun x n run act).Good Q P := by
  unfold State.unitRun
  refine good_unitChecked _ _ _ _ _ hs (fun s x hs => ?_)
  have h := good_readsMet s x run.reads hs
  split
  · rename_i e
    rw [e] at h
    exact h_act _ _ h
  · rename_i e
    rw [e] at h
    exact h

/-- `execCrcScan` keeps the frame. -/
theorem good_execCrcScan {t : State} (d : Did) (run : UnitRun) (s : State) (hs : s.Good Q P) (e : execCrcScan d run s = .next t) : t.Good Q P := by
  obtain rfl := Host.Outcome.next.inj e
  repeat' first
    | (with_reducible first | assumption | intro _ | apply State.Good.ite | apply State.Good.foldl | apply good_run | apply good_scanStart | apply good_scanOnCvu | apply good_unitRun)
    | split

/-- `execCrcScanResume` keeps the frame. -/
theorem good_execCrcScanResume {t : State} (d : Did) (run : UnitRun) (s : State) (hs : s.Good Q P) (e : execCrcScanResume d run s = .next t) : t.Good Q P := by
  obtain rfl := Host.Outcome.next.inj e
  repeat' first
    | (with_reducible first | assumption | intro _ | apply State.Good.ite | apply State.Good.foldl | apply good_run | apply good_scanOn | apply good_scanOnCvu | apply good_unitRun)
    | split

end Sys2Proof.Machine
end

