-- ==== Sys2Proof/Laws/KeepRanges.lean ====
section
/-!
SUPPORT. The operations of Machine/Ranges.lean keep the frame of `State.Good`.
-/

namespace Sys2Proof.Machine

variable {Q : List Instr} {P : Part}

/-- `State.putMirror` keeps the frame. -/
theorem good_putMirror (s : State) (h : Nat) (hs : s.Good Q P) : (State.putMirror s h).Good Q P := by
  unfold State.putMirror
  repeat' first
    | (with_reducible first | assumption | intro _ | apply State.Good.ite | apply State.Good.foldl | apply good_memPut)

/-- `State.syncEntry` keeps the frame. -/
theorem good_syncEntry {s t : State} {h : Nat} {b : Bool} (e : s.syncEntry h = some (t, b)) (hs : s.Good Q P) : t.Good Q P := by
  unfold State.syncEntry at e
  dsimp only at e
  repeat' split at e
  all_goals first
    | cases e; done
    | cases e; exact hs
    | cases e; exact good_setRange _ _ _ hs

/-- `syncOne` keeps the frame. -/
theorem good_syncOne (part : Nat) (acc : State × List Nat × Bool) (h : Nat) (hs : acc.1.Good Q P) : (syncOne part acc h).1.Good Q P := by
  unfold syncOne
  dsimp only
  split
  · split
    · exact hs
    · rename_i e
      exact good_syncEntry e hs
    · rename_i e
      exact good_syncEntry e hs
  · exact hs

/-- `State.syncMany` keeps the frame. -/
theorem good_syncMany (s : State) (x : Desc) (still hs : List Nat) (hgood : s.Good Q P) : (State.syncMany s x still hs).Good Q P := by
  unfold State.syncMany
  dsimp only
  repeat' first
    | (with_reducible first | assumption | intro _ | apply State.Good.ite | apply State.Good.foldl | apply State.Good.foldlPair | apply good_setDesc | apply good_retire | apply good_syncOne)

/-- `State.syncUpdate` keeps the frame. -/
theorem good_syncUpdate (s : State) (x : Desc) (hs : s.Good Q P) : (State.syncUpdate s x).Good Q P := by
  unfold State.syncUpdate
  dsimp only
  repeat' first
    | (with_reducible first | assumption | intro _ | apply State.Good.ite | apply State.Good.foldl | apply good_retire | apply good_syncMany)

/-- `execRangeSyncUpdate` keeps the frame. -/
theorem good_execRangeSyncUpdate {t : State} (d : Did) (s : State) (hs : s.Good Q P) (e : execRangeSyncUpdate d s = .next t) : t.Good Q P := by
  obtain rfl := Host.Outcome.next.inj e
  repeat' first
    | (with_reducible first | assumption | intro _ | apply State.Good.ite | apply State.Good.foldl | apply good_syncUpdate)
    | split

/-- `State.syncNew` keeps the frame. -/
theorem good_syncNew (s : State) (part : Nat) (l : List RangeEnt) (hs : s.Good Q P) : (s.syncNew part l).1.Good Q P := by
  induction l generalizing s with
  | nil => exact hs
  | cons m l ih =>
    unfold State.syncNew
    split
    · exact hs
    · exact ih _ (good_putMirror _ _ (good_setRange _ _ _ hs))

/-- `State.syncInstall` keeps the frame. -/
theorem good_syncInstall (s : State) (x : Desc) (hs : s.Good Q P) : (State.syncInstall s x).Good Q P := by
  unfold State.syncInstall
  dsimp only
  repeat' first
    | (with_reducible first | assumption | intro _ | apply State.Good.ite | apply State.Good.foldl | apply State.Good.foldlPair | apply State.Good.store | apply Store.Ok.ite | apply Store.Ok.foldl | apply Store.Ok.foldlPair | apply Work.Ok.ite | apply Work.Ok.bad | apply Work.Ok.halt | apply Work.Ok.mismatch | apply Work.Ok.lost | apply Work.Ok.done | apply good_withStore | apply ok_storeRun | apply good_retire | apply ok_workOfAcc | apply good_concludeOwn | apply good_syncNew | apply State.Good.self)
    | split

/-- `execRangeSyncNew` keeps the frame. -/
theorem good_execRangeSyncNew {t : State} (d : Did) (s : State) (hs : s.Good Q P) (e : execRangeSyncNew d s = .next t) : t.Good Q P := by
  obtain rfl := Host.Outcome.next.inj e
  repeat' first
    | (with_reducible first | assumption | intro _ | apply State.Good.ite | apply State.Good.foldl | apply good_syncInstall)
    | split

/-- `State.endStream` keeps the frame. -/
theorem good_endStream (s : State) (f : PFault) (status : Nat) (hs : s.Good Q P) : (State.endStream s f status).Good Q P := by
  unfold State.endStream
  repeat' first
    | (with_reducible first | assumption | intro _ | apply State.Good.ite | apply State.Good.foldl | apply good_retire | apply good_stopKernel | apply good_cutLoop | apply good_noteLoop)
    | split

/-- `State.retireBegin` keeps the frame. -/
theorem good_retireBegin (s : State) (x : Desc) (hs : s.Good Q P) : (State.retireBegin s x).Good Q P := by
  unfold State.retireBegin
  dsimp only
  repeat' first
    | (with_reducible first | assumption | intro _ | apply State.Good.ite | apply State.Good.foldl | apply good_setRange | apply good_setDesc | apply good_endStream)

/-- `State.markStale` keeps the frame. -/
theorem good_markStale (s : State) (h : Nat) (hs : s.Good Q P) : (State.markStale s h).Good Q P := by
  unfold State.markStale
  repeat' first
    | (with_reducible first | assumption | intro _ | apply State.Good.ite | apply State.Good.foldl)
    | split
    | (unfold State.Good State.MemOk; dsimp only; with_reducible apply State.Good.of_and; with_reducible first | assumption | apply State.Good.ite | apply State.Good.foldl)

/-- `execRangeRetire` keeps the frame. -/
theorem good_execRangeRetire {t : State} (d : Did) (s : State) (hs : s.Good Q P) (e : execRangeRetire d s = .next t) : t.Good Q P := by
  obtain rfl := Host.Outcome.next.inj e
  repeat' first
    | (with_reducible first | assumption | intro _ | apply State.Good.ite | apply State.Good.foldl | apply good_retire | apply good_retireBegin)
    | split

/-- `State.moveRange` keeps the frame. -/
theorem good_moveRange (s : State) (x : Desc) (hs : s.Good Q P) : (State.moveRange s x).Good Q P := by
  unfold State.moveRange
  dsimp only
  repeat' first
    | (with_reducible first | assumption | intro _ | apply State.Good.ite | apply State.Good.foldl | apply State.Good.store | apply Store.Ok.ite | apply Store.Ok.foldl | apply Store.Ok.foldlPair | apply good_setRange | apply good_withStore | apply ok_write | apply good_putMirror)

/-- `State.drainPhase` keeps the frame. -/
theorem good_drainPhase (s : State) (x : Desc) (hs : s.Good Q P) : (State.drainPhase s x).Good Q P := by
  unfold State.drainPhase
  dsimp only
  repeat' first
    | (with_reducible first | assumption | intro _ | apply State.Good.ite | apply State.Good.foldl | apply good_setRange | apply good_retire | apply good_unretire | apply good_rowLost | apply good_markStale | apply good_moveRange)
    | split

/-- `execRetireDrainPhase` keeps the frame. -/
theorem good_execRetireDrainPhase {t : State} (d : Did) (s : State) (hs : s.Good Q P) (e : execRetireDrainPhase d s = .next t) : t.Good Q P := by
  obtain rfl := Host.Outcome.next.inj e
  repeat' first
    | (with_reducible first | assumption | intro _ | apply State.Good.ite | apply State.Good.foldl | apply good_drainPhase)
    | split

/-- `State.adviseMove` keeps the frame. -/
theorem good_adviseMove (s : State) (d : Did) (op : Nat) (hs : s.Good Q P) : (State.adviseMove s d op).Good Q P := by
  unfold State.adviseMove
  dsimp only
  repeat' first
    | (with_reducible first | assumption | intro _ | apply State.Good.ite | apply State.Good.foldl | apply good_retire | apply good_retireBegin | apply good_drainPhase)
    | split

/-- `execAdviseReside` keeps the frame. -/
theorem good_execAdviseReside {t : State} (d : Did) (s : State) (hs : s.Good Q P) (e : execAdviseReside d s = .next t) : t.Good Q P := by
  obtain rfl := Host.Outcome.next.inj e
  repeat' first
    | (with_reducible first | assumption | intro _ | apply State.Good.ite | apply State.Good.foldl | apply good_adviseMove)

/-- `execAdviseDemote` keeps the frame. -/
theorem good_execAdviseDemote {t : State} (d : Did) (s : State) (hs : s.Good Q P) (e : execAdviseDemote d s = .next t) : t.Good Q P := by
  obtain rfl := Host.Outcome.next.inj e
  repeat' first
    | (with_reducible first | assumption | intro _ | apply State.Good.ite | apply State.Good.foldl | apply good_adviseMove)

/-- `execAdvisePrefetch` keeps the frame. -/
theorem good_execAdvisePrefetch {t : State} (d : Did) (s : State) (hs : s.Good Q P) (e : execAdvisePrefetch d s = .next t) : t.Good Q P := by
  obtain rfl := Host.Outcome.next.inj e
  repeat' first
    | (with_reducible first | assumption | intro _ | apply State.Good.ite | apply State.Good.foldl | apply good_setDesc | apply good_retire | apply good_rowLost | apply good_moveRange)
    | split

/-- `execPrefetchOldGenDrained` keeps the frame. -/
theorem good_execPrefetchOldGenDrained {t : State} (d : Did) (s : State) (hs : s.Good Q P) (e : execPrefetchOldGenDrained d s = .next t) : t.Good Q P := by
  obtain rfl := Host.Outcome.next.inj e
  repeat' first
    | (with_reducible first | assumption | intro _ | apply State.Good.ite | apply State.Good.foldl | apply good_retire)
    | split

/-- `State.quarantineRange` keeps the frame. -/
theorem good_quarantineRange (s : State) (h reason : Nat) (hs : s.Good Q P) : (State.quarantineRange s h reason).Good Q P := by
  unfold State.quarantineRange
  dsimp only
  repeat' first
    | (with_reducible first | assumption | intro _ | apply State.Good.ite | apply State.Good.foldl | apply good_setRange | apply good_logEvent)
    | split
    | (unfold State.Good State.MemOk; dsimp only; with_reducible apply State.Good.of_and; with_reducible first | assumption | apply State.Good.ite | apply State.Good.foldl | apply good_setRange | apply good_logEvent)

/-- `State.sweepOne` keeps the frame. -/
theorem good_sweepOne (s : State) (h : Nat) (hs : s.Good Q P) : (State.sweepOne s h).Good Q P := by
  unfold State.sweepOne
  dsimp only
  repeat' first
    | (with_reducible first | assumption | intro _ | apply State.Good.ite | apply State.Good.foldl | apply good_quarantineRange)
    | split
    | (unfold State.Good State.MemOk; dsimp only; with_reducible apply State.Good.of_and; with_reducible first | assumption | apply State.Good.ite | apply State.Good.foldl | apply good_quarantineRange)

/-- `State.reloadEntry` keeps the frame. -/
theorem good_reloadEntry (s : State) (h : Nat) (hs : s.Good Q P) : (State.reloadEntry s h).Good Q P := by
  unfold State.reloadEntry
  dsimp only
  repeat' first
    | (with_reducible first | assumption | intro _ | apply State.Good.ite | apply State.Good.foldl | apply good_setRange | apply good_logEvent | apply good_noteRepeat | apply good_quarantineRange)

/-- `execMirrorSweep` keeps the frame. -/
theorem good_execMirrorSweep {t : State} (r : SweepRead) (s : State) (hs : s.Good Q P) (e : execMirrorSweep r s = .next t) : t.Good Q P := by
  obtain rfl := Host.Outcome.next.inj e
  repeat' first
    | (with_reducible first | assumption | intro _ | apply State.Good.ite | apply State.Good.foldl | apply good_sweepOne | apply good_reloadEntry)

end Sys2Proof.Machine
end

