-- ==== Sys2Proof/Laws/KeepTables.lean ====
section
/-!
SUPPORT. The operations of Machine/Tables.lean keep the frame of `State.Good`.
-/

namespace Sys2Proof.Machine

variable {Q : List Instr} {P : Part}

/-- `State.setUprog` keeps the frame. -/
theorem good_setUprog (s : State) (c slot : Nat) (u : UProg) (hs : s.Good Q P) : (State.setUprog s c slot u).Good Q P := by
  unfold State.setUprog
  dsimp only
  repeat' first
    | (with_reducible first | assumption | intro _ | apply State.Good.ite | apply State.Good.foldl | apply good_setCore)

/-- `State.loadSlot` keeps the frame. -/
theorem good_loadSlot (s : State) (slot : Nat) (img : List Byte) (c : Nat) (hs : s.Good Q P) : (State.loadSlot s slot img c).Good Q P := by
  unfold State.loadSlot
  dsimp only
  repeat' first
    | (with_reducible first | assumption | intro _ | apply State.Good.ite | apply State.Good.foldl | apply good_setUprog)

/-- `State.tableLoad` keeps the frame. -/
theorem good_tableLoad (s : State) (x : Desc) (hs : s.Good Q P) : (State.tableLoad s x).Good Q P := by
  unfold State.tableLoad
  dsimp only
  repeat' first
    | (with_reducible first | assumption | intro _ | apply State.Good.ite | apply State.Good.foldl | apply State.Good.store | apply Store.Ok.ite | apply Store.Ok.foldl | apply Store.Ok.foldlPair | apply Work.Ok.ite | apply Work.Ok.bad | apply Work.Ok.halt | apply Work.Ok.mismatch | apply Work.Ok.lost | apply Work.Ok.done | apply good_retire | apply ok_workOfAcc | apply good_concludeOwn | apply good_loadSlot | apply State.Good.self)
    | split

/-- `execTableLoad` keeps the frame. -/
theorem good_execTableLoad {t : State} (d : Did) (s : State) (hs : s.Good Q P) (e : execTableLoad d s = .next t) : t.Good Q P := by
  obtain rfl := Host.Outcome.next.inj e
  repeat' first
    | (with_reducible first | assumption | intro _ | apply State.Good.ite | apply State.Good.foldl | apply good_tableLoad)
    | split

/-- `execTableSwap` keeps the frame. -/
theorem good_execTableSwap {t : State} (d : Did) (s : State) (hs : s.Good Q P) (e : execTableSwap d s = .next t) : t.Good Q P := by
  obtain rfl := Host.Outcome.next.inj e
  dsimp only
  repeat' first
    | (with_reducible first | assumption | intro _ | apply State.Good.ite | apply State.Good.foldl | apply good_setDesc | apply good_retire)
    | split

/-- `State.flipSlot` keeps the frame. -/
theorem good_flipSlot (s : State) (c slot : Nat) (hs : s.Good Q P) : (State.flipSlot s c slot).Good Q P := by
  unfold State.flipSlot
  dsimp only
  repeat' first
    | (with_reducible first | assumption | intro _ | apply State.Good.ite | apply State.Good.foldl | apply good_setUprog)

/-- `execSeedTableReload` keeps the frame. -/
theorem good_execSeedTableReload {t : State} (core fn : Nat) (s : State) (hs : s.Good Q P) (e : execSeedTableReload core fn s = .next t) : t.Good Q P := by
  obtain rfl := Host.Outcome.next.inj e
  dsimp only
  repeat' first
    | (with_reducible first | assumption | intro _ | apply State.Good.ite | apply State.Good.foldl | apply good_setCore)

end Sys2Proof.Machine
end

