-- ==== Sys2Proof/Laws/KeepFetch.lean ====
section
/-!
SUPPORT. The operations of Machine/Fetch.lean keep the frame of `State.Good`.
-/

namespace Sys2Proof.Machine

variable {Q : List Instr} {P : Part}

/-- `State.openDesc` keeps the frame. -/
theorem good_openDesc (s : State) (x : Desc) (hs : s.Good Q P) : (State.openDesc s x).Good Q P := by
  unfold State.openDesc
  dsimp only
  repeat' first
    | (with_reducible first | assumption | intro _ | apply State.Good.ite | apply State.Good.foldl | apply good_setDesc | apply good_dirtySeqs | apply good_cacheSeqs | apply good_markClash)

end Sys2Proof.Machine
end

