-- ==== Sys2Proof/Laws/KeepFaults.lean ====
section
/-!
SUPPORT. The operations of Machine/Faults.lean keep the frame of `State.Good`.
-/

namespace Sys2Proof.Machine

variable {Q : List Instr} {P : Part}

/-- `State.resumeStream` keeps the frame. -/
theorem good_resumeStream (s : State) (f : PFault) (hs : s.Good Q P) : (State.resumeStream s f).Good Q P := by
  unfold State.resumeStream
  dsimp only
  repeat' first
    | (with_reducible first | assumption | intro _ | apply State.Good.ite | apply State.Good.foldl | apply good_retire | apply good_stopKernel | apply good_openDesc)
    | split
    | (unfold State.Good State.MemOk; dsimp only; with_reducible apply State.Good.of_and; with_reducible first | assumption | apply State.Good.ite | apply State.Good.foldl | apply good_retire | apply good_stopKernel | apply good_openDesc)

/-- `State.noteFailed` keeps the frame. -/
theorem good_noteFailed (s : State) (f : PFault) (hs : s.Good Q P) : (State.noteFailed s f).Good Q P := by
  unfold State.noteFailed
  repeat' first
    | (with_reducible first | assumption | intro _ | apply State.Good.ite | apply State.Good.foldl | apply good_noteStatus | apply good_noteLoop)
    | split

/-- `State.failStream` keeps the frame. -/
theorem good_failStream (s : State) (f : PFault) (hs : s.Good Q P) : (State.failStream s f).Good Q P := by
  unfold State.failStream
  repeat' first
    | (with_reducible first | assumption | intro _ | apply State.Good.ite | apply State.Good.foldl | apply good_tearDown | apply good_noteFailed)
    | split
    | (unfold State.Good State.MemOk; dsimp only; with_reducible apply State.Good.of_and; with_reducible first | assumption | apply State.Good.ite | apply State.Good.foldl | apply good_tearDown | apply good_noteFailed)

/-- `State.reply` keeps the frame. -/
theorem good_reply (s : State) (d : Did) (fail : Bool) (act : State → PFault → State) (hs : s.Good Q P) (h_act : ∀ s (a0 : PFault), s.Good Q P → (act s a0).Good Q P) : (State.reply s d fail act).Good Q P := by
  unfold State.reply
  dsimp only
  repeat' first
    | (with_reducible first | assumption | intro _ | apply State.Good.ite | apply State.Good.foldl | apply h_act | apply good_retire | apply good_noteFailed)
    | split

/-- `execAdviseReplyResume` keeps the frame. -/
theorem good_execAdviseReplyResume {t : State} (d : Did) (s : State) (hs : s.Good Q P) (e : execAdviseReplyResume d s = .next t) : t.Good Q P := by
  obtain rfl := Host.Outcome.next.inj e
  repeat' first
    | (with_reducible first | assumption | intro _ | apply State.Good.ite | apply State.Good.foldl | apply good_resumeStream | apply good_reply)

/-- `execAdviseReplyFail` keeps the frame. -/
theorem good_execAdviseReplyFail {t : State} (d : Did) (s : State) (hs : s.Good Q P) (e : execAdviseReplyFail d s = .next t) : t.Good Q P := by
  obtain rfl := Host.Outcome.next.inj e
  repeat' first
    | (with_reducible first | assumption | intro _ | apply State.Good.ite | apply State.Good.foldl | apply good_failStream | apply good_reply)

/-- `State.sendFault` keeps the frame. -/
theorem good_sendFault (s : State) (f : PFault) (id : Nat) (hs : s.Good Q P) : (State.sendFault s f id).Good Q P := by
  unfold State.sendFault
  dsimp only
  repeat' first
    | (with_reducible first | assumption | intro _ | apply State.Good.ite | apply State.Good.foldl | apply good_pushFault)
    | split
    | (unfold State.Good State.MemOk; dsimp only; with_reducible apply State.Good.of_and; with_reducible first | assumption | apply State.Good.ite | apply State.Good.foldl | apply good_pushFault)

/-- `execRangeFaultRecord` keeps the frame. -/
theorem good_execRangeFaultRecord {t : State} (part : Nat) (s : State) (hs : s.Good Q P) (e : execRangeFaultRecord part s = .next t) : t.Good Q P := by
  unfold execRangeFaultRecord at e
  dsimp only at e
  repeat' split at e
  all_goals first
    | cases e; done
    | obtain rfl := Host.Outcome.next.inj e
  repeat' first
    | (with_reducible first | assumption | intro _ | apply State.Good.ite | apply State.Good.foldl | apply good_sendFault)

end Sys2Proof.Machine
end

