-- ==== Sys2Proof/Laws/KeepLoopRun.lean ====
section
/-!
SUPPORT. The operations of Machine/LoopRun.lean keep the frame of `State.Good`.
-/

namespace Sys2Proof.Machine

variable {Q : List Instr} {P : Part}

/-- What a loop's work gives, where it gives something. -/
def LoopM.Gives {α : Type} (p : α → Prop) (m : LoopM α) : Prop := ∀ a, m = .ok a → p a

/-- Work that stops gives nothing. -/
theorem LoopM.Gives.error {α : Type} {p : α → Prop} {e : LoopStop} : LoopM.Gives p (.error e) := nofun
/-- Work that ends gives its value. -/
theorem LoopM.Gives.ok {α : Type} {p : α → Prop} {a : α} (h : p a) : LoopM.Gives p (.ok a) := by
  intro b e; cases e; exact h
/-- Work that ends gives its value. -/
theorem LoopM.Gives.pure {α : Type} {p : α → Prop} {a : α} (h : p a) : LoopM.Gives p (Pure.pure a) := LoopM.Gives.ok h
/-- Anything gives something. -/
theorem LoopM.Gives.any {α : Type} (m : LoopM α) : m.Gives (fun _ => True) := fun _ _ => trivial
/-- Work then more work. -/
theorem LoopM.Gives.bind {α β : Type} {p : α → Prop} {q : β → Prop} {m : LoopM α} {f : α → LoopM β} (h : m.Gives p)
    (hf : ∀ a, p a → (f a).Gives q) : LoopM.Gives q (m >>= f) := by
  cases m with
  | error e => exact nofun
  | ok a => exact hf a (h a rfl)
/-- A read, then more work. -/
theorem LoopM.Gives.after {α β : Type} {q : β → Prop} {m : LoopM α} {f : α → LoopM β} (hf : ∀ a, (f a).Gives q) : LoopM.Gives q (m >>= f) :=
  (LoopM.Gives.any m).bind (fun a _ => hf a)
/-- Either branch of a choice. -/
theorem LoopM.Gives.ite {α : Type} {p : α → Prop} {c : Prop} [Decidable c] {m n : LoopM α} (hm : m.Gives p) (hn : n.Gives p) :
    LoopM.Gives p (if c then m else n) := by
  split
  · exact hm
  · exact hn
/-- Work over a list. -/
theorem LoopM.Gives.foldlM {α β : Type} {p : α → Prop} {l : List β} {f : α → β → LoopM α} {a : α} (hf : ∀ a b, p a → (f a b).Gives p) (h : p a) :
    LoopM.Gives p (l.foldlM f a) := by
  induction l generalizing a with
  | nil => exact LoopM.Gives.pure h
  | cons b l ih => exact (hf a b h).bind (fun a ha => ih ha)

/-- `State.put` keeps the frame. -/
theorem gives_put (s : State) (x : Desc) (ref off : Nat) (bs : List Byte) (hs : s.Good Q P) : (s.put x ref off bs).Gives (·.Good Q P) :=
  LoopM.Gives.after (fun _ => LoopM.Gives.pure (good_withStore _ _ hs (ok_storeRun _ _ _ _ _ hs.store)))

/-- `State.loopInputs` keeps the frame. -/
theorem gives_loopInputs (s : State) (x : Desc) (g : LoopModel) (rows : List LRow) (hs : s.Good Q P) : (s.loopInputs x g rows).Gives (·.Good Q P) :=
  (gives_put _ _ _ _ _ hs).bind (fun _ h => (gives_put _ _ _ _ _ h).bind (fun _ h => LoopM.Gives.foldlM
    (fun _ _ h => LoopM.Gives.after (fun _ => gives_put _ _ _ _ _ h)) h))

/-- `State.loopKernel` keeps the frame. -/
theorem ok_loopKernel (s : State) (x : Desc) (img blk : List Byte) (views : List View) (hs : s.store.Ok) : (State.loopKernel s x img blk views).Ok := by
  unfold State.loopKernel
  dsimp only
  repeat' first
    | (with_reducible first | assumption | intro _ | apply State.Good.ite | apply State.Good.foldl | apply State.Good.store | apply Store.Ok.ite | apply Store.Ok.foldl | apply Store.Ok.foldlPair | apply Work.Ok.ite | apply Work.Ok.bad | apply Work.Ok.halt | apply Work.Ok.mismatch | apply Work.Ok.lost | apply Work.Ok.done | apply ok_copyWork | apply ok_matWork | apply ok_mapWork | apply ok_normWork | apply ok_attnWork | apply State.Good.self)
    | split

/-- `Ran.take` keeps the frame. -/
theorem gives_take (r : Ran) (img : List Byte) (who : List Nat) (w : Work) (h : r.state.Good Q P) (hw : w.Ok) :
    (r.take img who w).Gives (·.state.Good Q P) := by
  cases w with
  | bad st _ => exact .ok h
  | halt q => exact .error
  | mismatch q => exact .error
  | lost n => exact .error
  | done st af sf m =>
    refine .ok ?_
    have hm := good_withStore _ m h hw
    split
    · exact hm
    · split
      · exact hm
      · exact hm

/-- `Ran.attnPart` keeps the frame. -/
theorem gives_attnPart (r : Ran) (x : Desc) (g : LoopModel) (e : List Byte) (vals : List Nat) (k : Nat) (part : List (Nat × Nat × Nat × Nat))
    (h : r.state.Good Q P) : (r.attnPart x g e vals k part).Gives (·.state.Good Q P) := by
  unfold Ran.attnPart
  dsimp only
  refine LoopM.Gives.ite (.pure h) ((gives_put _ _ _ _ _ h).bind (fun _ h => ?_))
  split
  · refine (gives_put _ _ _ _ _ h).bind (fun _ h => gives_take _ _ _ _ ?_ (ok_loopKernel _ _ _ _ _ h.store))
    exact h
  · refine LoopM.Gives.bind (LoopM.Gives.ok h) (fun _ h => gives_take _ _ _ _ ?_ (ok_loopKernel _ _ _ _ _ h.store))
    exact h

/-- `Ran.entry` keeps the frame. -/
theorem gives_entry (r : Ran) (x : Desc) (g : LoopModel) (rows : List LRow) (vals : List Nat) (k layer : Nat) (e : List Byte)
    (h : r.state.Good Q P) : (r.entry x g rows vals k layer e).Gives (·.1.state.Good Q P) := by
  unfold Ran.entry
  dsimp only
  split
  · exact (LoopM.Gives.foldlM (fun _ _ h => gives_attnPart _ _ _ _ _ _ _ h) h).bind (fun _ h => .pure h)
  · refine LoopM.Gives.ite ((gives_put _ _ _ _ _ h).bind (fun _ h => ?_)) (LoopM.Gives.bind (LoopM.Gives.ok h) (fun _ h => ?_))
    all_goals
      refine (gives_take _ _ _ _ ?_ (ok_loopKernel _ _ _ _ _ h.store)).bind (fun _ h => .pure h)
      exact h

/-- `State.runModel` keeps the frame. -/
theorem gives_runModel (s : State) (x : Desc) (g : LoopModel) (rows : List LRow) (nseq step k : Nat) (hs : s.Good Q P) :
    (s.runModel x g rows nseq step k).Gives (·.state.Good Q P) := by
  unfold State.runModel
  dsimp only
  split
  · exact .pure hs
  · exact (gives_loopInputs _ _ _ _ hs).bind (fun s h => (LoopM.Gives.foldlM (p := fun a : Ran × Nat => a.1.state.Good Q P)
      (fun _ _ h => gives_entry _ _ _ _ _ _ _ _ h) h).bind (fun _ h => .pure h))

end Sys2Proof.Machine
end

