-- ==== Sys2Proof/Laws/KeepLoop.lean ====
section
/-!
SUPPORT. The operations of Machine/Loop.lean keep the frame of `State.Good`.
-/

namespace Sys2Proof.Machine

variable {Q : List Instr} {P : Part}

/-- `State.install` keeps the frame. -/
theorem gives_install (s : State) (part slot : Nat) (rcd klist : List Byte) (hs : s.Good Q P) : (s.install part slot rcd klist).Gives (·.Good Q P) :=
  LoopM.Gives.ite (.ok hs) (LoopM.Gives.ite .error (.ok (good_setModel _ _ _ hs)))

/-- `State.loopStart` keeps the frame. -/
theorem gives_loopStart (s : State) (x : Desc) (hs : s.Good Q P) : (s.loopStart x).Gives (·.Good Q P) := by
  unfold State.loopStart
  dsimp only
  repeat' first
    | exact .error
    | refine LoopM.Gives.bind (p := fun s : State => s.Good Q P) (LoopM.Gives.ite .error (gives_install _ _ _ _ _ hs)) (fun s hs => ?_)
    | exact .ok hs
    | exact gives_install _ _ _ _ _ hs
    | refine (gives_install _ _ _ _ _ hs).bind (fun s hs => ?_)
    | refine LoopM.Gives.bind (p := fun s : State => s.Good Q P) (LoopM.Gives.ok hs) (fun s hs => ?_)
    | exact .pure (good_removeDesc _ _ (good_setLoop _ _ _ hs))
    | refine .after (fun _ => ?_)
    | apply LoopM.Gives.ite
    | split

/-- `execLoop` keeps the frame. -/
theorem good_execLoop {t : State} (d : Did) (s : State) (hs : s.Good Q P) (e : execLoop d s = .next t) : t.Good Q P := by
  unfold execLoop at e
  obtain rfl := Host.Outcome.next.inj e
  split
  · refine .ite (good_retire _ _ _ _ hs) ?_
    split
    · rename_i e
      exact gives_loopStart _ _ hs _ e
    · exact hs
    · exact hs
    · rename_i w _ hw _
      refine good_concludeOwn _ _ _ hs ?_
      cases w with
      | done a b c m => exact absurd rfl (hw a b c m)
      | _ => trivial
  · exact hs

/-- `State.putRing` keeps the frame. -/
theorem gives_putRing (s : State) (x : Desc) (ref off : Nat) (bs : List Byte) (fenced : Bool) (hs : s.Good Q P) :
    (s.putRing x ref off bs fenced).Gives (·.Good Q P) :=
  LoopM.Gives.after (fun _ => LoopM.Gives.pure (good_bobRun _ _ _ _ _ _ hs))

/-- `State.putTokens` keeps the frame. -/
theorem gives_putTokens (s : State) (l : LoopSt) (ts : List TokEnt) (hs : s.Good Q P) : (s.putTokens l ts).Gives (·.1.Good Q P) :=
  (LoopM.Gives.foldlM (p := fun s : State => s.Good Q P) (fun _ _ h => gives_putRing _ _ _ _ _ _ h) hs).bind (fun _ h =>
    LoopM.Gives.ite (LoopM.Gives.bind (p := fun s : State => s.Good Q P) (LoopM.Gives.ok h) (fun _ h => .pure h))
      ((gives_putRing _ _ _ _ _ _ h).bind (fun _ h => .pure h)))

/-- `State.runPair` keeps the frame. -/
theorem good_runPair (s : State) (rs : List (Req × List Nat)) (hs : s.Good Q P) : (State.runPair s rs).1.Good Q P := by
  unfold State.runPair
  dsimp only
  repeat' first
    | (with_reducible first | assumption | intro _ | apply State.Good.ite | apply State.Good.foldl | apply State.Good.foldlPair | apply good_putSeq | apply good_run)
    | split

/-- `Admitted.joinAll` keeps the frame. -/
theorem good_joinAll (a : Admitted) (l : LoopSt) (part : Nat) (js : List Joiner) (h : a.state.Good Q P) : (a.joinAll l part js).state.Good Q P := by
  unfold Admitted.joinAll
  dsimp only
  refine List.foldlRecOn (motive := fun a : Admitted => a.state.Good Q P) _ _ (good_joins _ _ _ _ _ _ _ h) (fun a h p _ => ?_)
  split
  · exact h
  · exact h

/-- `Admitted.chunk` keeps the frame. -/
theorem good_chunk (a : Admitted) (l : LoopSt) (part : Nat) (as_ : List Adm) (h : a.state.Good Q P) : (a.chunk l part as_).state.Good Q P := by
  unfold Admitted.chunk
  dsimp only
  split
  · refine List.foldlRecOn (motive := fun a : Admitted => a.state.Good Q P) _ _ h (fun a h p _ => ?_)
    split <;> exact h
  · refine good_joinAll _ _ _ _ (List.foldlRecOn (motive := fun a : Admitted => a.state.Good Q P) _ _ ?_ (fun a h p _ => ?_))
    · refine List.foldlRecOn (motive := fun a : State × Nat => a.1.Good Q P) _ _ h (fun a h p _ => ?_)
      split
      · exact good_leave _ _ _ _ h
      · exact h
    · split
      · exact good_runPair _ _ h
      · exact h

/-- `Admitted.all` keeps the frame. -/
theorem good_all (a : Admitted) (l : LoopSt) (part fuel : Nat) (as_ : List Adm) (h : a.state.Good Q P) : (a.all l part fuel as_).state.Good Q P := by
  induction fuel generalizing a as_ with
  | zero => exact h
  | succ n ih =>
    cases as_ with
    | nil => exact h
    | cons b l => exact ih _ _ (good_chunk _ _ _ _ h)

/-- `StepRun.took` keeps the frame. -/
theorem good_took (r : StepRun) (n : Ran)  (h_r : r.state.Good Q P) (h_n : n.state.Good Q P) : (StepRun.took r n).state.Good Q P := by
  unfold StepRun.took
  dsimp only
  repeat' first
    | (with_reducible first | assumption)

/-- `StepRun.draftStep` keeps the frame. -/
theorem gives_draftStep (r : StepRun) (l : LoopSt) (as_ : List Actor) (nseq i : Nat) (h : r.state.Good Q P) :
    (r.draftStep l as_ nseq i).Gives (·.state.Good Q P) := by
  refine (gives_runModel _ _ _ _ _ _ _ h).bind (fun n h => .after (fun out => .pure ?_))
  refine List.foldlRecOn (motive := fun a : StepRun => a.state.Good Q P) _ _ h (fun a h p _ => ?_)
  split <;> exact h

/-- `State.commitAt` keeps the frame. -/
theorem good_commitAt (s : State) (n k : Nat) (hs : s.Good Q P) : (State.commitAt s n k).Good Q P := by
  unfold State.commitAt
  repeat' first
    | (with_reducible first | assumption | intro _ | apply State.Good.ite | apply State.Good.foldl | apply good_commitSeq)

/-- `LoopSt.endSeq` keeps the frame. -/
theorem good_endSeq (l : LoopSt) (s : State) (q : LoopSeq) (toks : List TokEnt) (reason acc : Nat) (hs : s.Good Q P) : (LoopSt.endSeq l s q toks reason acc).state.Good Q P := by
  unfold LoopSt.endSeq
  dsimp only
  repeat' first
    | (with_reducible first | assumption)

/-- `LoopSt.finish` keeps the frame. -/
theorem good_finish (l : LoopSt) (s : State) (q : LoopSeq) (ds ts : List Nat) (hs : s.Good Q P) : (LoopSt.finish l s q ds ts).state.Good Q P := by
  unfold LoopSt.finish
  dsimp only
  repeat' first
    | (with_reducible first | assumption | intro _ | apply State.Good.ite | apply State.Good.foldl | apply gives_take | apply good_commitAt | apply good_endSeq)
    | split

/-- `LoopSt.breakOff` keeps the frame. -/
theorem good_breakOff (l : LoopSt) (s : State) (q : LoopSeq) (reason : Nat) (hs : s.Good Q P) : (LoopSt.breakOff l s q reason).state.Good Q P := by
  unfold LoopSt.breakOff
  dsimp only
  repeat' first
    | (with_reducible first | assumption | intro _ | apply State.Good.ite | apply State.Good.foldl | apply good_commitAt | apply good_endSeq)

/-- `State.leaveAll` keeps the frame. -/
theorem good_leaveAll (s : State) (ns : List Nat) (hs : s.Good Q P) : (State.leaveAll s ns).Good Q P := by
  unfold State.leaveAll
  dsimp only
  repeat' first
    | (with_reducible first | assumption | intro _ | apply State.Good.ite | apply State.Good.foldl | apply State.Good.foldlPair | apply good_leave)

/-- `State.finishLoop` keeps the frame. -/
theorem gives_finishLoop (s : State) (n : Nat) (l : LoopSt) (status : Nat) (hs : s.Good Q P) : (s.finishLoop n l status).Gives (·.Good Q P) :=
  .after (fun _ => .pure (good_endLoop _ _ _ (good_setLoop _ _ _ (good_leaveAll _ _ hs))))

/-- `State.endAllSeqs` keeps the frame. -/
theorem gives_endAllSeqs (s : State) (n : Nat) (l : LoopSt) (reason status : Nat) (hs : s.Good Q P) : (s.endAllSeqs n l reason status).Gives (·.Good Q P) :=
  (gives_putTokens _ _ _ hs).bind (fun a h => gives_finishLoop _ _ _ _ h)

/-- `State.abortLoop` keeps the frame. -/
theorem gives_abortLoop (s : State) (n : Nat) (hs : s.Good Q P) : (s.abortLoop n).Gives (·.Good Q P) :=
  .after (fun _ => LoopM.Gives.ite .error (gives_endAllSeqs _ _ _ _ _ hs))

/-- `State.boundary` keeps the frame. -/
theorem gives_boundary (s : State) (n : Nat) (l : LoopSt) (hs : s.Good Q P) : (s.boundary n l).Gives (·.Good Q P) :=
  LoopM.Gives.ite (gives_endAllSeqs _ _ _ _ _ hs) (.after (fun _ => LoopM.Gives.ite (.pure (good_setLoop _ _ _ hs))
    (LoopM.Gives.ite (gives_finishLoop _ _ _ _ hs) (.pure (good_beginWatch _ _ _ (good_setLoop _ _ _ hs))))))

/-- `State.loopAdmit` keeps the frame. -/
theorem good_loopAdmit (s : State) (l : LoopSt) (i : Intake) (hs : s.Good Q P) : (s.loopAdmit l i).adm.state.Good Q P :=
  good_all _ _ _ _ _ (good_cacheSeqs _ _ hs)

/-- `StepRun.models` keeps the frame. -/
theorem gives_models (r : StepRun) (l : LoopSt) (as_ : List Actor) (nseq : Nat) (h : r.state.Good Q P) :
    (r.models l as_ nseq).Gives (·.1.state.Good Q P) :=
  (LoopM.Gives.foldlM (fun _ _ h => gives_draftStep _ _ _ _ _ h) h).bind (fun _ h =>
    (gives_runModel _ _ _ _ _ _ _ h).bind (fun _ h => .after (fun _ => .pure h)))

/-- `StepRun.conclude` keeps the frame. -/
theorem good_outOf (r : StepRun) (l : LoopSt) (out : List (Nat × Option Nat)) (s : State) (q : LoopSeq) (h : Held) (place : Option Nat)
    (hs : s.Good Q P) : (r.conclude l out s q h place).state.Good Q P := by
  unfold StepRun.conclude
  split
  · exact good_endSeq _ _ _ _ _ _ hs
  · exact hs
  · split
    · exact good_breakOff _ _ _ _ hs
    · exact good_finish _ _ _ _ _ hs

/-- `StepRun.concludeAll` keeps the frame. -/
theorem gives_concludeAll (r : StepRun) (l : LoopSt) (out : List (Nat × Option Nat)) (seqs : List ((LoopSeq × Held) × Option Nat))
    (h : r.state.Good Q P) : (r.concludeAll l out seqs).Gives (·.1.Good Q P) := by
  unfold StepRun.concludeAll
  refine LoopM.Gives.foldlM (p := fun a : State × List SeqOut => a.1.Good Q P) (fun a p h => ?_) h
  dsimp only
  split
  · exact .error
  · exact .pure (good_outOf _ _ _ _ _ _ _ h)

/-- `State.planStep` keeps the frame. -/
theorem gives_planStep (s : State) (l : LoopSt) (fuel m : Nat) (hs : s.Good Q P) : (s.planStep l fuel m).Gives (·.2.adm.state.Good Q P) := by
  induction fuel generalizing m with
  | zero => exact .error
  | succ n ih =>
    unfold State.planStep
    refine .after (fun _ => .after (fun _ => LoopM.Gives.ite .error ?_))
    dsimp only
    split
    · exact .error
    · exact LoopM.Gives.ite (ih _) (.pure (good_loopAdmit _ _ _ hs))

/-- `State.stepLoop` keeps the frame. -/
theorem gives_stepLoop (s : State) (n : Nat) (hs : s.Good Q P) : (s.stepLoop n).Gives (·.Good Q P) := by
  unfold State.stepLoop
  dsimp only
  refine .after (fun _ => (gives_planStep _ _ _ _ hs).bind (fun a h => ?_))
  refine (gives_models _ _ _ _ h).bind (fun a h => ?_)
  refine (gives_concludeAll _ _ _ _ h).bind (fun a h => ?_)
  refine (gives_putTokens (Q := Q) (P := P) _ _ _ (good_raiseOn _ _ _ _ h)).bind (fun a h => ?_)
  exact LoopM.Gives.ite (LoopM.Gives.bind (p := fun s : State => s.Good Q P) (LoopM.Gives.ok h) (fun _ h => gives_boundary _ _ _ h))
    ((gives_putRing _ _ _ _ _ _ h).bind (fun _ h => gives_boundary _ _ _ h))

/-- `State.haltLoop` keeps the frame. -/
theorem good_haltLoop (s : State) (n : Nat) (r : Run) (img : List Byte) (hs : s.Good Q P) : (State.haltLoop s n r img).Good Q P := by
  unfold State.haltLoop
  dsimp only
  repeat' first
    | (with_reducible first | assumption | intro _ | apply State.Good.ite | apply State.Good.foldl | apply good_setLoop | apply good_addFault)

/-- `State.loopFault` keeps the frame. -/
theorem good_loopFault (s : State) (n status : Nat) (hs : s.Good Q P) : (State.loopFault s n status).Good Q P := by
  unfold State.loopFault
  dsimp only
  repeat' first
    | (with_reducible first | assumption | intro _ | apply State.Good.ite | apply State.Good.foldl | apply good_noteLoop | apply good_tearDown)

/-- `State.loopOutcome` keeps the frame. -/
theorem good_loopOutcome (s : State) (n : Nat) (m : LoopM State) (hs : s.Good Q P) (hm : m.Gives (·.Good Q P)) : (s.loopOutcome n m).Good Q P := by
  unfold State.loopOutcome
  split
  · exact hm _ rfl
  · exact hs
  · exact good_haltLoop _ _ _ _ hs
  · exact good_loopFault _ _ _ (good_logEvent _ _ _ _ _ _ _ _ hs)
  · exact good_loopFault _ _ _ (good_logEvent _ _ _ _ _ _ _ _ hs)
  · exact good_cutLoop _ _ (good_noteLoop _ _ _ hs)
  · exact hs

/-- `State.loopTurn` keeps the frame. -/
theorem good_loopTurn (s : State) (n : Nat) (hs : s.Good Q P) : (State.loopTurn s n).Good Q P := by
  unfold State.loopTurn
  dsimp only
  repeat' first
    | (with_reducible first | assumption | intro _ | apply State.Good.ite | apply State.Good.foldl | apply good_countBubbles | apply good_takeTurn | apply good_kernelBoundary | apply gives_abortLoop | apply gives_stepLoop | apply good_loopOutcome)

/-- `execLoopResume` keeps the frame. -/
theorem good_execLoopResume {t : State} (loop : Nat) (s : State) (hs : s.Good Q P) (e : execLoopResume loop s = .next t) : t.Good Q P := by
  obtain rfl := Host.Outcome.next.inj e
  dsimp only
  split
  · exact hs
  · have h : ∀ a, ((s.watchDone a).readSeen (64 + loop)).Good Q P := fun a => good_readSeen _ _ (good_watchDone _ _ hs)
    split
    · exact .ite (h _) (good_endWatch _ _ (good_setLoop _ _ _ (h _)))
    · refine good_loopOutcome _ _ _ (h _) ?_
      cases State.reqProd ((s.watchDone _).readSeen (64 + loop)) (s.loopAt loop) with
      | ok a => exact .ok (h _)
      | error e => exact .error

end Sys2Proof.Machine
end

