-- ==== Sys2Proof/Laws/KeepRings.lean ====
section
/-!
SUPPORT. The operations of Machine/Rings.lean keep the frame of `State.Good`.
-/

namespace Sys2Proof.Machine

variable {Q : List Instr} {P : Part}

/-- `State.armWatch` keeps the frame. -/
theorem good_armWatch (s : State) (n : Nat) (at_ : Nat × Nat) (hs : s.Good Q P) : (State.armWatch s n at_).Good Q P := by
  unfold State.armWatch
  dsimp only
  repeat' first
    | (with_reducible first | assumption | intro _ | apply State.Good.ite | apply State.Good.foldl | apply good_setWatch | apply good_ask | apply good_watchDone)

/-- `execWatchArmed` keeps the frame. -/
theorem good_execWatchArmed {t : State} (watch : Nat) (s : State) (hs : s.Good Q P) (e : execWatchArmed watch s = .next t) : t.Good Q P := by
  obtain rfl := Host.Outcome.next.inj e
  repeat' first
    | (with_reducible first | assumption | intro _ | apply State.Good.ite | apply State.Good.foldl | apply good_armWatch)
    | split

/-- `State.rearm` keeps the frame. -/
theorem good_rearm (s : State) (n : Nat) (hs : s.Good Q P) : (State.rearm s n).Good Q P := by
  unfold State.rearm
  dsimp only
  repeat' first
    | (with_reducible first | assumption | intro _ | apply State.Good.ite | apply State.Good.foldl | apply good_setWatch | apply good_sendWatch)

/-- `execWatchHit` keeps the frame. -/
theorem good_execWatchHit {t : State} (watch : Nat) (s : State) (hs : s.Good Q P) (e : execWatchHit watch s = .next t) : t.Good Q P := by
  obtain rfl := Host.Outcome.next.inj e
  repeat' first
    | (with_reducible first | assumption | intro _ | apply State.Good.ite | apply State.Good.foldl | apply good_rearm)

/-- `execWatchLost` keeps the frame. -/
theorem good_execWatchLost {t : State} (watch : Nat) (s : State) (hs : s.Good Q P) (e : execWatchLost watch s = .next t) : t.Good Q P := by
  obtain rfl := Host.Outcome.next.inj e
  repeat' first
    | (with_reducible first | assumption | intro _ | apply State.Good.ite | apply State.Good.foldl | apply good_rearm)

/-- `State.pushStamped` keeps the frame. -/
theorem good_pushStamped (s : State) (cring : Nat) (bytes : List Byte) (hs : s.Good Q P) : (State.pushStamped s cring bytes).Good Q P := by
  unfold State.pushStamped
  repeat' first
    | (with_reducible first | assumption | intro _ | apply State.Good.ite | apply State.Good.foldl | apply good_setComp)

/-- `State.haltRing` keeps the frame. -/
theorem good_haltRing (s : State) (n : Nat) (prod : Word) (hs : s.Good Q P) : (State.haltRing s n prod).Good Q P := by
  unfold State.haltRing
  dsimp only
  repeat' first
    | (with_reducible first | assumption | intro _ | apply State.Good.ite | apply State.Good.foldl | apply good_setSub | apply good_logEvent | apply good_pushStamped)

/-- `State.takeProd` keeps the frame. -/
theorem good_takeProd (s : State) (n : Nat) (prod : Word) (hs : s.Good Q P) : (State.takeProd s n prod).Good Q P := by
  unfold State.takeProd
  dsimp only
  repeat' first
    | (with_reducible first | assumption | intro _ | apply State.Good.ite | apply State.Good.foldl | apply good_setSub | apply good_haltRing)

/-- `execProdReadReturn` keeps the frame. -/
theorem good_execProdReadReturn {t : State} (ring : Nat) (s : State) (hs : s.Good Q P) (e : execProdReadReturn ring s = .next t) : t.Good Q P := by
  unfold execProdReadReturn at e
  repeat' split at e
  all_goals first
    | cases e; done
    | obtain rfl := Host.Outcome.next.inj e
  repeat' first
    | (with_reducible first | assumption | intro _ | apply State.Good.ite | apply State.Good.foldl | apply good_readSeen | apply good_watchDone | apply good_takeProd)

/-- `State.begin` keeps the frame. -/
theorem good_begin (s : State) (x : Desc) (hs : s.Good Q P) : (State.begin s x).Good Q P := by
  unfold State.begin
  dsimp only
  repeat' first
    | (with_reducible first | assumption | intro _ | apply State.Good.ite | apply State.Good.foldl | apply good_setDesc | apply good_takeUnit)
    | split
    | (unfold State.Good State.MemOk; dsimp only; with_reducible apply State.Good.of_and; with_reducible first | assumption | apply State.Good.ite | apply State.Good.foldl | apply good_setDesc | apply good_takeUnit)

/-- `State.accept` keeps the frame. -/
theorem good_accept (s : State) (x : Desc) (hs : s.Good Q P) : (State.accept s x).Good Q P := by
  unfold State.accept
  dsimp only
  repeat' first
    | (with_reducible first | assumption | intro _ | apply State.Good.ite | apply State.Good.foldl | apply good_setDesc | apply good_retire | apply good_begin)
    | split

/-- `State.fetchLost` keeps the frame. -/
theorem good_fetchLost (s : State) (x : Desc) (r : BadRead) (hs : s.Good Q P) : (State.fetchLost s x r).Good Q P := by
  unfold State.fetchLost
  dsimp only
  repeat' first
    | (with_reducible first | assumption | intro _ | apply State.Good.ite | apply State.Good.foldl | apply good_descFault | apply good_readLost)
    | split
    | (unfold State.Good State.MemOk; dsimp only; with_reducible apply State.Good.of_and; with_reducible first | assumption | apply State.Good.ite | apply State.Good.foldl | apply good_descFault | apply good_readLost)

/-- `State.fetchMet` keeps the frame. -/
theorem good_fetchMet (s : State) (x : Desc) (a : Nat) (c : ReadCheck) (hs : s.Good Q P) : (State.fetchMet s x a c).Good Q P := by
  unfold State.fetchMet
  dsimp only
  repeat' first
    | (with_reducible first | assumption | intro _ | apply State.Good.ite | apply State.Good.foldl | apply good_readCured | apply gives_take | apply good_accept | apply good_fetchLost)
    | split
    | (unfold State.Good State.MemOk; dsimp only; with_reducible apply State.Good.of_and; with_reducible first | assumption | apply State.Good.ite | apply State.Good.foldl | apply good_readCured | apply gives_take | apply good_accept | apply good_fetchLost)

/-- `State.fetchNext` keeps the frame. -/
theorem good_fetchNext (s : State) (n : Nat) (reads : ReadCheck) (hs : s.Good Q P) : (State.fetchNext s n reads).Good Q P := by
  unfold State.fetchNext
  dsimp only
  repeat' first
    | (with_reducible first | assumption | intro _ | apply State.Good.ite | apply State.Good.foldl | apply good_setSub | apply good_bobWrite | apply good_bobSpend | apply good_fetchMet)

/-- `execDescFetch` keeps the frame. -/
theorem good_execDescFetch {t : State} (c : FetchCmd) (s : State) (hs : s.Good Q P) (e : execDescFetch c s = .next t) : t.Good Q P := by
  unfold execDescFetch at e
  repeat' split at e
  all_goals first
    | cases e; done
    | obtain rfl := Host.Outcome.next.inj e
  repeat' first
    | (with_reducible first | assumption | intro _ | apply State.Good.ite | apply State.Good.foldl | apply good_fetchNext)

/-- `State.dequeue` keeps the frame. -/
theorem good_dequeue (s : State) (x : Desc) (hs : s.Good Q P) : (State.dequeue s x).Good Q P := by
  unfold State.dequeue
  dsimp only
  repeat' first
    | (with_reducible first | assumption | intro _ | apply State.Good.ite | apply State.Good.foldl | apply good_retire | apply good_collTake | apply good_openDesc | apply good_begin)
    | split
    | (unfold State.Good State.MemOk; dsimp only; with_reducible apply State.Good.of_and; with_reducible first | assumption | apply State.Good.ite | apply State.Good.foldl | apply good_retire | apply good_collTake | apply good_openDesc | apply good_begin)

/-- `execDescDequeue` keeps the frame. -/
theorem good_execDescDequeue {t : State} (ring : Nat) (s : State) (hs : s.Good Q P) (e : execDescDequeue ring s = .next t) : t.Good Q P := by
  obtain rfl := Host.Outcome.next.inj e
  repeat' first
    | (with_reducible first | assumption | intro _ | apply State.Good.ite | apply State.Good.foldl | apply good_dequeue)
    | split

/-- `execNop` keeps the frame. -/
theorem good_execNop {t : State} (d : Did) (s : State) (hs : s.Good Q P) (e : execNop d s = .next t) : t.Good Q P := by
  obtain rfl := Host.Outcome.next.inj e
  repeat' first
    | (with_reducible first | assumption | intro _ | apply State.Good.ite | apply State.Good.foldl | apply good_retire)
    | split

/-- `execFence` keeps the frame. -/
theorem good_execFence {t : State} (d : Did) (s : State) (hs : s.Good Q P) (e : execFence d s = .next t) : t.Good Q P := by
  obtain rfl := Host.Outcome.next.inj e
  repeat' first
    | (with_reducible first | assumption | intro _ | apply State.Good.ite | apply State.Good.foldl | apply good_retire)
    | split

/-- `State.stopLoop` keeps the frame. -/
theorem good_stopLoop (s : State) (n : Nat) (hs : s.Good Q P) : (State.stopLoop s n).Good Q P := by
  unfold State.stopLoop
  dsimp only
  repeat' first
    | (with_reducible first | assumption | intro _ | apply State.Good.ite | apply State.Good.foldl | apply good_setLoop | apply gives_abortLoop | apply good_loopOutcome)

/-- `State.stop` keeps the frame. -/
theorem good_stop (s : State) (d : Did) (hs : s.Good Q P) : (State.stop s d).Good Q P := by
  unfold State.stop
  repeat' first
    | (with_reducible first | assumption | intro _ | apply State.Good.ite | apply State.Good.foldl | apply good_cutDesc | apply good_stopKernel | apply good_stopLoop)
    | split

/-- `State.abortSettle` keeps the frame. -/
theorem good_abortSettle (s : State) (x : Desc) (ds : List Did) (hs : s.Good Q P) : (State.abortSettle s x ds).Good Q P := by
  unfold State.abortSettle
  dsimp only
  repeat' first
    | (with_reducible first | assumption | intro _ | apply State.Good.ite | apply State.Good.foldl | apply good_setDesc | apply good_retire)

/-- `State.abortTarget` keeps the frame. -/
theorem good_abortTarget (s : State) (x : Desc) (t : Did) (hs : s.Good Q P) : (State.abortTarget s x t).Good Q P := by
  unfold State.abortTarget
  repeat' first
    | (with_reducible first | assumption | intro _ | apply State.Good.ite | apply State.Good.foldl | apply good_retire | apply good_stop | apply good_abortSettle)
    | split

/-- `execAbortOne` keeps the frame. -/
theorem good_execAbortOne {t : State} (d : Did) (s : State) (hs : s.Good Q P) (e : execAbortOne d s = .next t) : t.Good Q P := by
  obtain rfl := Host.Outcome.next.inj e
  repeat' first
    | (with_reducible first | assumption | intro _ | apply State.Good.ite | apply State.Good.foldl | apply good_abortSettle | apply good_abortTarget)
    | split

/-- `execAbortContext` keeps the frame. -/
theorem good_execAbortContext {t : State} (d : Did) (s : State) (hs : s.Good Q P) (e : execAbortContext d s = .next t) : t.Good Q P := by
  obtain rfl := Host.Outcome.next.inj e
  dsimp only
  repeat' first
    | (with_reducible first | assumption | intro _ | apply State.Good.ite | apply State.Good.foldl | apply good_stop | apply good_abortSettle)
    | split

/-- `State.sendMessage` keeps the frame. -/
theorem good_sendMessage (s : State) (n : Nat) (hs : s.Good Q P) : (State.sendMessage s n).Good Q P := by
  unfold State.sendMessage
  dsimp only
  repeat' first
    | (with_reducible first | assumption | intro _ | apply State.Good.ite | apply State.Good.foldl | apply good_setComp | apply good_bobWrite)

/-- `State.landRecord` keeps the frame. -/
theorem good_landRecord (s : State) (n : Nat) (r : Rec) (hs : s.Good Q P) : (State.landRecord s n r).Good Q P := by
  unfold State.landRecord
  dsimp only
  repeat' first
    | (with_reducible first | assumption | intro _ | apply State.Good.ite | apply State.Good.foldl | apply good_setComp | apply good_bobWrite | apply good_sendMessage)

/-- `execCompletionRecordWrite` keeps the frame. -/
theorem good_execCompletionRecordWrite {t : State} (cring : Nat) (s : State) (hs : s.Good Q P) (e : execCompletionRecordWrite cring s = .next t) : t.Good Q P := by
  unfold execCompletionRecordWrite at e
  dsimp only at e
  repeat' split at e
  all_goals first
    | cases e; done
    | obtain rfl := Host.Outcome.next.inj e
  repeat' first
    | (with_reducible first | assumption | intro _ | apply State.Good.ite | apply State.Good.foldl | apply good_landRecord)

/-- `execCoalesceTimeout` keeps the frame. -/
theorem good_execCoalesceTimeout {t : State} (cring : Nat) (s : State) (hs : s.Good Q P) (e : execCoalesceTimeout cring s = .next t) : t.Good Q P := by
  obtain rfl := Host.Outcome.next.inj e
  repeat' first
    | (with_reducible first | assumption | intro _ | apply State.Good.ite | apply State.Good.foldl | apply good_sendMessage)

end Sys2Proof.Machine
end

