-- ==== Sys2Proof/Laws/KeepKernel.lean ====
section
/-!
SUPPORT. The operations of Machine/Kernel.lean keep the frame of `State.Good`.
-/

namespace Sys2Proof.Machine

variable {Q : List Instr} {P : Part}

/-- What a step's outcome leaves keeps the frame. -/
def StepRes.Good (Q : List Instr) (P : Part) : StepRes → Prop
  | .done s | .halt s | .over s => s.Good Q P
  | .hold _ | .fault _ => True

/-- A step performed. -/
theorem StepRes.Good.done {s : State} (h : s.Good Q P) : (StepRes.done s).Good Q P := h
/-- A step halted. -/
theorem StepRes.Good.halt {s : State} (h : s.Good Q P) : (StepRes.halt s).Good Q P := h
/-- A step that ends its descriptor. -/
theorem StepRes.Good.over {s : State} (h : s.Good Q P) : (StepRes.over s).Good Q P := h
/-- A step held. -/
theorem StepRes.Good.hold {k : HoldKind} : (StepRes.hold k).Good Q P := trivial
/-- A step at fault. -/
theorem StepRes.Good.fault {n : Nat} : (StepRes.fault n).Good Q P := trivial
/-- Either branch of a choice. -/
theorem StepRes.Good.ite {c : Prop} [Decidable c] {a b : StepRes} (ha : a.Good Q P) (hb : b.Good Q P) : (if c then a else b).Good Q P := by
  split
  · exact ha
  · exact hb

/-- The state of a step that is known to be performed. -/
theorem StepRes.Good.ofDone {r : StepRes} {t : State} (e : r = .done t) (h : r.Good Q P) : t.Good Q P := by
  rw [e] at h; exact h

/-- The state of a step that is known to end its descriptor. -/
theorem StepRes.Good.ofOver {r : StepRes} {t : State} (e : r = .over t) (h : r.Good Q P) : t.Good Q P := by
  rw [e] at h; exact h

/-- `State.assignSlot` keeps the frame. -/
theorem good_assignSlot (s : State) (ctx cluster n : Nat) (hs : s.Good Q P) : (State.assignSlot s ctx cluster n).Good Q P := by
  unfold State.assignSlot
  dsimp only
  repeat' first
    | (with_reducible first | assumption | intro _ | apply State.Good.ite | apply State.Good.foldl | apply good_setCore)

/-- `State.openSsWin` keeps the frame. -/
theorem good_openSsWin (s : State) (x : Desc) (n : Nat) (cores : List Nat) (r : SsRange) (hs : s.Good Q P) : (State.openSsWin s x n cores r).Good Q P := by
  unfold State.openSsWin
  repeat' first
    | (with_reducible first | assumption | intro _ | apply State.Good.ite | apply State.Good.foldl | apply good_setSsWin)
    | split

/-- `State.blockRefused` keeps the frame. -/
theorem ok_blockRefused {s : State} {x : Desc} {w : Work} (e : s.blockRefused x = some w) : w.Ok := by
  unfold State.blockRefused at e
  dsimp only at e
  repeat' split at e
  all_goals first
    | cases e; done
    | exact ok_boltListBad (c := True) (by rw [if_pos trivial]; exact e)
    | exact ok_listBad (c := True) (by rw [if_pos trivial]; exact e)
    | (obtain rfl := Option.some.inj e; first | exact ok_attnRead (by assumption) | exact ok_workOfAcc _ _ | exact trivial)

/-- `State.ssRefused` keeps the frame. -/
theorem ok_ssRefused {s : State} {x : Desc} {p : Plan} {w : Work} (e : s.ssRefused x p = some w) : w.Ok := by
  obtain ⟨r, _, h⟩ := List.exists_of_findSome?_eq_some e
  split at h
  · cases h
  · rename_i v hv
    cases h
    unfold State.ssExtent at hv
    dsimp only at hv
    repeat' split at hv
    all_goals first
      | cases hv; done
      | (obtain rfl := Except.error.inj hv; first | exact ok_workOfAcc _ _ | exact trivial)

/-- `State.placeKernel` keeps the frame. -/
theorem good_placeKernel (s : State) (x : Desc) (p : Plan) (hs : s.Good Q P) : (State.placeKernel s x p).Good Q P := by
  unfold State.placeKernel
  dsimp only
  repeat' first
    | (with_reducible first | assumption | intro _ | apply State.Good.ite | apply State.Good.foldl | apply good_setKernel | apply good_setCore | apply good_setPiste | apply gives_take | apply good_assignSlot | apply good_openSsWin)

/-- `State.resumeKernel` keeps the frame. -/
theorem good_resumeKernel (s : State) (x : Desc) (hs : s.Good Q P) : (State.resumeKernel s x).Good Q P := by
  unfold State.resumeKernel
  dsimp only
  repeat' first
    | (with_reducible first | assumption | intro _ | apply State.Good.ite | apply State.Good.foldl | apply good_setKernel | apply good_setCore | apply gives_take | apply good_openSsWin)

/-- `State.startKernel` keeps the frame. -/
theorem good_startKernel (s : State) (x : Desc) (p : Plan) (hs : s.Good Q P) : (s.startKernel x p).Good Q P := by
  unfold State.startKernel
  split
  · rename_i _ _ w e
    refine good_conclude _ _ _ hs ?_
    split at e
    · cases e
    · exact ok_blockRefused e
  · rename_i _ _ w _ e
    exact good_conclude _ _ _ hs (ok_ssRefused e)
  · refine .ite (good_retire _ _ _ _ hs) ?_
    split
    · exact good_tearDown _ _ _ _ _ _ hs
    · have h := good_kernelBoundary _ x.ctx true (good_takeTurn _ x.ctx hs)
      exact .ite (good_resumeKernel _ _ h) (good_placeKernel _ _ _ h)

/-- `execKernelStart` keeps the frame. -/
theorem good_execKernelStart {t : State} (d : Did) (plan : Plan) (s : State) (hs : s.Good Q P) (e : execKernelStart d plan s = .next t) : t.Good Q P := by
  obtain rfl := Host.Outcome.next.inj e
  dsimp only
  repeat' first
    | (with_reducible first | assumption | intro _ | apply State.Good.ite | apply State.Good.foldl | apply good_retire | apply good_startKernel)
    | split

/-- `State.pisteStop` keeps the frame. -/
theorem good_pisteStop (s : State) (x : Desc) (hs : s.Good Q P) : (State.pisteStop s x).Good Q P := by
  unfold State.pisteStop
  repeat' first
    | (with_reducible first | assumption | intro _ | apply State.Good.ite | apply State.Good.foldl | apply good_tearDown)

/-- `State.redoKernel` keeps the frame. -/
theorem good_redoKernel (s : State) (ctx : Nat) (hs : s.Good Q P) : (State.redoKernel s ctx).Good Q P := by
  unfold State.redoKernel
  dsimp only
  repeat' first
    | (with_reducible first | assumption | intro _ | apply State.Good.ite | apply State.Good.foldl | apply good_setKernel | apply good_setCore | apply good_setSsWin | apply good_setPiste | apply good_setDesc | apply good_tearDown)
    | split
    | (unfold State.Good State.MemOk; dsimp only; with_reducible apply State.Good.of_and; with_reducible first | assumption | apply State.Good.ite | apply State.Good.foldl | apply good_setKernel | apply good_setCore | apply good_setSsWin | apply good_setPiste | apply good_setDesc | apply good_tearDown)

/-- `State.redoHalted` keeps the frame. -/
theorem good_redoHalted (s : State) (x : Desc) (hs : s.Good Q P) : (State.redoHalted s x).Good Q P := by
  unfold State.redoHalted
  repeat' first
    | (with_reducible first | assumption | intro _ | apply State.Good.ite | apply State.Good.foldl | apply good_setDesc | apply good_tearDown)
    | split
    | (unfold State.Good State.MemOk; dsimp only; with_reducible apply State.Good.of_and; with_reducible first | assumption | apply State.Good.ite | apply State.Good.foldl | apply good_setDesc | apply good_tearDown)

/-- `State.redoStep` keeps the frame. -/
theorem good_redoStep (s : State) (x : Desc) (hs : s.Good Q P) : (State.redoStep s x).Good Q P := by
  unfold State.redoStep
  repeat' first
    | (with_reducible first | assumption | intro _ | apply State.Good.ite | apply State.Good.foldl | apply good_setDesc)

/-- `State.redoLoop` keeps the frame. -/
theorem good_redoLoop (s : State) (n : Nat) (hs : s.Good Q P) : (State.redoLoop s n).Good Q P := by
  unfold State.redoLoop
  dsimp only
  repeat' first
    | (with_reducible first | assumption | intro _ | apply State.Good.ite | apply State.Good.foldl | apply good_noteLoop | apply good_tearDown)
    | split
    | (unfold State.Good State.MemOk; dsimp only; with_reducible apply State.Good.of_and; with_reducible first | assumption | apply State.Good.ite | apply State.Good.foldl | apply good_noteLoop | apply good_tearDown)

/-- `State.redoContext` keeps the frame. -/
theorem good_redoContext (s : State) (ctx : Nat) (hs : s.Good Q P) : (State.redoContext s ctx).Good Q P := by
  unfold State.redoContext
  dsimp only
  repeat' first
    | (with_reducible first | assumption | intro _ | apply State.Good.ite | apply State.Good.foldl | apply good_redoKernel | apply good_redoHalted | apply good_redoStep | apply good_redoLoop)
    | split

/-- `State.ccoreExpiry` keeps the frame. -/
theorem good_ccoreExpiry (s : State) (n : Nat) (imemOk : Bool) (hs : s.Good Q P) : (State.ccoreExpiry s n imemOk).Good Q P := by
  unfold State.ccoreExpiry
  dsimp only
  repeat' first
    | (with_reducible first | assumption | intro _ | apply State.Good.ite | apply State.Good.foldl | apply good_setCtx | apply good_setCcore | apply good_logEvent | apply good_noteRepeat | apply good_enterFatal | apply good_all | apply good_redoContext)

/-- `State.tableRetried` keeps the frame. -/
theorem good_tableRetried (s : State) (x : Desc) (hs : s.Good Q P) : (State.tableRetried s x).Good Q P := by
  unfold State.tableRetried
  repeat' first
    | (with_reducible first | assumption | intro _ | apply State.Good.ite | apply State.Good.foldl | apply good_logEvent | apply good_noteRepeat | apply good_noteStatus)

/-- `State.enqueue` keeps the frame. -/
theorem good_enqueue (s : State) (cores : List Nat) (q : QStep) (hs : s.Good Q P) : (State.enqueue s cores q).Good Q P := by
  unfold State.enqueue
  dsimp only
  repeat' first
    | (with_reducible first | assumption | intro _ | apply State.Good.ite | apply State.Good.foldl | apply good_setCore)

/-- `State.feed` keeps the frame. -/
theorem good_feed (s : State) (cluster ctx n : Nat) (hs : s.Good Q P) : (s.feed cluster ctx n).Good Q P := by
  induction n generalizing s with
  | zero => exact hs
  | succ n ih =>
    unfold State.feed
    dsimp only
    split
    · exact good_pisteStop _ _ hs
    · exact .ite (ih _ (good_setPiste _ _ _ _ (good_enqueue _ _ _ hs))) hs
    · exact hs

/-- `execPisteHead` keeps the frame. -/
theorem good_execPisteHead {t : State} (cluster ctx : Nat) (chk : CmdCheck) (s : State) (hs : s.Good Q P) (e : execPisteHead cluster ctx chk s = .next t) : t.Good Q P := by
  obtain rfl := Host.Outcome.next.inj e
  dsimp only
  repeat' first
    | (with_reducible first | assumption | intro _ | apply State.Good.ite | apply State.Good.foldl | apply good_setPiste | apply good_pisteStop | apply good_ccoreExpiry | apply good_tableRetried | apply good_feed)
    | split

/-- `execPisteLoop` keeps the frame. -/
theorem good_execPisteLoop {t : State} (cluster ctx : Nat) (st : Step) (s : State) (hs : s.Good Q P) (e : execPisteLoop cluster ctx st s = .next t) : t.Good Q P := by
  obtain rfl := Host.Outcome.next.inj e
  dsimp only
  repeat' first
    | (with_reducible first | assumption | intro _ | apply State.Good.ite | apply State.Good.foldl | apply good_setPiste | apply good_pisteStop | apply good_feed)
    | split

/-- `execPisteSkein` keeps the frame. -/
theorem good_execPisteSkein {t : State} (cluster ctx : Nat) (st : Step) (s : State) (hs : s.Good Q P) (e : execPisteSkein cluster ctx st s = .next t) : t.Good Q P := by
  obtain rfl := Host.Outcome.next.inj e
  dsimp only
  repeat' first
    | (with_reducible first | assumption | intro _ | apply State.Good.ite | apply State.Good.foldl | apply good_setPiste | apply good_pisteStop | apply good_feed)
    | split

/-- `State.stepDone` keeps the frame. -/
theorem good_stepDone (s : State) (c : Nat) (hs : s.Good Q P) : (s.stepDone c).Good Q P := by
  unfold State.stepDone
  dsimp only
  split
  · exact good_setCore _ _ _ hs
  · split
    · exact .ite (good_setCore _ _ _ hs) (good_feed _ _ _ _ (good_setCore _ _ _ hs))
    · exact good_setCore _ _ _ hs
    · exact good_setCore _ _ _ hs

/-- `State.arrayCycles` keeps the frame. -/
theorem good_arrayCycles (s : State) (c op : Nat) (hs : s.Good Q P) : (State.arrayCycles s c op).Good Q P := by
  unfold State.arrayCycles
  repeat' first
    | (with_reducible first | assumption | intro _ | apply State.Good.ite | apply State.Good.foldl | apply good_countBubbles)

/-- `State.issue` keeps the frame. -/
theorem good_issue (s : State) (c : Nat) (st : Step) (op width : Nat) (act : State → Desc → StepRes) (hs : s.Good Q P)
    (hact : ∀ s x, s.Good Q P → (act s x).Good Q P) : (s.issue c st op width act).Good Q P := by
  unfold State.issue
  split
  · rename_i x _
    have h := hact s x hs
    refine .ite hs (.ite (good_pisteStop _ _ hs) ?_)
    split
    · rename_i e; rw [e] at h; exact good_stepDone _ _ (good_arrayCycles _ _ _ h)
    · exact good_setCore _ _ _ hs
    · rename_i e; rw [e] at h; exact good_setCore _ _ _ h
    · exact good_coreFault _ _ _ hs
    · rename_i e; rw [e] at h; exact h
  · exact hs

/-- `execPisteNop` keeps the frame. -/
theorem good_execPisteNop {t : State} (core : Nat) (st : Step) (s : State) (hs : s.Good Q P) (e : execPisteNop core st s = .next t) : t.Good Q P := by
  obtain rfl := Host.Outcome.next.inj e
  repeat' first
    | (with_reducible first | assumption | intro _ | apply State.Good.ite | apply State.Good.foldl | apply StepRes.Good.ite | apply StepRes.Good.done | apply StepRes.Good.hold | apply StepRes.Good.halt | apply StepRes.Good.fault | apply StepRes.Good.over | apply good_pisteStop | apply good_issue)
    | split

/-- `execPisteEnd` keeps the frame. -/
theorem good_execPisteEnd {t : State} (core : Nat) (st : Step) (s : State) (hs : s.Good Q P) (e : execPisteEnd core st s = .next t) : t.Good Q P := by
  obtain rfl := Host.Outcome.next.inj e
  dsimp only
  repeat' first
    | (with_reducible first | assumption | intro _ | apply State.Good.ite | apply State.Good.foldl | apply StepRes.Good.ite | apply StepRes.Good.done | apply StepRes.Good.hold | apply StepRes.Good.halt | apply StepRes.Good.fault | apply StepRes.Good.over | apply good_setCore | apply good_issue)

/-- `State.storeHist` keeps the frame. -/
theorem good_storeHist (s : State) (x : Desc) (hs : s.Good Q P) : (State.storeHist s x).Good Q P := by
  unfold State.storeHist
  dsimp only
  repeat' first
    | (with_reducible first | assumption | intro _ | apply State.Good.ite | apply State.Good.foldl | apply State.Good.store | apply Store.Ok.ite | apply Store.Ok.foldl | apply Store.Ok.foldlPair | apply good_withStore | apply ok_putHistAt)
    | split

/-- `State.endKernel` keeps the frame. -/
theorem good_endKernel (s : State) (ctx : Nat) (hs : s.Good Q P) : (State.endKernel s ctx).Good Q P := by
  unfold State.endKernel
  dsimp only
  repeat' first
    | (with_reducible first | assumption | intro _ | apply State.Good.ite | apply State.Good.foldl | apply State.Good.store | apply Store.Ok.ite | apply Store.Ok.foldl | apply Store.Ok.foldlPair | apply good_setKernel | apply good_setCore | apply good_setSsWin | apply good_setPiste | apply good_retire | apply good_kernelBoundary | apply good_endWaits | apply good_storeHist)
    | split

/-- `execKernelEnd` keeps the frame. -/
theorem good_execKernelEnd {t : State} (ctx : Nat) (s : State) (hs : s.Good Q P) (e : execKernelEnd ctx s = .next t) : t.Good Q P := by
  obtain rfl := Host.Outcome.next.inj e
  repeat' first
    | (with_reducible first | assumption | intro _ | apply State.Good.ite | apply State.Good.foldl | apply State.Good.store | apply Store.Ok.ite | apply Store.Ok.foldl | apply Store.Ok.foldlPair | apply Work.Ok.ite | apply Work.Ok.bad | apply Work.Ok.halt | apply Work.Ok.mismatch | apply Work.Ok.lost | apply Work.Ok.done | apply ok_workOfAcc | apply good_conclude | apply good_outOf | apply good_endKernel | apply State.Good.self)
    | split

end Sys2Proof.Machine
end

