-- ==== Sys2Proof/Laws/KeepSteps.lean ====
section
/-!
SUPPORT. The operations of Machine/Steps.lean keep the frame of `State.Good`.
-/

namespace Sys2Proof.Machine

variable {Q : List Instr} {P : Part}

/-- `State.dropWbacks` keeps the frame. -/
theorem good_dropWbacks (s : State) (c r n : Nat) (hs : s.Good Q P) : (State.dropWbacks s c r n).Good Q P := by
  unfold State.dropWbacks
  repeat' first
    | (with_reducible first | assumption | intro _ | apply State.Good.ite | apply State.Good.foldl)
    | split
    | (unfold State.Good State.MemOk; dsimp only; with_reducible apply State.Good.of_and; with_reducible first | assumption | apply State.Good.ite | apply State.Good.foldl)

/-- `State.writeRowsAt` keeps the frame. -/
theorem good_writeRowsAt (s : State) (c r : Nat) (bs : List Byte) (hs : s.Good Q P) : (State.writeRowsAt s c r bs).Good Q P := by
  unfold State.writeRowsAt
  repeat' first
    | (with_reducible first | assumption | intro _ | apply State.Good.ite | apply State.Good.foldl | apply good_setCore | apply good_dropWbacks)

/-- `State.putSsRows` keeps the frame. -/
theorem good_putSsRows (s : State) (r : Nat) (bs : List Byte) (hs : s.Good Q P) : (s.putSsRows r bs).Good Q P :=
  ⟨hs.1, hs.2.1, hs.2.2.1, wf_memWrite hs.2.2.2⟩

/-- `State.corrected` keeps the frame. -/
theorem good_corrected (s : State) (c : Nat) (r : ReadAt) (hs : s.Good Q P) : (s.corrected c r).Good Q P := by
  cases r with
  | osp n => exact good_countCorrected s c hs
  | am n => exact good_countCorrected s c hs
  | ss n => exact good_countCorrectedSs s hs

/-- `State.readRetried` keeps the frame. -/
theorem good_readRetried (s : State) (x : Desc) (p : Nat × Nat × Nat × Nat) (hs : s.Good Q P) : (State.readRetried s x p).Good Q P := by
  unfold State.readRetried
  repeat' first
    | (with_reducible first | assumption | intro _ | apply State.Good.ite | apply State.Good.foldl | apply good_logEvent | apply good_noteRepeat | apply good_noteStatus)

/-- `State.poisonRow` keeps the frame. -/
theorem good_poisonRow (s : State) (c : Nat) (r : ReadAt) (hs : s.Good Q P) : (s.poisonRow c r).Good Q P := by
  cases r with
  | osp n => exact State.Good.ite hs (good_setCore _ _ _ hs)
  | am n => exact hs
  | ss n => exact State.Good.ite hs hs

/-- `State.readLasting` keeps the frame. -/
theorem good_readLasting (s : State) (c : Nat) (x : Desc) (a : ReadAt) (hs : s.Good Q P) : (State.readLasting s c x a).Good Q P := by
  unfold State.readLasting
  dsimp only
  repeat' first
    | (with_reducible first | assumption | intro _ | apply State.Good.ite | apply State.Good.foldl | apply good_logEvent | apply good_tearDown | apply good_poisonRow)

/-- `State.checkRows` keeps the frame. -/
theorem good_checkRows (s : State) (c : Nat) (x : Desc) (ecc : EccOutcome) (rs : List ReadAt) (hs : s.Good Q P) :
    (s.checkRows c x ecc rs).2.Good Q P := by
  unfold State.checkRows
  split
  · exact good_readLasting _ _ _ _ hs
  · exact hs
  · dsimp only
    split
    · exact good_corrected _ _ _ hs
    · exact hs
  · dsimp only
    split
    · exact good_readRetried _ _ _ hs
    · exact hs
  · split
    · exact good_readLasting _ _ _ _ hs
    · exact hs

/-- What reads leave, once the outcome of their checks is known. -/
theorem good_checkRows_eq {s t : State} {c : Nat} {x : Desc} {ecc : EccOutcome} {rs : List ReadAt} {b : Bool} (e : s.checkRows c x ecc rs = (b, t))
    (hs : s.Good Q P) : t.Good Q P := by
  have h := good_checkRows s c x ecc rs hs
  rw [e] at h
  exact h

/-- `State.checkedRead` keeps the frame. -/
theorem good_checkedRead (s : State) (c : Nat) (x : Desc) (ecc : EccOutcome) (rs : List ReadAt) (act : State → StepRes) (hs : s.Good Q P)
    (hact : ∀ s, s.Good Q P → (act s).Good Q P) : (s.checkedRead c x ecc rs act).Good Q P := by
  have h := good_checkRows s c x ecc rs hs
  unfold State.checkedRead
  split
  · rename_i e
    rw [e] at h
    exact hact _ h
  · rename_i e
    rw [e] at h
    exact h

/-- `guardAcc` keeps the frame. -/
theorem good_guardAcc (w : RowAcc) (act : Unit → StepRes)  (h_act : ∀ u, (act u).Good Q P) : (guardAcc w act).Good Q P := by
  unfold guardAcc
  repeat' first
    | (with_reducible first | assumption | intro _ | apply State.Good.ite | apply State.Good.foldl | apply StepRes.Good.ite | apply StepRes.Good.done | apply StepRes.Good.hold | apply StepRes.Good.halt | apply StepRes.Good.fault | apply StepRes.Good.over | apply h_act)
    | split

/-- `State.storeAm` keeps the frame. -/
theorem good_storeAm (s : State) (c : Nat) (x : Desc) (rows : List (Nat × Nat × List Nat)) (f : FlagSet) (hs : s.Good Q P) : (State.storeAm s c x rows f).Good Q P := by
  unfold State.storeAm
  dsimp only
  repeat' first
    | (with_reducible first | assumption | intro _ | apply State.Good.ite | apply State.Good.foldl | apply good_setCore | apply good_raiseArray | apply good_raiseDesc)

/-- `State.passDo` keeps the frame. -/
theorem good_passDo (s : State) (c : Nat) (st : Step) (x : Desc) (p : PassCtl) (a : PassArgs) (g : Geom) (kk : Nat) (bs factors : List Byte) (hs : s.Good Q P) : (State.passDo s c st x p a g kk bs factors).Good Q P := by
  unfold State.passDo
  dsimp only
  repeat' first
    | (with_reducible first | assumption | intro _ | apply State.Good.ite | apply State.Good.foldl | apply State.Good.store | apply Store.Ok.ite | apply Store.Ok.foldl | apply Store.Ok.foldlPair | apply good_storeAm)

/-- `State.takeFeed` keeps the frame. -/
theorem good_takeFeed (s : State) (c n : Nat) (hs : s.Good Q P) : (State.takeFeed s c n).Good Q P := by
  unfold State.takeFeed
  dsimp only
  repeat' first
    | (with_reducible first | assumption | intro _ | apply State.Good.ite | apply State.Good.foldl | apply good_setCore)

/-- `State.passStep` keeps the frame. -/
theorem good_passStep (s : State) (c : Nat) (st : Step) (x : Desc) (hs : s.Good Q P) : (State.passStep s c st x).Good Q P := by
  unfold State.passStep
  dsimp only
  repeat' first
    | (with_reducible first | assumption | intro _ | apply State.Good.ite | apply State.Good.foldl | apply State.Good.foldlPair | apply StepRes.Good.ite | apply StepRes.Good.done | apply StepRes.Good.hold | apply StepRes.Good.halt | apply StepRes.Good.fault | apply StepRes.Good.over | apply good_feed | apply good_checkedRead | apply good_guardAcc | apply good_passDo | apply good_takeFeed)
    | split

/-- `execPass` keeps the frame. -/
theorem good_execPass {t : State} (core : Nat) (st : Step) (s : State) (hs : s.Good Q P) (e : execPass core st s = .next t) : t.Good Q P := by
  obtain rfl := Host.Outcome.next.inj e
  repeat' first
    | (with_reducible first | assumption | intro _ | apply State.Good.ite | apply State.Good.foldl | apply StepRes.Good.ite | apply StepRes.Good.done | apply StepRes.Good.hold | apply StepRes.Good.halt | apply StepRes.Good.fault | apply StepRes.Good.over | apply good_issue | apply good_passStep)

/-- `execSwap` keeps the frame. -/
theorem good_execSwap {t : State} (core : Nat) (st : Step) (s : State) (hs : s.Good Q P) (e : execSwap core st s = .next t) : t.Good Q P := by
  obtain rfl := Host.Outcome.next.inj e
  dsimp only
  repeat' first
    | (with_reducible first | assumption | intro _ | apply State.Good.ite | apply State.Good.foldl | apply StepRes.Good.ite | apply StepRes.Good.done | apply StepRes.Good.hold | apply StepRes.Good.halt | apply StepRes.Good.fault | apply StepRes.Good.over | apply good_setCore | apply good_issue)

/-- `State.shloadStep` keeps the frame. -/
theorem good_shloadStep (s : State) (c : Nat) (st : Step) (x : Desc) (hs : s.Good Q P) : (State.shloadStep s c st x).Good Q P := by
  unfold State.shloadStep
  dsimp only
  repeat' first
    | (with_reducible first | assumption | intro _ | apply State.Good.ite | apply State.Good.foldl | apply State.Good.foldlPair | apply StepRes.Good.ite | apply StepRes.Good.done | apply StepRes.Good.hold | apply StepRes.Good.halt | apply StepRes.Good.fault | apply StepRes.Good.over | apply good_setCore | apply good_checkedRead | apply good_guardAcc)

/-- `execShload` keeps the frame. -/
theorem good_execShload {t : State} (core : Nat) (st : Step) (s : State) (hs : s.Good Q P) (e : execShload core st s = .next t) : t.Good Q P := by
  obtain rfl := Host.Outcome.next.inj e
  repeat' first
    | (with_reducible first | assumption | intro _ | apply State.Good.ite | apply State.Good.foldl | apply StepRes.Good.ite | apply StepRes.Good.done | apply StepRes.Good.hold | apply StepRes.Good.halt | apply StepRes.Good.fault | apply StepRes.Good.over | apply good_issue | apply good_shloadStep)

/-- `execTclr` keeps the frame. -/
theorem good_execTclr {t : State} (core : Nat) (st : Step) (s : State) (hs : s.Good Q P) (e : execTclr core st s = .next t) : t.Good Q P := by
  obtain rfl := Host.Outcome.next.inj e
  dsimp only
  repeat' first
    | (with_reducible first | assumption | intro _ | apply State.Good.ite | apply State.Good.foldl | apply StepRes.Good.ite | apply StepRes.Good.done | apply StepRes.Good.hold | apply StepRes.Good.halt | apply StepRes.Good.fault | apply StepRes.Good.over | apply good_setCore | apply good_issue)

/-- `State.mvecStep` keeps the frame. -/
theorem good_mvecStep (s : State) (c : Nat) (st : Step) (x : Desc) (hs : s.Good Q P) : (State.mvecStep s c st x).Good Q P := by
  unfold State.mvecStep
  dsimp only
  repeat' first
    | (with_reducible first | assumption | intro _ | apply State.Good.ite | apply State.Good.foldl | apply StepRes.Good.ite | apply StepRes.Good.done | apply StepRes.Good.hold | apply StepRes.Good.halt | apply StepRes.Good.fault | apply StepRes.Good.over | apply good_setCore | apply good_checkedRead | apply good_guardAcc)

/-- `execMvec` keeps the frame. -/
theorem good_execMvec {t : State} (core : Nat) (st : Step) (s : State) (hs : s.Good Q P) (e : execMvec core st s = .next t) : t.Good Q P := by
  obtain rfl := Host.Outcome.next.inj e
  repeat' first
    | (with_reducible first | assumption | intro _ | apply State.Good.ite | apply State.Good.foldl | apply StepRes.Good.ite | apply StepRes.Good.done | apply StepRes.Good.hold | apply StepRes.Good.halt | apply StepRes.Good.fault | apply StepRes.Good.over | apply good_issue | apply good_mvecStep)

/-- `State.mvmatDo` keeps the frame. -/
theorem good_mvmatDo (s : State) (c : Nat) (st : Step) (x : Desc) (p : PassCtl) (amt n : Nat) (bs : List Byte) (hs : s.Good Q P) : (State.mvmatDo s c st x p amt n bs).Good Q P := by
  unfold State.mvmatDo
  dsimp only
  repeat' first
    | (with_reducible first | assumption | intro _ | apply State.Good.ite | apply State.Good.foldl | apply State.Good.store | apply Store.Ok.ite | apply Store.Ok.foldl | apply Store.Ok.foldlPair | apply gives_take | apply good_storeAm)

/-- `State.mvmatStep` keeps the frame. -/
theorem good_mvmatStep (s : State) (c : Nat) (st : Step) (x : Desc) (hs : s.Good Q P) : (State.mvmatStep s c st x).Good Q P := by
  unfold State.mvmatStep
  dsimp only
  repeat' first
    | (with_reducible first | assumption | intro _ | apply State.Good.ite | apply State.Good.foldl | apply StepRes.Good.ite | apply StepRes.Good.done | apply StepRes.Good.hold | apply StepRes.Good.halt | apply StepRes.Good.fault | apply StepRes.Good.over | apply good_checkedRead | apply good_guardAcc | apply good_mvmatDo)

/-- `execMvmat` keeps the frame. -/
theorem good_execMvmat {t : State} (core : Nat) (st : Step) (s : State) (hs : s.Good Q P) (e : execMvmat core st s = .next t) : t.Good Q P := by
  obtain rfl := Host.Outcome.next.inj e
  repeat' first
    | (with_reducible first | assumption | intro _ | apply State.Good.ite | apply State.Good.foldl | apply StepRes.Good.ite | apply StepRes.Good.done | apply StepRes.Good.hold | apply StepRes.Good.halt | apply StepRes.Good.fault | apply StepRes.Good.over | apply good_issue | apply good_mvmatStep)

/-- `State.sfuFlags` keeps the frame. -/
theorem good_sfuFlags (s : State) (c : Nat) (x : Desc) (f : FlagSet) (hs : s.Good Q P) : (State.sfuFlags s c x f).Good Q P := by
  unfold State.sfuFlags
  repeat' first
    | (with_reducible first | assumption | intro _ | apply State.Good.ite | apply State.Good.foldl | apply good_raiseSfu | apply good_raiseDesc)

/-- `State.noteRecovery` keeps the frame. -/
theorem good_noteRecovery (s : State) (c : Nat) (x : Desc) (uses : List Nat) (hs : s.Good Q P) : (State.noteRecovery s c x uses).Good Q P := by
  unfold State.noteRecovery
  repeat' first
    | (with_reducible first | assumption | intro _ | apply State.Good.ite | apply State.Good.foldl | apply good_noteStatus)

/-- `State.parityRetried` keeps the frame. -/
theorem good_parityRetried (s : State) (c : Nat) (x : Desc) (fn : Nat) (hs : s.Good Q P) : (State.parityRetried s c x fn).Good Q P := by
  unfold State.parityRetried
  repeat' first
    | (with_reducible first | assumption | intro _ | apply State.Good.ite | apply State.Good.foldl | apply good_logEvent | apply good_noteRepeat | apply good_noteStatus)

/-- `State.parityChecked` keeps the frame. -/
theorem good_parityChecked (s : State) (c : Nat) (x : Desc) (uses : List Nat) (p : ParityOutcome) (act : State → StepRes) (hs : s.Good Q P) (h_act : ∀ s , s.Good Q P → (act s ).Good Q P) : (State.parityChecked s c x uses p act).Good Q P := by
  unfold State.parityChecked
  repeat' first
    | (with_reducible first | assumption | intro _ | apply State.Good.ite | apply State.Good.foldl | apply StepRes.Good.ite | apply StepRes.Good.done | apply StepRes.Good.hold | apply StepRes.Good.halt | apply StepRes.Good.fault | apply StepRes.Good.over | apply h_act | apply good_seedFallback | apply good_coreFault | apply good_noteRecovery | apply good_parityRetried)
    | split

/-- `State.noteTarget` keeps the frame. -/
theorem good_noteTarget (s : State) (x : Desc) (fmt : Nat) (rows : List RowOut) (hs : s.Good Q P) : (State.noteTarget s x fmt rows).Good Q P := by
  unfold State.noteTarget
  dsimp only
  repeat' first
    | (with_reducible first | assumption | intro _ | apply State.Good.ite | apply State.Good.foldl | apply good_setKernel)

/-- `State.sfuStore` keeps the frame. -/
theorem good_sfuStore (s : State) (c : Nat) (x : Desc) (g : SfuProg) (row frow : Nat) (o : SfuOut) (hs : s.Good Q P) : (State.sfuStore s c x g row frow o).Good Q P := by
  unfold State.sfuStore
  dsimp only
  repeat' first
    | (with_reducible first | assumption | intro _ | apply State.Good.ite | apply State.Good.foldl | apply good_setCore | apply good_feed | apply good_writeRowsAt | apply good_sfuFlags | apply good_noteTarget)

/-- `State.sfuStep` keeps the frame. -/
theorem good_sfuStep (s : State) (c : Nat) (st : Step) (x : Desc) (hs : s.Good Q P) : (State.sfuStep s c st x).Good Q P := by
  unfold State.sfuStep
  dsimp only
  repeat' first
    | (with_reducible first | assumption | intro _ | apply State.Good.ite | apply State.Good.foldl | apply State.Good.foldlPair | apply State.Good.store | apply Store.Ok.ite | apply Store.Ok.foldl | apply Store.Ok.foldlPair | apply StepRes.Good.ite | apply StepRes.Good.done | apply StepRes.Good.hold | apply StepRes.Good.halt | apply StepRes.Good.fault | apply StepRes.Good.over | apply good_checkedRead | apply good_guardAcc | apply good_parityChecked | apply good_sfuStore)
    | split

/-- `execSfu` keeps the frame. -/
theorem good_execSfu {t : State} (core : Nat) (st : Step) (s : State) (hs : s.Good Q P) (e : execSfu core st s = .next t) : t.Good Q P := by
  obtain rfl := Host.Outcome.next.inj e
  repeat' first
    | (with_reducible first | assumption | intro _ | apply State.Good.ite | apply State.Good.foldl | apply StepRes.Good.ite | apply StepRes.Good.done | apply StepRes.Good.hold | apply StepRes.Good.halt | apply StepRes.Good.fault | apply StepRes.Good.over | apply good_issue | apply good_sfuStep)

/-- `State.haltStream` keeps the frame. -/
theorem good_haltStream (s : State) (c : Nat) (d : Did) (r : Run) (hs : s.Good Q P) : (State.haltStream s c d r).Good Q P := by
  unfold State.haltStream
  repeat' first
    | (with_reducible first | assumption | intro _ | apply State.Good.ite | apply State.Good.foldl | apply good_haltAt)
    | split

/-- `State.streamMet` keeps the frame. -/
theorem good_streamMet (s : State) (c : Nat) (x : Desc) (bad : Option (Nat × Run × Acc)) (part : Nat → State) (stop : State → StepRes) (act : Unit → StepRes) (hs : s.Good Q P) (h_part : ∀ n, (part n).Good Q P) (h_stop : ∀ s , s.Good Q P → (stop s ).Good Q P) (h_act : ∀ u, (act u).Good Q P) : (State.streamMet s c x bad part stop act).Good Q P := by
  unfold State.streamMet
  repeat' first
    | (with_reducible first | assumption | intro _ | apply State.Good.ite | apply State.Good.foldl | apply StepRes.Good.ite | apply StepRes.Good.done | apply StepRes.Good.hold | apply StepRes.Good.halt | apply StepRes.Good.fault | apply StepRes.Good.over | apply h_part | apply h_stop | apply h_act | apply good_retire | apply good_stopKernel | apply good_rowLost | apply good_stop | apply good_haltStream)
    | split

/-- `State.streamRuns` keeps the frame. -/
theorem good_streamRuns (s : State) (c : Nat) (x : Desc) (runs : Nat → List Run) (j m : Nat) (part : Nat → State) (stop : State → StepRes) (act : Unit → StepRes) (hs : s.Good Q P) (h_part : ∀ n, (part n).Good Q P) (h_stop : ∀ s , s.Good Q P → (stop s ).Good Q P) (h_act : ∀ u, (act u).Good Q P) : (State.streamRuns s c x runs j m part stop act).Good Q P := by
  unfold State.streamRuns
  repeat' first
    | (with_reducible first | assumption | intro _ | apply State.Good.ite | apply State.Good.foldl | apply StepRes.Good.ite | apply StepRes.Good.done | apply StepRes.Good.hold | apply StepRes.Good.halt | apply StepRes.Good.fault | apply StepRes.Good.over | apply h_part | apply h_stop | apply h_act | apply good_stop | apply good_streamMet)

/-- `State.stepRuns` keeps the frame. -/
theorem good_stepRuns (s : State) (c : Nat) (x : Desc) (runs : List Run) (act : Unit → StepRes) (hs : s.Good Q P) (h_act : ∀ u, (act u).Good Q P) : (State.stepRuns s c x runs act).Good Q P := by
  unfold State.stepRuns
  repeat' first
    | (with_reducible first | assumption | intro _ | apply State.Good.ite | apply State.Good.foldl | apply StepRes.Good.ite | apply StepRes.Good.done | apply StepRes.Good.hold | apply StepRes.Good.halt | apply StepRes.Good.fault | apply StepRes.Good.over | apply h_act | apply good_streamRuns)

/-- `State.putOut` keeps the frame. -/
theorem ok_putOut (s : State) (x : Desc) (e : Xfer) (m : Store) (z y : Nat) (r : RowOut) (hs : m.Ok) : (State.putOut s x e m z y r).Ok := by
  unfold State.putOut
  dsimp only
  repeat' first
    | (with_reducible first | assumption | intro _ | apply State.Good.ite | apply State.Good.foldl | apply State.Good.store | apply Store.Ok.ite | apply Store.Ok.foldl | apply Store.Ok.foldlPair | apply ok_storeRun)

/-- `State.countRows` keeps the frame. -/
theorem good_countRows (s : State) (x : Desc) (rows : List RowOut) (hs : s.Good Q P) : (State.countRows s x rows).Good Q P := by
  unfold State.countRows
  dsimp only
  repeat' first
    | (with_reducible first | assumption | intro _ | apply State.Good.ite | apply State.Good.foldl | apply State.Good.store | apply Store.Ok.ite | apply Store.Ok.foldl | apply Store.Ok.foldlPair | apply good_setKernel)

/-- `State.countStored` keeps the frame. -/
theorem good_countStored (s : State) (x : Desc) (e : Xfer) (rows : List RowOut) (hs : s.Good Q P) : (State.countStored s x e rows).Good Q P := by
  unfold State.countStored
  repeat' first
    | (with_reducible first | assumption | intro _ | apply State.Good.ite | apply State.Good.foldl | apply good_countRows)

/-- `State.epiDo` keeps the frame. -/
theorem good_epiDo (s : State) (c : Nat) (st : Step) (x : Desc) (e : Xfer) (w : ConvWord) (t : Nat) (sup : State → Nat → List Byte) (store : State → List RowOut → State) (hs : s.Good Q P) (h_store : ∀ s (a0 : List RowOut), s.Good Q P → (store s a0).Good Q P) : (State.epiDo s c st x e w t sup store).Good Q P := by
  unfold State.epiDo
  dsimp only
  repeat' first
    | (with_reducible first | assumption | intro _ | apply State.Good.ite | apply State.Good.foldl | apply State.Good.store | apply Store.Ok.ite | apply Store.Ok.foldl | apply Store.Ok.foldlPair | apply StepRes.Good.ite | apply StepRes.Good.done | apply StepRes.Good.hold | apply StepRes.Good.halt | apply StepRes.Good.fault | apply StepRes.Good.over | apply h_store | apply good_checkedRead | apply good_sfuFlags | apply good_parityChecked)

/-- `State.putRowPart` keeps the frame. -/
theorem good_putRowPart (s : State) (r : PageRef) (k first : Nat) (o : RowOut) (hs : s.Good Q P) : (State.putRowPart s r k first o).Good Q P := by
  unfold State.putRowPart
  dsimp only
  repeat' first
    | (with_reducible first | assumption | intro _ | apply State.Good.ite | apply State.Good.foldl | apply good_putRow)

/-- `State.boltStore` keeps the frame. -/
theorem good_boltStore (s : State) (c : Nat) (st : Step) (x : Desc) (e : Xfer) (t j m : Nat) (hs : s.Good Q P) : (State.boltStore s c st x e t j m).1.Good Q P := by
  unfold State.boltStore
  dsimp only
  repeat' first
    | (with_reducible first | assumption | intro _ | apply State.Good.ite | apply State.Good.foldl | apply State.Good.foldlPair | apply good_noteStatus | apply gives_take | apply good_countRows | apply good_putRowPart)
    | split

/-- `State.epiStep` keeps the frame. -/
theorem good_epiStep (s : State) (c : Nat) (st : Step) (x : Desc) (hs : s.Good Q P) : (State.epiStep s c st x).Good Q P := by
  unfold State.epiStep
  dsimp only
  repeat' first
    | (with_reducible first | assumption | intro _ | apply State.Good.ite | apply State.Good.foldl | apply State.Good.store | apply Store.Ok.ite | apply Store.Ok.foldl | apply Store.Ok.foldlPair | apply StepRes.Good.ite | apply StepRes.Good.done | apply StepRes.Good.hold | apply StepRes.Good.halt | apply StepRes.Good.fault | apply StepRes.Good.over | apply good_setCore | apply good_withStore | apply good_writeRowsAt | apply good_putSsRows | apply good_checkedRead | apply good_guardAcc | apply good_sfuFlags | apply good_parityChecked | apply good_noteTarget | apply good_streamMet | apply good_streamRuns | apply good_stepRuns | apply ok_putOut | apply good_countStored | apply good_epiDo | apply good_boltStore)
    | split

/-- `execEpi` keeps the frame. -/
theorem good_execEpi {t : State} (core : Nat) (st : Step) (s : State) (hs : s.Good Q P) (e : execEpi core st s = .next t) : t.Good Q P := by
  obtain rfl := Host.Outcome.next.inj e
  repeat' first
    | (with_reducible first | assumption | intro _ | apply State.Good.ite | apply State.Good.foldl | apply StepRes.Good.ite | apply StepRes.Good.done | apply StepRes.Good.hold | apply StepRes.Good.halt | apply StepRes.Good.fault | apply StepRes.Good.over | apply good_issue | apply good_epiStep)

end Sys2Proof.Machine
end

