-- ==== Sys2Proof/Laws/KeepCoreDma.lean ====
section
/-!
SUPPORT. The operations of Machine/CoreDma.lean keep the frame of `State.Good`.
-/

namespace Sys2Proof.Machine

variable {Q : List Instr} {P : Part}

/-- `State.stampLoom` keeps the frame. -/
theorem good_stampLoom (s : State) (hs : s.Good Q P) : s.stampLoom.2.Good Q P := hs

/-- `State.sendPost` keeps the frame. -/
theorem good_sendPost (s : State) (p : Post) (hs : s.Good Q P) : (State.sendPost s p).Good Q P := by
  unfold State.sendPost
  dsimp only
  repeat' first
    | (with_reducible first | assumption | intro _ | apply State.Good.ite | apply State.Good.foldl | apply good_setCore | apply good_stampLoom)

/-- `State.sendPosts` keeps the frame. -/
theorem good_sendPosts (s : State) (c : Nat) (hs : s.Good Q P) : (State.sendPosts s c).Good Q P := by
  unfold State.sendPosts
  dsimp only
  repeat' first
    | (with_reducible first | assumption | intro _ | apply State.Good.ite | apply State.Good.foldl | apply good_setCore | apply good_sendPost)

/-- `State.postTo` keeps the frame. -/
theorem good_postTo {s t : State} {c : Nat} {p : Post} (e : s.postTo c p = some t) (hs : s.Good Q P) : t.Good Q P := by
  unfold State.postTo at e
  dsimp only at e
  split at e
  · cases e; exact good_sendPosts _ _ (good_setCore _ _ _ hs)
  · cases e

/-- `State.semwStep` keeps the frame. -/
theorem good_semwStep (s : State) (c : Nat) (st : Step) (hs : s.Good Q P) : (State.semwStep s c st).Good Q P := by
  unfold State.semwStep
  dsimp only
  repeat' first
    | (with_reducible first | assumption | intro _ | apply State.Good.ite | apply State.Good.foldl | apply StepRes.Good.ite | apply StepRes.Good.done | apply StepRes.Good.hold | apply StepRes.Good.halt | apply StepRes.Good.fault | apply StepRes.Good.over | apply good_setCore | apply good_endKernelOn)

/-- `execSemw` keeps the frame. -/
theorem good_execSemw {t : State} (core : Nat) (st : Step) (s : State) (hs : s.Good Q P) (e : execSemw core st s = .next t) : t.Good Q P := by
  obtain rfl := Host.Outcome.next.inj e
  repeat' first
    | (with_reducible first | assumption | intro _ | apply State.Good.ite | apply State.Good.foldl | apply StepRes.Good.ite | apply StepRes.Good.done | apply StepRes.Good.hold | apply StepRes.Good.halt | apply StepRes.Good.fault | apply StepRes.Good.over | apply good_issue | apply good_semwStep)

/-- `State.sempStep` keeps the frame. -/
theorem good_sempStep (s : State) (c : Nat) (st : Step) (x : Desc) (hs : s.Good Q P) : (State.sempStep s c st x).Good Q P := by
  unfold State.sempStep
  dsimp only
  repeat' first
    | (with_reducible first | assumption | intro _ | apply State.Good.ite | apply State.Good.foldl | apply StepRes.Good.ite | apply StepRes.Good.done | apply StepRes.Good.hold | apply StepRes.Good.halt | apply StepRes.Good.fault | apply StepRes.Good.over)
    | (with_reducible refine good_postTo (by assumption) ?_)
    | split

/-- `execSemp` keeps the frame. -/
theorem good_execSemp {t : State} (core : Nat) (st : Step) (s : State) (hs : s.Good Q P) (e : execSemp core st s = .next t) : t.Good Q P := by
  obtain rfl := Host.Outcome.next.inj e
  repeat' first
    | (with_reducible first | assumption | intro _ | apply State.Good.ite | apply State.Good.foldl | apply StepRes.Good.ite | apply StepRes.Good.done | apply StepRes.Good.hold | apply StepRes.Good.halt | apply StepRes.Good.fault | apply StepRes.Good.over | apply good_issue | apply good_sempStep)

/-- `State.postArrives` keeps the frame. -/
theorem good_postArrives (s : State) (c : Nat) (hs : s.Good Q P) : (State.postArrives s c).Good Q P := by
  unfold State.postArrives
  dsimp only
  repeat' first
    | (with_reducible first | assumption | intro _ | apply State.Good.ite | apply State.Good.foldl | apply good_setCore | apply good_coreFault)
    | split

/-- `execSemaphorePostArrive` keeps the frame. -/
theorem good_execSemaphorePostArrive {t : State} (core : Nat) (s : State) (hs : s.Good Q P) (e : execSemaphorePostArrive core s = .next t) : t.Good Q P := by
  obtain rfl := Host.Outcome.next.inj e
  repeat' first
    | (with_reducible first | assumption | intro _ | apply State.Good.ite | apply State.Good.foldl | apply good_postArrives)

/-- `State.rtakeStep` keeps the frame. -/
theorem good_rtakeStep (s : State) (c : Nat) (st : Step) (x : Desc) (hs : s.Good Q P) : (State.rtakeStep s c st x).Good Q P := by
  unfold State.rtakeStep
  dsimp only
  repeat' first
    | (with_reducible first | assumption | intro _ | apply State.Good.ite | apply State.Good.foldl | apply StepRes.Good.ite | apply StepRes.Good.done | apply StepRes.Good.hold | apply StepRes.Good.halt | apply StepRes.Good.fault | apply StepRes.Good.over | apply good_setCore)
    | split

/-- `execRtake` keeps the frame. -/
theorem good_execRtake {t : State} (core : Nat) (st : Step) (s : State) (hs : s.Good Q P) (e : execRtake core st s = .next t) : t.Good Q P := by
  obtain rfl := Host.Outcome.next.inj e
  repeat' first
    | (with_reducible first | assumption | intro _ | apply State.Good.ite | apply State.Good.foldl | apply StepRes.Good.ite | apply StepRes.Good.done | apply StepRes.Good.hold | apply StepRes.Good.halt | apply StepRes.Good.fault | apply StepRes.Good.over | apply good_issue | apply good_rtakeStep)

/-- `State.rrelStep` keeps the frame. -/
theorem good_rrelStep (s : State) (c : Nat) (st : Step) (x : Desc) (hs : s.Good Q P) : (State.rrelStep s c st x).Good Q P := by
  unfold State.rrelStep
  dsimp only
  repeat' first
    | (with_reducible first | assumption | intro _ | apply State.Good.ite | apply State.Good.foldl | apply StepRes.Good.ite | apply StepRes.Good.done | apply StepRes.Good.hold | apply StepRes.Good.halt | apply StepRes.Good.fault | apply StepRes.Good.over | apply good_setCore)
    | split

/-- `execRrel` keeps the frame. -/
theorem good_execRrel {t : State} (core : Nat) (st : Step) (s : State) (hs : s.Good Q P) (e : execRrel core st s = .next t) : t.Good Q P := by
  obtain rfl := Host.Outcome.next.inj e
  repeat' first
    | (with_reducible first | assumption | intro _ | apply State.Good.ite | apply State.Good.foldl | apply StepRes.Good.ite | apply StepRes.Good.done | apply StepRes.Good.hold | apply StepRes.Good.halt | apply StepRes.Good.fault | apply StepRes.Good.over | apply good_issue | apply good_rrelStep)

/-- `State.wopenStep` keeps the frame. -/
theorem good_wopenStep (s : State) (c : Nat) (st : Step) (x : Desc) (hs : s.Good Q P) : (State.wopenStep s c st x).Good Q P := by
  unfold State.wopenStep
  dsimp only
  repeat' first
    | (with_reducible first | assumption | intro _ | apply State.Good.ite | apply State.Good.foldl | apply StepRes.Good.ite | apply StepRes.Good.done | apply StepRes.Good.hold | apply StepRes.Good.halt | apply StepRes.Good.fault | apply StepRes.Good.over | apply good_setCore)

/-- `execWopen` keeps the frame. -/
theorem good_execWopen {t : State} (core : Nat) (st : Step) (s : State) (hs : s.Good Q P) (e : execWopen core st s = .next t) : t.Good Q P := by
  obtain rfl := Host.Outcome.next.inj e
  repeat' first
    | (with_reducible first | assumption | intro _ | apply State.Good.ite | apply State.Good.foldl | apply StepRes.Good.ite | apply StepRes.Good.done | apply StepRes.Good.hold | apply StepRes.Good.halt | apply StepRes.Good.fault | apply StepRes.Good.over | apply good_issue | apply good_wopenStep)

/-- `State.wcloseStep` keeps the frame. -/
theorem good_wcloseStep (s : State) (c : Nat) (st : Step) (x : Desc) (hs : s.Good Q P) : (State.wcloseStep s c st x).Good Q P := by
  unfold State.wcloseStep
  dsimp only
  repeat' first
    | (with_reducible first | assumption | intro _ | apply State.Good.ite | apply State.Good.foldl | apply StepRes.Good.ite | apply StepRes.Good.done | apply StepRes.Good.hold | apply StepRes.Good.halt | apply StepRes.Good.fault | apply StepRes.Good.over | apply good_setCore)

/-- `execWclose` keeps the frame. -/
theorem good_execWclose {t : State} (core : Nat) (st : Step) (s : State) (hs : s.Good Q P) (e : execWclose core st s = .next t) : t.Good Q P := by
  obtain rfl := Host.Outcome.next.inj e
  repeat' first
    | (with_reducible first | assumption | intro _ | apply State.Good.ite | apply State.Good.foldl | apply StepRes.Good.ite | apply StepRes.Good.done | apply StepRes.Good.hold | apply StepRes.Good.halt | apply StepRes.Good.fault | apply StepRes.Good.over | apply good_issue | apply good_wcloseStep)

/-- `State.moveCursor` keeps the frame. -/
theorem good_moveCursor (s : State) (ctx c i rows n : Nat) (hs : s.Good Q P) : (State.moveCursor s ctx c i rows n).Good Q P := by
  unfold State.moveCursor
  dsimp only
  repeat' first
    | (with_reducible first | assumption | intro _ | apply State.Good.ite | apply State.Good.foldl | apply good_setKernel)

/-- `State.spost` keeps the frame. -/
theorem good_spost {s t : State} {c target ctx : Nat} {st : Step} {lo : Nat} (e : s.spost c target ctx st lo = some t) (hs : s.Good Q P) : t.Good Q P := by
  unfold State.spost at e
  split at e
  · exact good_postTo e hs
  · cases e; exact hs

/-- `State.inPart` keeps the frame. -/
theorem good_inPart (s : State) (c : Nat) (x : Desc) (e : Xfer) (lay : Nat × Nat) (v : Stream) (new : List RowOut) (to_ : Nat) (hs : s.Good Q P) : (State.inPart s c x e lay v new to_).1.Good Q P := by
  unfold State.inPart
  dsimp only
  repeat' first
    | (with_reducible first | assumption | intro _ | apply State.Good.ite | apply State.Good.foldl | apply State.Good.foldlPair | apply good_setCore | apply good_raiseArray | apply good_raiseDesc | apply gives_take | apply good_writeRowsAt)

/-- `State.dmainRun` keeps the frame. -/
theorem good_dmainRun (s : State) (c : Nat) (x : Desc) (e : Xfer) (lay : Nat × Nat) (ecc : EccOutcome) (v : Stream) (hs : s.Good Q P) : (State.dmainRun s c x e lay ecc v).Good Q P := by
  unfold State.dmainRun
  dsimp only
  repeat' first
    | (with_reducible first | assumption | intro _ | apply State.Good.ite | apply State.Good.foldl | apply StepRes.Good.ite | apply StepRes.Good.done | apply StepRes.Good.hold | apply StepRes.Good.halt | apply StepRes.Good.fault | apply StepRes.Good.over | apply good_setCore | apply gives_entry | apply good_checkedRead | apply good_streamRuns | apply good_moveCursor | apply good_inPart)
    | (with_reducible refine good_spost (by assumption) ?_)
    | split

/-- `State.dmainStep` keeps the frame. -/
theorem good_dmainStep (s : State) (c : Nat) (st : Step) (x : Desc) (hs : s.Good Q P) : (State.dmainStep s c st x).Good Q P := by
  unfold State.dmainStep
  dsimp only
  repeat' first
    | (with_reducible first | assumption | intro _ | apply State.Good.ite | apply State.Good.foldl | apply StepRes.Good.ite | apply StepRes.Good.done | apply StepRes.Good.hold | apply StepRes.Good.halt | apply StepRes.Good.fault | apply StepRes.Good.over | apply good_setCore | apply good_dmainRun)
    | split

/-- `State.goesOn` keeps the frame. -/
theorem good_goesOn (s : State) (c : Nat) (r : StepRes) (hs : s.Good Q P) (hr : r.Good Q P) : (s.goesOn c r).Good Q P := by
  rcases r with t | k | t | e | t
  · exact hr
  · exact hs
  · exact hr
  · exact good_coreFault _ _ _ hs
  · exact hr

/-- `State.dmainOn` keeps the frame. -/
theorem good_dmainOn (s : State) (c : Nat) (x : Desc) (v : Stream) (ecc : EccOutcome) (hs : s.Good Q P) : (State.dmainOn s c x v ecc).Good Q P := by
  unfold State.dmainOn
  dsimp only
  repeat' first
    | (with_reducible first | assumption | intro _ | apply State.Good.ite | apply State.Good.foldl | apply gives_entry | apply good_dmainRun | apply good_goesOn)
    | split

/-- `execDmain` keeps the frame. -/
theorem good_execDmain {t : State} (core : Nat) (st : Step) (s : State) (hs : s.Good Q P) (e : execDmain core st s = .next t) : t.Good Q P := by
  obtain rfl := Host.Outcome.next.inj e
  repeat' first
    | (with_reducible first | assumption | intro _ | apply State.Good.ite | apply State.Good.foldl | apply StepRes.Good.ite | apply StepRes.Good.done | apply StepRes.Good.hold | apply StepRes.Good.halt | apply StepRes.Good.fault | apply StepRes.Good.over | apply good_issue | apply good_dmainStep | apply good_dmainOn)
    | split

/-- `State.putCols` keeps the frame. -/
theorem ok_putCols (s : State) (x : Desc) (e : Xfer) (m : Store) (z first : Nat) (outs : List RowOut) (hs : m.Ok) : (State.putCols s x e m z first outs).Ok := by
  unfold State.putCols
  dsimp only
  repeat' first
    | (with_reducible first | assumption | intro _ | apply State.Good.ite | apply State.Good.foldl | apply State.Good.store | apply Store.Ok.ite | apply Store.Ok.foldl | apply Store.Ok.foldlPair | apply ok_storeRun)

/-- `State.outMemory` keeps the frame. -/
theorem good_outMemory (s : State) (c : Nat) (x : Desc) (e : Xfer) (i n : Nat) (rows : List (List Byte)) (hs : s.Good Q P) : (State.outMemory s c x e i n rows).1.Good Q P := by
  unfold State.outMemory
  dsimp only
  repeat' first
    | (with_reducible first | assumption | intro _ | apply State.Good.ite | apply State.Good.foldl | apply State.Good.foldlPair | apply State.Good.store | apply Store.Ok.ite | apply Store.Ok.foldl | apply Store.Ok.foldlPair | apply good_setKernel | apply good_withStore | apply ok_putOut | apply good_countStored | apply ok_putCols)
    | split

/-- `State.bankDrop` keeps the frame. -/
theorem good_bankDrop (s : State) (src target row n code : Nat) (hs : s.Good Q P) : (State.bankDrop s src target row n code).Good Q P := by
  unfold State.bankDrop
  dsimp only
  repeat' first
    | (with_reducible first | assumption | intro _ | apply State.Good.ite | apply State.Good.foldl | apply good_logEvent | apply good_coreFault)

/-- `State.sendBlock` keeps the frame. -/
theorem good_sendBlock (s : State) (c ctx : Nat) (e : Xfer) (b : OutBlock) (hs : s.Good Q P) : (State.sendBlock s c ctx e b).Good Q P := by
  unfold State.sendBlock
  dsimp only
  repeat' first
    | (with_reducible first | assumption | intro _ | apply State.Good.ite | apply State.Good.foldl | apply State.Good.foldlPair | apply good_setCore | apply good_stampLoom)
    | split
    | (unfold State.Good State.MemOk; dsimp only; with_reducible apply State.Good.of_and; with_reducible first | assumption | apply State.Good.ite | apply State.Good.foldl | apply State.Good.foldlPair | apply good_setCore | apply good_stampLoom)

/-- `State.outDone` keeps the frame. -/
theorem good_outDone (s : State) (c : Nat) (st : Step) (x : Desc) (e : Xfer) (i n : Nat) (f : FlagSet) (target : Nat) (hs : s.Good Q P) : (State.outDone s c st x e i n f target).Good Q P := by
  unfold State.outDone
  repeat' first
    | (with_reducible first | assumption | intro _ | apply State.Good.ite | apply State.Good.foldl | apply StepRes.Good.ite | apply StepRes.Good.done | apply StepRes.Good.hold | apply StepRes.Good.halt | apply StepRes.Good.fault | apply StepRes.Good.over | apply good_sfuFlags | apply good_moveCursor)
    | (with_reducible refine good_spost (by assumption) ?_)
    | split

/-- `State.dmaoutMemory` keeps the frame. -/
theorem good_dmaoutMemory (s : State) (c : Nat) (x : Desc) (e : Xfer) (n : Nat) (v : Stream) (hs : s.Good Q P) : (State.dmaoutMemory s c x e n v).Good Q P := by
  unfold State.dmaoutMemory
  dsimp only
  repeat' first
    | (with_reducible first | assumption | intro _ | apply State.Good.ite | apply State.Good.foldl | apply StepRes.Good.ite | apply StepRes.Good.done | apply StepRes.Good.hold | apply StepRes.Good.halt | apply StepRes.Good.fault | apply StepRes.Good.over | apply good_setCore | apply gives_take | apply gives_entry | apply good_sfuFlags | apply good_streamRuns | apply good_outMemory | apply good_outDone)

/-- `State.dmaoutWindow` keeps the frame. -/
theorem good_dmaoutWindow (s : State) (c : Nat) (x : Desc) (e : Xfer) (n : Nat) (v : Stream) (hs : s.Good Q P) : (State.dmaoutWindow s c x e n v).Good Q P := by
  unfold State.dmaoutWindow
  dsimp only
  repeat' first
    | (with_reducible first | assumption | intro _ | apply State.Good.ite | apply State.Good.foldl | apply StepRes.Good.ite | apply StepRes.Good.done | apply StepRes.Good.hold | apply StepRes.Good.halt | apply StepRes.Good.fault | apply StepRes.Good.over | apply good_setKernel | apply good_setCore | apply gives_entry | apply good_all | apply good_streamRuns | apply good_sendBlock | apply good_outDone)

/-- `State.dmaoutRun` keeps the frame. -/
theorem good_dmaoutRun (s : State) (c : Nat) (x : Desc) (e : Xfer) (v : Stream) (hs : s.Good Q P) : (State.dmaoutRun s c x e v).Good Q P := by
  unfold State.dmaoutRun
  dsimp only
  repeat' first
    | (with_reducible first | assumption | intro _ | apply State.Good.ite | apply State.Good.foldl | apply StepRes.Good.ite | apply StepRes.Good.done | apply StepRes.Good.hold | apply StepRes.Good.halt | apply StepRes.Good.fault | apply StepRes.Good.over | apply gives_entry | apply good_dmaoutMemory | apply good_dmaoutWindow)

/-- `State.dmaoutStep` keeps the frame. -/
theorem good_dmaoutStep (s : State) (c : Nat) (st : Step) (x : Desc) (hs : s.Good Q P) : (State.dmaoutStep s c st x).Good Q P := by
  unfold State.dmaoutStep
  dsimp only
  repeat' first
    | (with_reducible first | assumption | intro _ | apply State.Good.ite | apply State.Good.foldl | apply StepRes.Good.ite | apply StepRes.Good.done | apply StepRes.Good.hold | apply StepRes.Good.halt | apply StepRes.Good.fault | apply StepRes.Good.over | apply good_checkedRead | apply good_guardAcc | apply good_dmaoutRun)
    | split

/-- `State.dmaoutOn` keeps the frame. -/
theorem good_dmaoutOn (s : State) (c : Nat) (x : Desc) (v : Stream) (hs : s.Good Q P) : (State.dmaoutOn s c x v).Good Q P := by
  unfold State.dmaoutOn
  dsimp only
  repeat' first
    | (with_reducible first | assumption | intro _ | apply State.Good.ite | apply State.Good.foldl | apply gives_entry | apply good_goesOn | apply good_dmaoutRun)
    | split

/-- `execDmaout` keeps the frame. -/
theorem good_execDmaout {t : State} (core : Nat) (st : Step) (s : State) (hs : s.Good Q P) (e : execDmaout core st s = .next t) : t.Good Q P := by
  obtain rfl := Host.Outcome.next.inj e
  repeat' first
    | (with_reducible first | assumption | intro _ | apply State.Good.ite | apply State.Good.foldl | apply StepRes.Good.ite | apply StepRes.Good.done | apply StepRes.Good.hold | apply StepRes.Good.halt | apply StepRes.Good.fault | apply StepRes.Good.over | apply good_issue | apply good_dmaoutStep | apply good_dmaoutOn)
    | split

/-- `execHoldTimeout` keeps the frame. -/
theorem good_execHoldTimeout {t : State} (core : Nat) (s : State) (hs : s.Good Q P) (e : execHoldTimeout core s = .next t) : t.Good Q P := by
  obtain rfl := Host.Outcome.next.inj e
  dsimp only
  repeat' first
    | (with_reducible first | assumption | intro _ | apply State.Good.ite | apply State.Good.foldl | apply good_coreFault)

end Sys2Proof.Machine
end

