-- ==== Sys2Proof/Laws/KeepSkeins.lean ====
section
/-!
SUPPORT. The operations of Machine/Skeins.lean keep the frame of `State.Good`.
-/

namespace Sys2Proof.Machine

variable {Q : List Instr} {P : Part}

/-- `State.skeinStart` keeps the frame. -/
theorem good_skeinStart (s : State) (c n : Nat) (hs : s.Good Q P) : (State.skeinStart s c n).Good Q P := by
  unfold State.skeinStart
  dsimp only
  repeat' first
    | (with_reducible first | assumption | intro _ | apply State.Good.ite | apply State.Good.foldl | apply good_setCore)
    | split

/-- `execSkeinStart` keeps the frame. -/
theorem good_execSkeinStart {t : State} (core slot : Nat) (s : State) (hs : s.Good Q P) (e : execSkeinStart core slot s = .next t) : t.Good Q P := by
  obtain rfl := Host.Outcome.next.inj e
  repeat' first
    | (with_reducible first | assumption | intro _ | apply State.Good.ite | apply State.Good.foldl | apply good_skeinStart)

/-- `State.skeinDispatch` keeps the frame. -/
theorem good_skeinDispatch (s : State) (c : Nat) (hs : s.Good Q P) : (State.skeinDispatch s c).Good Q P := by
  unfold State.skeinDispatch
  dsimp only
  repeat' first
    | (with_reducible first | assumption | intro _ | apply State.Good.ite | apply State.Good.foldl | apply good_setCore)
    | split

/-- `execSkeinDispatch` keeps the frame. -/
theorem good_execSkeinDispatch {t : State} (core : Nat) (s : State) (hs : s.Good Q P) (e : execSkeinDispatch core s = .next t) : t.Good Q P := by
  obtain rfl := Host.Outcome.next.inj e
  repeat' first
    | (with_reducible first | assumption | intro _ | apply State.Good.ite | apply State.Good.foldl | apply good_skeinDispatch)

/-- `State.skeinFinish` keeps the frame. -/
theorem good_skeinFinish (s : State) (c n : Nat) (hs : s.Good Q P) : (State.skeinFinish s c n).Good Q P := by
  unfold State.skeinFinish
  dsimp only
  repeat' first
    | (with_reducible first | assumption | intro _ | apply State.Good.ite | apply State.Good.foldl | apply good_setCore)
    | split

/-- `execSkeinFinish` keeps the frame. -/
theorem good_execSkeinFinish {t : State} (core slot : Nat) (s : State) (hs : s.Good Q P) (e : execSkeinFinish core slot s = .next t) : t.Good Q P := by
  obtain rfl := Host.Outcome.next.inj e
  repeat' first
    | (with_reducible first | assumption | intro _ | apply State.Good.ite | apply State.Good.foldl | apply good_skeinFinish)

end Sys2Proof.Machine
end

