-- ==== Sys2Proof/Laws/KeepSwap.lean ====
section
/-!
SUPPORT. The operations of Machine/Swap.lean keep the frame of `State.Good`.
-/

namespace Sys2Proof.Machine

variable {Q : List Instr} {P : Part}

/-- `State.swapFlip` keeps the frame. -/
theorem good_swapFlip (s : State) (x : Desc) (hs : s.Good Q P) : (State.swapFlip s x).Good Q P := by
  unfold State.swapFlip
  dsimp only
  repeat' first
    | (with_reducible first | assumption | intro _ | apply State.Good.ite | apply State.Good.foldl | apply good_setDesc | apply good_retire | apply good_flipSlot)

/-- `execTableSwapFlip` keeps the frame. -/
theorem good_execTableSwapFlip {t : State} (d : Did) (s : State) (hs : s.Good Q P) (e : execTableSwapFlip d s = .next t) : t.Good Q P := by
  obtain rfl := Host.Outcome.next.inj e
  repeat' first
    | (with_reducible first | assumption | intro _ | apply State.Good.ite | apply State.Good.foldl | apply good_swapFlip)
    | split

end Sys2Proof.Machine
end

