-- ==== Sys2Proof/Laws/KeepCommands.lean ====
section
/-!
SUPPORT. The operations of Machine/Commands.lean keep the frame of `State.Good`.
-/

namespace Sys2Proof.Machine

variable {Q : List Instr} {P : Part}

/-- `State.checkedCommand` keeps the frame. -/
theorem good_checkedCommand (s : State) (c : SentCommand) (act : State → State) (hs : s.Good Q P)
    (h_act : ∀ s : State, s.Good Q P → (act s).Good Q P) : (s.checkedCommand c act).Good Q P := by
  unfold State.checkedCommand
  split
  · exact good_ccoreExpiry _ _ _ hs
  · rename_i x _ _
    have h := good_readsMet (if c.chk = .again then s.tableRetried x else s) x c.reads (.ite (good_tableRetried _ _ hs) hs)
    split
    · rename_i e
      rw [e] at h
      exact h_act _ h
    · rename_i e
      rw [e] at h
      exact h
  · exact h_act _ hs

/-- `execBoltStep` keeps the frame. -/
theorem good_execBoltStep {t : State} (c : SentCommand) (s : State) (hs : s.Good Q P) (e : execBoltStep c s = .next t) : t.Good Q P := by
  obtain rfl := Host.Outcome.next.inj e
  repeat' first
    | (with_reducible first | assumption | intro _ | apply State.Good.ite | apply State.Good.foldl | apply good_boltStepCmd | apply good_checkedCommand)

/-- `execBoltCommit` keeps the frame. -/
theorem good_execBoltCommit {t : State} (c : SentCommand) (s : State) (hs : s.Good Q P) (e : execBoltCommit c s = .next t) : t.Good Q P := by
  obtain rfl := Host.Outcome.next.inj e
  repeat' first
    | (with_reducible first | assumption | intro _ | apply State.Good.ite | apply State.Good.foldl | apply good_boltCommitCmd | apply good_checkedCommand)

/-- `execBoltMigrateMove` keeps the frame. -/
theorem good_execBoltMigrateMove {t : State} (c : SentCommand) (s : State) (hs : s.Good Q P) (e : execBoltMigrateMove c s = .next t) : t.Good Q P := by
  obtain rfl := Host.Outcome.next.inj e
  repeat' first
    | (with_reducible first | assumption | intro _ | apply State.Good.ite | apply State.Good.foldl | apply good_boltMigrateMoveCmd | apply good_checkedCommand)

/-- `execBoltMigrateExport` keeps the frame. -/
theorem good_execBoltMigrateExport {t : State} (c : SentCommand) (s : State) (hs : s.Good Q P) (e : execBoltMigrateExport c s = .next t) : t.Good Q P := by
  obtain rfl := Host.Outcome.next.inj e
  repeat' first
    | (with_reducible first | assumption | intro _ | apply State.Good.ite | apply State.Good.foldl | apply good_boltMigrateExportCmd | apply good_checkedCommand)

/-- `execBoltMigrateImport` keeps the frame. -/
theorem good_execBoltMigrateImport {t : State} (c : SentCommand) (s : State) (hs : s.Good Q P) (e : execBoltMigrateImport c s = .next t) : t.Good Q P := by
  obtain rfl := Host.Outcome.next.inj e
  repeat' first
    | (with_reducible first | assumption | intro _ | apply State.Good.ite | apply State.Good.foldl | apply good_boltMigrateImportCmd | apply good_checkedCommand)

/-- `execBoltMigrateCheck` keeps the frame. -/
theorem good_execBoltMigrateCheck {t : State} (c : SentCommand) (s : State) (hs : s.Good Q P) (e : execBoltMigrateCheck c s = .next t) : t.Good Q P := by
  obtain rfl := Host.Outcome.next.inj e
  repeat' first
    | (with_reducible first | assumption | intro _ | apply State.Good.ite | apply State.Good.foldl | apply good_boltMigrateCheckCmd | apply good_checkedCommand)

/-- `execBoltPoolCreate` keeps the frame. -/
theorem good_execBoltPoolCreate {t : State} (c : SentCommand) (s : State) (hs : s.Good Q P) (e : execBoltPoolCreate c s = .next t) : t.Good Q P := by
  obtain rfl := Host.Outcome.next.inj e
  repeat' first
    | (with_reducible first | assumption | intro _ | apply State.Good.ite | apply State.Good.foldl | apply good_boltPoolCreateCmd | apply good_checkedCommand)

/-- `execBoltPoolDestroy` keeps the frame. -/
theorem good_execBoltPoolDestroy {t : State} (c : SentCommand) (s : State) (hs : s.Good Q P) (e : execBoltPoolDestroy c s = .next t) : t.Good Q P := by
  obtain rfl := Host.Outcome.next.inj e
  repeat' first
    | (with_reducible first | assumption | intro _ | apply State.Good.ite | apply State.Good.foldl | apply good_boltPoolDestroyCmd | apply good_checkedCommand)

/-- `execBoltPoolReset` keeps the frame. -/
theorem good_execBoltPoolReset {t : State} (c : SentCommand) (s : State) (hs : s.Good Q P) (e : execBoltPoolReset c s = .next t) : t.Good Q P := by
  obtain rfl := Host.Outcome.next.inj e
  repeat' first
    | (with_reducible first | assumption | intro _ | apply State.Good.ite | apply State.Good.foldl | apply good_boltPoolResetCmd | apply good_checkedCommand)

/-- `execBoltPoolQuery` keeps the frame. -/
theorem good_execBoltPoolQuery {t : State} (c : SentCommand) (s : State) (hs : s.Good Q P) (e : execBoltPoolQuery c s = .next t) : t.Good Q P := by
  obtain rfl := Host.Outcome.next.inj e
  repeat' first
    | (with_reducible first | assumption | intro _ | apply State.Good.ite | apply State.Good.foldl | apply good_boltPoolQueryCmd | apply good_checkedCommand)

/-- `execBoltPoolSeqtab` keeps the frame. -/
theorem good_execBoltPoolSeqtab {t : State} (c : SentCommand) (s : State) (hs : s.Good Q P) (e : execBoltPoolSeqtab c s = .next t) : t.Good Q P := by
  obtain rfl := Host.Outcome.next.inj e
  repeat' first
    | (with_reducible first | assumption | intro _ | apply State.Good.ite | apply State.Good.foldl | apply good_boltPoolSeqtabCmd | apply good_checkedCommand)

/-- `execBoltPoolSync` keeps the frame. -/
theorem good_execBoltPoolSync {t : State} (c : SentCommand) (s : State) (hs : s.Good Q P) (e : execBoltPoolSync c s = .next t) : t.Good Q P := by
  obtain rfl := Host.Outcome.next.inj e
  repeat' first
    | (with_reducible first | assumption | intro _ | apply State.Good.ite | apply State.Good.foldl | apply good_boltPoolSyncCmd | apply good_checkedCommand)

/-- `execCollReduce` keeps the frame. -/
theorem good_execCollReduce {t : State} (c : SentCommand) (s : State) (hs : s.Good Q P) (e : execCollReduce c s = .next t) : t.Good Q P := by
  obtain rfl := Host.Outcome.next.inj e
  repeat' first
    | (with_reducible first | assumption | intro _ | apply State.Good.ite | apply State.Good.foldl | apply good_collReduceCmd | apply good_checkedCommand)

/-- `execCollCreate` keeps the frame. -/
theorem good_execCollCreate {t : State} (c : SentCommand) (s : State) (hs : s.Good Q P) (e : execCollCreate c s = .next t) : t.Good Q P := by
  obtain rfl := Host.Outcome.next.inj e
  repeat' first
    | (with_reducible first | assumption | intro _ | apply State.Good.ite | apply State.Good.foldl | apply good_collCreateCmd | apply good_checkedCommand)

/-- `execCollDestroy` keeps the frame. -/
theorem good_execCollDestroy {t : State} (c : SentCommand) (s : State) (hs : s.Good Q P) (e : execCollDestroy c s = .next t) : t.Good Q P := by
  obtain rfl := Host.Outcome.next.inj e
  repeat' first
    | (with_reducible first | assumption | intro _ | apply State.Good.ite | apply State.Good.foldl | apply good_collDestroyCmd | apply good_checkedCommand)

/-- `State.loopRetried` keeps the frame. -/
theorem good_loopRetried (s : State) (n : Nat) (hs : s.Good Q P) : (State.loopRetried s n).Good Q P := by
  unfold State.loopRetried
  dsimp only
  repeat' first
    | (with_reducible first | assumption | intro _ | apply State.Good.ite | apply State.Good.foldl | apply good_logEvent | apply good_noteRepeat | apply good_noteLoop)

/-- `State.loopReadsMet` keeps the frame. -/
theorem good_loopReadsMet (s : State) (n : Nat) (c : ReadCheck) (hs : s.Good Q P) : (s.loopReadsMet n c).2.Good Q P := by
  unfold State.loopReadsMet
  dsimp only
  split
  · exact .ite (good_noteLoop _ _ _ (good_readCured _ _ _ hs)) hs
  · split
    · exact good_loopFault _ _ _ (good_readLost _ _ _ hs)
    · exact hs
  · exact good_readsMet _ _ _ hs

/-- `State.loopRead` keeps the frame. -/
theorem good_loopRead (s : State) (n : Nat) (c : ReadCheck) (hs : s.Good Q P) : (s.loopRead n c).Good Q P := by
  have h := good_loopReadsMet s n c hs
  unfold State.loopRead
  split
  · rename_i e
    rw [e] at h
    exact good_loopTurn _ _ h
  · rename_i e
    rw [e] at h
    exact h

/-- `execLoopStep` keeps the frame. -/
theorem good_execLoopStep {u : State} (t : LoopTurn) (s : State) (hs : s.Good Q P) (e : execLoopStep t s = .next u) : u.Good Q P := by
  obtain rfl := Host.Outcome.next.inj e
  dsimp only
  refine .ite hs ?_
  split
  · exact good_loopRead _ _ _ hs
  · exact good_loopRead _ _ _ (good_loopRetried _ _ hs)
  · exact good_ccoreExpiry _ _ _ hs

end Sys2Proof.Machine
end

