-- ==== Sys2Proof/Laws/KeepFabric.lean ====
section
/-!
SUPPORT. The operations of Machine/Fabric.lean keep the frame of `State.Good`.
-/

namespace Sys2Proof.Machine

variable {Q : List Instr} {P : Part}

/-- What the head of a queue leaves keeps the frame. -/
def DmaHead.Good (Q : List Instr) (P : Part) : DmaHead → Prop
  | .gone s | .stays s => s.Good Q P
  | .waits => True

/-- A head that has gone. -/
theorem DmaHead.Good.gone {s : State} (h : s.Good Q P) : (DmaHead.gone s).Good Q P := h
/-- A head that stays. -/
theorem DmaHead.Good.stays {s : State} (h : s.Good Q P) : (DmaHead.stays s).Good Q P := h
/-- A head that waits. -/
theorem DmaHead.Good.waits : DmaHead.waits.Good Q P := trivial
/-- Either branch of a choice. -/
theorem DmaHead.Good.ite {c : Prop} [Decidable c] {a b : DmaHead} (ha : a.Good Q P) (hb : b.Good Q P) : (if c then a else b).Good Q P := by
  split
  · exact ha
  · exact hb

/-- `State.sendRequest` keeps the frame. -/
theorem good_sendRequest (s : State) (x : Desc) (r : DmaRequest) (a t : Nat) (k : Core) (hs : s.Good Q P) : (State.sendRequest s x r a t k).Good Q P := by
  unfold State.sendRequest
  dsimp only
  repeat' first
    | (with_reducible first | assumption | intro _ | apply State.Good.ite | apply State.Good.foldl | apply good_setCore | apply good_setFport | apply good_takeUnits)

/-- `State.issueRequest` keeps the frame. -/
theorem good_issueRequest (s : State) (x : Desc) (r : DmaRequest) (tier a : Nat) (hs : s.Good Q P) : (State.issueRequest s x r tier a).Good Q P := by
  unfold State.issueRequest
  dsimp only
  repeat' first
    | (with_reducible first | assumption | intro _ | apply State.Good.ite | apply State.Good.foldl | apply DmaHead.Good.ite | apply DmaHead.Good.gone | apply DmaHead.Good.waits | apply DmaHead.Good.stays | apply good_coreFault | apply good_sendRequest)
    | (with_reducible refine good_checkRows_eq (by assumption) ?_)
    | split

/-- `State.tryHead` keeps the frame. -/
theorem good_tryHead (s : State) (r : DmaRequest) (hs : s.Good Q P) : (State.tryHead s r).Good Q P := by
  unfold State.tryHead
  repeat' first
    | (with_reducible first | assumption | intro _ | apply State.Good.ite | apply State.Good.foldl | apply DmaHead.Good.ite | apply DmaHead.Good.gone | apply DmaHead.Good.waits | apply DmaHead.Good.stays | apply good_retire | apply good_stopKernel | apply good_rowLost | apply good_haltStream | apply good_issueRequest)
    | split

/-- `State.serveHead` keeps the frame. -/
theorem good_serveHead {t : State} (s : State) (l : List DmaRequest) (hs : s.Good Q P) (e : s.serveHead l = some t) : t.Good Q P := by
  induction l with
  | nil => cases e
  | cons r l ih =>
    have h := good_tryHead s r hs
    unfold State.serveHead at e
    split at e
    · exact ih e
    · rename_i q
      rw [q] at h
      obtain rfl := Option.some.inj e
      exact h
    · rename_i q
      rw [q] at h
      obtain rfl := Option.some.inj e
      exact h

/-- `State.servePorts` keeps the frame. -/
theorem good_servePorts (s : State) (n : Nat) (hs : s.Good Q P) : (s.servePorts n).Good Q P := by
  induction n generalizing s with
  | zero => exact hs
  | succ n ih =>
    unfold State.servePorts
    split
    · rename_i e
      obtain ⟨p, -, h⟩ := List.exists_of_findSome?_eq_some e
      exact ih _ (good_serveHead _ _ hs h)
    · exact hs

/-- `State.pumpDma` keeps the frame. -/
theorem good_pumpDma (s : State) (hs : s.Good Q P) : (State.pumpDma s).Good Q P := by
  unfold State.pumpDma
  repeat' first
    | (with_reducible first | assumption | intro _ | apply State.Good.ite | apply State.Good.foldl | apply good_servePorts)

/-- `State.pumpPort` keeps the frame. -/
theorem good_pumpPort (s : State) (port : Nat) (hs : s.Good Q P) : (State.pumpPort s port).Good Q P := by
  unfold State.pumpPort
  repeat' first
    | (with_reducible first | assumption | intro _ | apply State.Good.ite | apply State.Good.foldl | apply good_setFport | apply good_pumpSmalls | apply good_pumpDma)

/-- `execDmaRequestIssue` keeps the frame. -/
theorem good_execDmaRequestIssue {t : State} (req : DmaRequest) (s : State) (hs : s.Good Q P) (e : execDmaRequestIssue req s = .next t) : t.Good Q P := by
  obtain rfl := Host.Outcome.next.inj e
  repeat' first
    | (with_reducible first | assumption | intro _ | apply State.Good.ite | apply State.Good.foldl | apply good_pumpDma)
    | split
    | (unfold State.Good State.MemOk; dsimp only; with_reducible apply State.Good.of_and; with_reducible first | assumption | apply State.Good.ite | apply State.Good.foldl | apply good_pumpDma)

/-- `execFabricLinkUp` keeps the frame. -/
theorem good_execFabricLinkUp {t : State} (port req wdat rsp : Nat) (s : State) (hs : s.Good Q P) (e : execFabricLinkUp port req wdat rsp s = .next t) : t.Good Q P := by
  obtain rfl := Host.Outcome.next.inj e
  dsimp only
  repeat' first
    | (with_reducible first | assumption | intro _ | apply State.Good.ite | apply State.Good.foldl | apply good_setFport | apply good_pumpPort)

/-- `execCreditReturn` keeps the frame. -/
theorem good_execCreditReturn {t : State} (port chan n : Nat) (s : State) (hs : s.Good Q P) (e : execCreditReturn port chan n s = .next t) : t.Good Q P := by
  obtain rfl := Host.Outcome.next.inj e
  dsimp only
  repeat' first
    | (with_reducible first | assumption | intro _ | apply State.Good.ite | apply State.Good.foldl | apply good_setFport | apply good_pumpPort)

/-- `execRegulatorRefill` keeps the frame. -/
theorem good_execRegulatorRefill {t : State} (part : Nat) (s : State) (hs : s.Good Q P) (e : execRegulatorRefill part s = .next t) : t.Good Q P := by
  obtain rfl := Host.Outcome.next.inj e
  dsimp only
  repeat' first
    | (with_reducible first | assumption | intro _ | apply State.Good.ite | apply State.Good.foldl | apply good_setPart | apply good_pumpDma)

/-- `State.repeatSaid` keeps the frame. -/
theorem good_repeatSaid (s : State) (port e : Nat) (o : Out) (hs : s.Good Q P) : (State.repeatSaid s port e o).Good Q P := by
  unfold State.repeatSaid
  dsimp only
  repeat' first
    | (with_reducible first | assumption | intro _ | apply State.Good.ite | apply State.Good.foldl | apply good_logEvent | apply good_noteRepeat | apply good_noteStatus)
    | split

/-- `State.answered` keeps the frame. -/
theorem good_answered (s : State) (port : Nat) (o : Out) (hs : s.Good Q P) : (State.answered s port o).Good Q P := by
  unfold State.answered
  repeat' first
    | (with_reducible first | assumption | intro _ | apply State.Good.ite | apply State.Good.foldl | apply good_repeatSaid)

/-- `State.repeatDone` keeps the frame. -/
theorem good_repeatDone (s : State) (port : Nat) (o : Out) (hs : s.Good Q P) : (State.repeatDone s port o).Good Q P := by
  unfold State.repeatDone
  repeat' first
    | (with_reducible first | assumption | intro _ | apply State.Good.ite | apply State.Good.foldl | apply good_repeatSaid | apply good_answered)

/-- `State.dropOut` keeps the frame. -/
theorem good_dropOut (s : State) (port t : Nat) (o : Out) (hs : s.Good Q P) : (State.dropOut s port t o).Good Q P := by
  unfold State.dropOut
  dsimp only
  repeat' first
    | (with_reducible first | assumption | intro _ | apply State.Good.ite | apply State.Good.foldl | apply good_setCore | apply good_setFport)

/-- `State.lateResponse` keeps the frame. -/
theorem good_lateResponse (s : State) (port t : Nat) (hs : s.Good Q P) : (State.lateResponse s port t).Good Q P := by
  unfold State.lateResponse
  dsimp only
  repeat' first
    | (with_reducible first | assumption | intro _ | apply State.Good.ite | apply State.Good.foldl | apply good_setFport | apply good_pumpPort)

/-- `State.placeBeat` keeps the frame. -/
theorem good_placeBeat (s : State) (o : Out) (hs : s.Good Q P) : (State.placeBeat s o).Good Q P := by
  unfold State.placeBeat
  dsimp only
  repeat' first
    | (with_reducible first | assumption | intro _ | apply State.Good.ite | apply State.Good.foldl | apply good_setCore | apply good_coreFault | apply good_writeRowsAt)
    | split

/-- `State.readBeat` keeps the frame. -/
theorem good_readBeat (s : State) (port t : Nat) (o : Out) (hs : s.Good Q P) : (State.readBeat s port t o).Good Q P := by
  unfold State.readBeat
  repeat' first
    | (with_reducible first | assumption | intro _ | apply State.Good.ite | apply State.Good.foldl | apply good_bankDrop | apply good_pumpPort | apply good_repeatDone | apply good_dropOut | apply good_placeBeat)
    | split

/-- `execFabricReadBeat` keeps the frame. -/
theorem good_execFabricReadBeat {t : State} (port tag : Nat) (s : State) (hs : s.Good Q P) (e : execFabricReadBeat port tag s = .next t) : t.Good Q P := by
  obtain rfl := Host.Outcome.next.inj e
  repeat' first
    | (with_reducible first | assumption | intro _ | apply State.Good.ite | apply State.Good.foldl | apply good_lateResponse | apply good_readBeat)
    | split

/-- `execFabricWriteOk` keeps the frame. -/
theorem good_execFabricWriteOk {t : State} (port tag : Nat) (s : State) (hs : s.Good Q P) (e : execFabricWriteOk port tag s = .next t) : t.Good Q P := by
  obtain rfl := Host.Outcome.next.inj e
  dsimp only
  repeat' first
    | (with_reducible first | assumption | intro _ | apply State.Good.ite | apply State.Good.foldl | apply good_landOut | apply good_sendPosts | apply good_pumpPort | apply good_repeatDone | apply good_dropOut | apply good_lateResponse)
    | split

/-- `State.requestFails` keeps the frame. -/
theorem good_requestFails (s : State) (port : Nat) (o : Out) (kind : Nat) (hs : s.Good Q P) : (State.requestFails s port o kind).Good Q P := by
  unfold State.requestFails
  repeat' first
    | (with_reducible first | assumption | intro _ | apply State.Good.ite | apply State.Good.foldl | apply good_logEvent | apply good_descFault)
    | split

/-- `State.errorResponse` keeps the frame. -/
theorem good_errorResponse (s : State) (port tag kind : Nat) (hs : s.Good Q P) : (State.errorResponse s port tag kind).Good Q P := by
  unfold State.errorResponse
  repeat' first
    | (with_reducible first | assumption | intro _ | apply State.Good.ite | apply State.Good.foldl | apply good_setFport | apply good_pumpPort | apply good_answered | apply good_dropOut | apply good_lateResponse | apply good_requestFails)
    | split

/-- `execFabricPoison` keeps the frame. -/
theorem good_execFabricPoison {t : State} (port tag : Nat) (s : State) (hs : s.Good Q P) (e : execFabricPoison port tag s = .next t) : t.Good Q P := by
  obtain rfl := Host.Outcome.next.inj e
  repeat' first
    | (with_reducible first | assumption | intro _ | apply State.Good.ite | apply State.Good.foldl | apply good_errorResponse)

/-- `execFabricDecode` keeps the frame. -/
theorem good_execFabricDecode {t : State} (port tag : Nat) (s : State) (hs : s.Good Q P) (e : execFabricDecode port tag s = .next t) : t.Good Q P := by
  obtain rfl := Host.Outcome.next.inj e
  repeat' first
    | (with_reducible first | assumption | intro _ | apply State.Good.ite | apply State.Good.foldl | apply good_errorResponse)

/-- `execFabricAbort` keeps the frame. -/
theorem good_execFabricAbort {t : State} (port tag : Nat) (s : State) (hs : s.Good Q P) (e : execFabricAbort port tag s = .next t) : t.Good Q P := by
  obtain rfl := Host.Outcome.next.inj e
  repeat' first
    | (with_reducible first | assumption | intro _ | apply State.Good.ite | apply State.Good.foldl | apply good_errorResponse)

/-- `State.quarantineTag` keeps the frame. -/
theorem good_quarantineTag (s : State) (port tag : Nat) (o : Out) (hs : s.Good Q P) : (State.quarantineTag s port tag o).Good Q P := by
  unfold State.quarantineTag
  dsimp only
  repeat' first
    | (with_reducible first | assumption | intro _ | apply State.Good.ite | apply State.Good.foldl | apply good_setFport | apply good_cutOut | apply good_dropOut)

/-- `State.tagHeld` keeps the frame. -/
theorem good_tagHeld (s : State) (ctx : Nat) (hs : s.Good Q P) : (State.tagHeld s ctx).Good Q P := by
  unfold State.tagHeld
  dsimp only
  repeat' first
    | (with_reducible first | assumption | intro _ | apply State.Good.ite | apply State.Good.foldl | apply good_setCtx)
    | split

/-- `State.retryTimeout` keeps the frame. -/
theorem good_retryTimeout (s : State) (port tag : Nat) (o : Out) (hs : s.Good Q P) : (State.retryTimeout s port tag o).Good Q P := by
  unfold State.retryTimeout
  dsimp only
  repeat' first
    | (with_reducible first | assumption | intro _ | apply State.Good.ite | apply State.Good.foldl | apply good_setFport)
    | split

/-- `State.requestTimeout` keeps the frame. -/
theorem good_requestTimeout (s : State) (port tag : Nat) (hs : s.Good Q P) : (State.requestTimeout s port tag).Good Q P := by
  unfold State.requestTimeout
  repeat' first
    | (with_reducible first | assumption | intro _ | apply State.Good.ite | apply State.Good.foldl | apply good_logEvent | apply good_pumpPort | apply good_requestFails | apply good_quarantineTag | apply good_tagHeld | apply good_retryTimeout)
    | split

/-- `execRequestTimeout` keeps the frame. -/
theorem good_execRequestTimeout {t : State} (port tag : Nat) (s : State) (hs : s.Good Q P) (e : execRequestTimeout port tag s = .next t) : t.Good Q P := by
  obtain rfl := Host.Outcome.next.inj e
  repeat' first
    | (with_reducible first | assumption | intro _ | apply State.Good.ite | apply State.Good.foldl | apply good_requestTimeout)

/-- `execFenceOk` keeps the frame. -/
theorem good_execFenceOk {t : State} (port tag : Nat) (s : State) (hs : s.Good Q P) (e : execFenceOk port tag s = .next t) : t.Good Q P := by
  obtain rfl := Host.Outcome.next.inj e
  dsimp only
  repeat' first
    | (with_reducible first | assumption | intro _ | apply State.Good.ite | apply State.Good.foldl | apply good_setFport | apply good_pumpPort | apply good_answered | apply good_lateResponse)
    | split

end Sys2Proof.Machine
end

