-- ==== Sys2Proof/Laws/KeepLoom.lean ====
section
/-!
SUPPORT. The operations of Machine/Loom.lean keep the frame of `State.Good`.
-/

namespace Sys2Proof.Machine

variable {Q : List Instr} {P : Part}

/-- `execLoomWriteAck` keeps the frame. -/
theorem good_execLoomWriteAck {t : State} (core : Nat) (s : State) (hs : s.Good Q P) (e : execLoomWriteAck core s = .next t) : t.Good Q P := by
  obtain rfl := Host.Outcome.next.inj e
  dsimp only
  repeat' first
    | (with_reducible first | assumption | intro _ | apply State.Good.ite | apply State.Good.foldl | apply good_setCore | apply good_sendPosts)
    | split

/-- `State.takeWrite` keeps the frame. -/
theorem good_takeWrite (s : State) (w : LoomWrite) (hs : s.Good Q P) : (State.takeWrite s w).Good Q P := by
  unfold State.takeWrite
  dsimp only
  repeat' first
    | (with_reducible first | assumption | intro _ | apply State.Good.ite | apply State.Good.foldl | apply good_setCore)
    | split
    | (unfold State.Good State.MemOk; dsimp only; with_reducible apply State.Good.of_and; with_reducible first | assumption | apply State.Good.ite | apply State.Good.foldl | apply good_setCore)

/-- `State.refuseWrite` keeps the frame. -/
theorem good_refuseWrite (s : State) (w : LoomWrite) (hs : s.Good Q P) : (State.refuseWrite s w).Good Q P := by
  unfold State.refuseWrite
  dsimp only
  repeat' first
    | (with_reducible first | assumption | intro _ | apply State.Good.ite | apply State.Good.foldl | apply good_setCore | apply good_coreFault)

/-- `State.arriveWrite` keeps the frame. -/
theorem good_arriveWrite (s : State) (w : LoomWrite) (hs : s.Good Q P) : (State.arriveWrite s w).Good Q P := by
  unfold State.arriveWrite
  dsimp only
  repeat' first
    | (with_reducible first | assumption | intro _ | apply State.Good.ite | apply State.Good.foldl | apply good_writeRowsAt | apply good_bankDrop | apply good_takeWrite | apply good_refuseWrite)
    | split

/-- `State.remoteWrite` keeps the frame. -/
theorem good_remoteWrite (s : State) (a : RemoteAccess) (rows : List Byte) (hs : s.Good Q P) : (State.remoteWrite s a rows).Good Q P := by
  unfold State.remoteWrite
  dsimp only
  repeat' first
    | (with_reducible first | assumption | intro _ | apply State.Good.ite | apply State.Good.foldl | apply good_setCore | apply good_coreFault | apply good_writeRowsAt | apply good_bankDrop)
    | split

/-- `execRemoteWriteArrive` keeps the frame. -/
theorem good_execRemoteWriteArrive {t : State} (acc : RemoteAccess) (rows : List Byte) (s : State) (hs : s.Good Q P) (e : execRemoteWriteArrive acc rows s = .next t) : t.Good Q P := by
  obtain rfl := Host.Outcome.next.inj e
  repeat' first
    | (with_reducible first | assumption | intro _ | apply State.Good.ite | apply State.Good.foldl | apply good_arriveWrite | apply good_remoteWrite)
    | split

/-- `State.bringRows` keeps the frame. -/
theorem good_bringRows (s : State) (c : Nat) (bs : List Byte) (hs : s.Good Q P) : (State.bringRows s c bs).Good Q P := by
  unfold State.bringRows
  dsimp only
  repeat' first
    | (with_reducible first | assumption | intro _ | apply State.Good.ite | apply State.Good.foldl | apply good_setCore)

/-- `State.remoteRead` keeps the frame. -/
theorem good_remoteRead (s : State) (a : RemoteAccess) (n : Nat) (hs : s.Good Q P) : (State.remoteRead s a n).Good Q P := by
  unfold State.remoteRead
  repeat' first
    | (with_reducible first | assumption | intro _ | apply State.Good.ite | apply State.Good.foldl | apply good_coreFault | apply good_bringRows)
    | (with_reducible refine good_checkRows_eq (by assumption) ?_)
    | split

/-- `execRemoteReadArrive` keeps the frame. -/
theorem good_execRemoteReadArrive {t : State} (acc : RemoteAccess) (nrows : Nat) (s : State) (hs : s.Good Q P) (e : execRemoteReadArrive acc nrows s = .next t) : t.Good Q P := by
  obtain rfl := Host.Outcome.next.inj e
  repeat' first
    | (with_reducible first | assumption | intro _ | apply State.Good.ite | apply State.Good.foldl | apply State.Good.store | apply Store.Ok.ite | apply Store.Ok.foldl | apply Store.Ok.foldlPair | apply good_remoteRead)

/-- `State.ssAccess` keeps the frame. -/
theorem good_ssAccess (s : State) (a : SsAccess) (x : Desc) (row : List Byte) (hs : s.Good Q P) : (s.ssAccess a x row).Good Q P := by
  unfold State.ssAccess
  split
  · exact good_coreFault _ _ _ hs
  · refine .ite (good_setCore _ _ _ (good_putSsRows _ _ _ hs)) ?_
    split
    · exact good_bringRows _ _ _ (good_checkRows_eq (by assumption) hs)
    · exact good_checkRows_eq (by assumption) hs

/-- `execSsRequest` keeps the frame. -/
theorem good_execSsRequest {t : State} (acc : SsAccess) (row : List Byte) (s : State) (hs : s.Good Q P) (e : execSsRequest acc row s = .next t) : t.Good Q P := by
  obtain rfl := Host.Outcome.next.inj e
  repeat' first
    | (with_reducible first | assumption | intro _ | apply State.Good.ite | apply State.Good.foldl | apply good_ssAccess)
    | split

/-- `execEccWriteback` keeps the frame. -/
theorem good_execEccWriteback {t : State} (place : EccPlace) (_idle : Bool) (s : State) (hs : s.Good Q P) (e : execEccWriteback place _idle s = .next t) : t.Good Q P := by
  obtain rfl := Host.Outcome.next.inj e
  repeat' first
    | (with_reducible first | assumption | intro _ | apply State.Good.ite | apply State.Good.foldl)
    | split
    | (unfold State.Good State.MemOk; dsimp only; with_reducible apply State.Good.of_and; with_reducible first | assumption | apply State.Good.ite | apply State.Good.foldl)

/-- `State.scrub` keeps the frame. -/
theorem good_scrub (s : State) (r : Nat) (found : EccFound) (hs : s.Good Q P) : (State.scrub s r found).Good Q P := by
  unfold State.scrub
  repeat' first
    | (with_reducible first | assumption | intro _ | apply State.Good.ite | apply State.Good.foldl | apply good_logEvent | apply good_noteRepeat | apply good_countCorrectedSs | apply good_poisonRow)
    | split

/-- `execSsScrubTick` keeps the frame. -/
theorem good_execSsScrubTick {t : State} (found : EccFound) (s : State) (hs : s.Good Q P) (e : execSsScrubTick found s = .next t) : t.Good Q P := by
  obtain rfl := Host.Outcome.next.inj e
  dsimp only
  repeat' first
    | (with_reducible first | assumption | intro _ | apply State.Good.ite | apply State.Good.foldl | apply good_scrub)
    | split
    | (unfold State.Good State.MemOk; dsimp only; with_reducible apply State.Good.of_and; with_reducible first | assumption | apply State.Good.ite | apply State.Good.foldl | apply good_scrub)

end Sys2Proof.Machine
end

