-- ==== Sys2Proof/Laws/KeepBanks.lean ====
section
/-!
SUPPORT. The operations of Machine/Banks.lean keep the frame of `State.Good`.
-/

namespace Sys2Proof.Machine

variable {Q : List Instr} {P : Part}

/-- `State.clearRows` keeps the frame. -/
theorem good_clearRows (s : State) (c lo hi : Nat) (hs : s.Good Q P) : (State.clearRows s c lo hi).Good Q P := by
  unfold State.clearRows
  repeat' first
    | (with_reducible first | assumption | intro _ | apply State.Good.ite | apply State.Good.foldl | apply good_setCore | apply good_dropWbacks)

/-- `State.setBank` keeps the frame. -/
theorem good_setBank (s : State) (c b : Nat) (v : Bank) (hs : s.Good Q P) : (State.setBank s c b v).Good Q P := by
  unfold State.setBank
  repeat' first
    | (with_reducible first | assumption | intro _ | apply State.Good.ite | apply State.Good.foldl | apply good_setCore)

/-- `State.areaCleared` keeps the frame. -/
theorem good_areaCleared (s : State) (c ctx : Nat) (hs : s.Good Q P) : (State.areaCleared s c ctx).Good Q P := by
  unfold State.areaCleared
  dsimp only
  repeat' first
    | (with_reducible first | assumption | intro _ | apply State.Good.ite | apply State.Good.foldl | apply good_setCore | apply good_clearRows)

/-- `execAreaClearDone` keeps the frame. -/
theorem good_execAreaClearDone {t : State} (core ctx : Nat) (s : State) (hs : s.Good Q P) (e : execAreaClearDone core ctx s = .next t) : t.Good Q P := by
  obtain rfl := Host.Outcome.next.inj e
  repeat' first
    | (with_reducible first | assumption | intro _ | apply State.Good.ite | apply State.Good.foldl | apply good_areaCleared)

/-- `execBankClassClearDone` keeps the frame. -/
theorem good_execBankClassClearDone {t : State} (core bank : Nat) (s : State) (hs : s.Good Q P) (e : execBankClassClearDone core bank s = .next t) : t.Good Q P := by
  obtain rfl := Host.Outcome.next.inj e
  dsimp only
  repeat' first
    | (with_reducible first | assumption | intro _ | apply State.Good.ite | apply State.Good.foldl | apply good_clearRows | apply good_setBank)

/-- `execBankIsolate` keeps the frame. -/
theorem good_execBankIsolate {t : State} (core bank : Nat) (s : State) (hs : s.Good Q P) (e : execBankIsolate core bank s = .next t) : t.Good Q P := by
  obtain rfl := Host.Outcome.next.inj e
  dsimp only
  repeat' first
    | (with_reducible first | assumption | intro _ | apply State.Good.ite | apply State.Good.foldl | apply good_setBank)

/-- `State.setBankWaking` keeps the frame. -/
theorem good_setBankWaking (s : State) (c b : Nat) (v : Bank) (hs : s.Good Q P) : (State.setBankWaking s c b v).Good Q P := by
  unfold State.setBankWaking
  repeat' first
    | (with_reducible first | assumption | intro _ | apply State.Good.ite | apply State.Good.foldl | apply good_setCore)

/-- `execBankOff` keeps the frame. -/
theorem good_execBankOff {t : State} (core bank : Nat) (s : State) (hs : s.Good Q P) (e : execBankOff core bank s = .next t) : t.Good Q P := by
  obtain rfl := Host.Outcome.next.inj e
  dsimp only
  repeat' first
    | (with_reducible first | assumption | intro _ | apply State.Good.ite | apply State.Good.foldl | apply good_clearRows | apply good_setBankWaking)

/-- `execBankWakeDone` keeps the frame. -/
theorem good_execBankWakeDone {t : State} (core bank : Nat) (s : State) (hs : s.Good Q P) (e : execBankWakeDone core bank s = .next t) : t.Good Q P := by
  obtain rfl := Host.Outcome.next.inj e
  dsimp only
  repeat' first
    | (with_reducible first | assumption | intro _ | apply State.Good.ite | apply State.Good.foldl | apply good_setBankWaking)

/-- `execBankClearDone` keeps the frame. -/
theorem good_execBankClearDone {t : State} (core bank : Nat) (s : State) (hs : s.Good Q P) (e : execBankClearDone core bank s = .next t) : t.Good Q P := by
  obtain rfl := Host.Outcome.next.inj e
  dsimp only
  repeat' first
    | (with_reducible first | assumption | intro _ | apply State.Good.ite | apply State.Good.foldl | apply good_clearRows | apply good_setBank)

end Sys2Proof.Machine
end

