-- ==== Sys2Proof/Laws/KeepControl.lean ====
section
/-!
SUPPORT. The operations of Machine/Control.lean keep the frame of `State.Good`.
-/

namespace Sys2Proof.Machine

variable {Q : List Instr} {P : Part}

/-- `State.ccoreStruck` keeps the frame. -/
theorem good_ccoreStruck (s : State) (n : Nat) (c : CcoreEvent) (hs : s.Good Q P) : (s.ccoreStruck n c).Good Q P := by
  cases c with
  | corrected w => exact hs
  | retried w => exact good_noteRepeat _ _ _ _ _ (good_logEvent _ _ _ _ _ _ _ _ hs)
  | lost w b => exact good_ccoreExpiry _ _ _ (good_logEvent _ _ _ _ _ _ _ _ hs)
  | watchdog b => exact good_ccoreExpiry _ _ _ hs

/-- `execWatchdogExpiry` keeps the frame. -/
theorem good_execWatchdogExpiry {t : State} (ccore : Nat) (e : CcoreEvent) (s : State) (hs : s.Good Q P) (e : execWatchdogExpiry ccore e s = .next t) : t.Good Q P := by
  obtain rfl := Host.Outcome.next.inj e
  repeat' first
    | (with_reducible first | assumption | intro _ | apply State.Good.ite | apply State.Good.foldl | apply good_ccoreStruck)

/-- `execControlCoreTakeback` keeps the frame. -/
theorem good_execControlCoreTakeback {t : State} (ctx : Nat) (s : State) (hs : s.Good Q P) (e : execControlCoreTakeback ctx s = .next t) : t.Good Q P := by
  obtain rfl := Host.Outcome.next.inj e
  dsimp only
  repeat' first
    | (with_reducible first | assumption | intro _ | apply State.Good.ite | apply State.Good.foldl | apply good_setCtx)

/-- `execBudgetExpiry` keeps the frame. -/
theorem good_execBudgetExpiry {u : State} (t : TurnOf) (s : State) (hs : s.Good Q P) (e : execBudgetExpiry t s = .next u) : u.Good Q P := by
  obtain rfl := Host.Outcome.next.inj e
  dsimp only
  repeat' first
    | (with_reducible first | assumption | intro _ | apply State.Good.ite | apply State.Good.foldl | apply good_setCtx)

/-- `State.yieldKernel` keeps the frame. -/
theorem good_yieldKernel (s : State) (ctx : Nat) (hs : s.Good Q P) : (State.yieldKernel s ctx).Good Q P := by
  unfold State.yieldKernel
  dsimp only
  repeat' first
    | (with_reducible first | assumption | intro _ | apply State.Good.ite | apply State.Good.foldl | apply good_setKernel | apply good_setCore | apply good_setSsWin)

/-- `State.endUnitTurn` keeps the frame. -/
theorem good_endUnitTurn (s : State) (ctx overrun : Nat) (hs : s.Good Q P) : (State.endUnitTurn s ctx overrun).Good Q P := by
  unfold State.endUnitTurn
  dsimp only
  repeat' first
    | (with_reducible first | assumption | intro _ | apply State.Good.ite | apply State.Good.foldl | apply good_leaveCvus | apply good_passTurnOf)

/-- `State.endSetTurn` keeps the frame. -/
theorem good_endSetTurn (s : State) (ctx overrun : Nat) (hs : s.Good Q P) : (State.endSetTurn s ctx overrun).Good Q P := by
  unfold State.endSetTurn
  dsimp only
  repeat' first
    | (with_reducible first | assumption | intro _ | apply State.Good.ite | apply State.Good.foldl | apply good_passTurn | apply good_yieldKernel)

/-- `execTurnEnd` keeps the frame. -/
theorem good_execTurnEnd {u : State} (t : TurnOf) (overrun : Nat) (s : State) (hs : s.Good Q P) (e : execTurnEnd t overrun s = .next u) : u.Good Q P := by
  obtain rfl := Host.Outcome.next.inj e
  repeat' first
    | (with_reducible first | assumption | intro _ | apply State.Good.ite | apply State.Good.foldl | apply good_endUnitTurn | apply good_endSetTurn)

end Sys2Proof.Machine
end

