-- ==== Sys2Proof/Laws/KeepSpi.lean ====
section
/-!
SUPPORT. The operations of Machine/Spi.lean keep the frame of `State.Good`.
-/

namespace Sys2Proof.Machine

variable {Q : List Instr} {P : Part}

/-- `State.spiStart` keeps the frame. -/
theorem good_spiStart (s : State) (op : SpiOp) (len : Nat) (hs : s.Good Q P) : (State.spiStart s op len).Good Q P := by
  unfold State.spiStart
  dsimp only
  repeat' first
    | (with_reducible first | assumption | intro _ | apply State.Good.ite | apply State.Good.foldl | apply good_cfgIgnored)
    | split
    | (unfold State.Good State.MemOk; dsimp only; with_reducible apply State.Good.of_and; with_reducible first | assumption | apply State.Good.ite | apply State.Good.foldl | apply good_cfgIgnored)

/-- `execSpiRead` keeps the frame. -/
theorem good_execSpiRead {t : State} (len : Nat) (s : State) (hs : s.Good Q P) (e : execSpiRead len s = .next t) : t.Good Q P := by
  obtain rfl := Host.Outcome.next.inj e
  repeat' first
    | (with_reducible first | assumption | intro _ | apply State.Good.ite | apply State.Good.foldl | apply good_spiStart)

/-- `execSpiProgram` keeps the frame. -/
theorem good_execSpiProgram {t : State} (len : Nat) (s : State) (hs : s.Good Q P) (e : execSpiProgram len s = .next t) : t.Good Q P := by
  obtain rfl := Host.Outcome.next.inj e
  repeat' first
    | (with_reducible first | assumption | intro _ | apply State.Good.ite | apply State.Good.foldl | apply good_spiStart)

/-- `execSpiErase4k` keeps the frame. -/
theorem good_execSpiErase4k {t : State} (s : State) (hs : s.Good Q P) (e : execSpiErase4k s = .next t) : t.Good Q P := by
  obtain rfl := Host.Outcome.next.inj e
  repeat' first
    | (with_reducible first | assumption | intro _ | apply State.Good.ite | apply State.Good.foldl | apply good_spiStart)

/-- `execSpiErase64k` keeps the frame. -/
theorem good_execSpiErase64k {t : State} (s : State) (hs : s.Good Q P) (e : execSpiErase64k s = .next t) : t.Good Q P := by
  obtain rfl := Host.Outcome.next.inj e
  repeat' first
    | (with_reducible first | assumption | intro _ | apply State.Good.ite | apply State.Good.foldl | apply good_spiStart)

/-- `execSpiReadSfdp` keeps the frame. -/
theorem good_execSpiReadSfdp {t : State} (len : Nat) (s : State) (hs : s.Good Q P) (e : execSpiReadSfdp len s = .next t) : t.Good Q P := by
  obtain rfl := Host.Outcome.next.inj e
  repeat' first
    | (with_reducible first | assumption | intro _ | apply State.Good.ite | apply State.Good.foldl | apply good_spiStart)

/-- `execSpiOpDone` keeps the frame. -/
theorem good_execSpiOpDone {t : State} (deviceError : Bool) (s : State) (hs : s.Good Q P) (e : execSpiOpDone deviceError s = .next t) : t.Good Q P := by
  obtain rfl := Host.Outcome.next.inj e
  dsimp only
  repeat' first
    | (with_reducible first | assumption | intro _ | apply State.Good.ite | apply State.Good.foldl | apply good_spiEffect | apply good_spiFailed)
    | split
    | (unfold State.Good State.MemOk; dsimp only; with_reducible apply State.Good.of_and; with_reducible first | assumption | apply State.Good.ite | apply State.Good.foldl | apply good_spiEffect | apply good_spiFailed)

/-- `State.spiCtlWrite` keeps the frame. -/
theorem good_spiCtlWrite (s : State) (value : Nat) (hs : s.Good Q P) : (State.spiCtlWrite s value).Good Q P := by
  unfold State.spiCtlWrite
  repeat' first
    | (with_reducible first | assumption | intro _ | apply State.Good.ite | apply State.Good.foldl | apply good_cfgIgnored | apply good_spiStart)
    | split

/-- `State.spiDataWrite` keeps the frame. -/
theorem good_spiDataWrite (s : State) (offset value : Nat) (hs : s.Good Q P) : (State.spiDataWrite s offset value).Good Q P := by
  unfold State.spiDataWrite
  dsimp only
  repeat' first
    | (with_reducible first | assumption | intro _ | apply State.Good.ite | apply State.Good.foldl | apply good_cfgIgnored)
    | split
    | (unfold State.Good State.MemOk; dsimp only; with_reducible apply State.Good.of_and; with_reducible first | assumption | apply State.Good.ite | apply State.Good.foldl | apply good_cfgIgnored)

end Sys2Proof.Machine
end

