-- ==== Sys2Proof/Laws/KeepRegisters.lean ====
section
/-!
SUPPORT. The operations of Machine/Registers.lean keep the frame of `State.Good`.
-/

namespace Sys2Proof.Machine

variable {Q : List Instr} {P : Part}

/-- `State.portRead` keeps the frame. -/
theorem good_portRead (s : State) (init o : Nat) (hs : s.Good Q P) : (State.portRead s init o).Good Q P := by
  unfold State.portRead
  dsimp only
  repeat' first
    | (with_reducible first | assumption | intro _ | apply State.Good.ite | apply State.Good.foldl)
    | split
    | (unfold State.Good State.MemOk; dsimp only; with_reducible apply State.Good.of_and; with_reducible first | assumption | apply State.Good.ite | apply State.Good.foldl)

/-- `execErrLogEntryLatch` keeps the frame. -/
theorem good_execErrLogEntryLatch {t : State} (init entry : Nat) (s : State) (hs : s.Good Q P) (e : execErrLogEntryLatch init entry s = .next t) : t.Good Q P := by
  obtain rfl := Host.Outcome.next.inj e
  repeat' first
    | (with_reducible first | assumption | intro _ | apply State.Good.ite | apply State.Good.foldl | apply gives_entry | apply good_portRead)

/-- `execRegPairLowerRead` keeps the frame. -/
theorem good_execRegPairLowerRead {t : State} (init offset : Nat) (s : State) (hs : s.Good Q P) (e : execRegPairLowerRead init offset s = .next t) : t.Good Q P := by
  obtain rfl := Host.Outcome.next.inj e
  repeat' first
    | (with_reducible first | assumption | intro _ | apply State.Good.ite | apply State.Good.foldl | apply good_portRead)

/-- `State.stageLower` keeps the frame. -/
theorem good_stageLower (s : State) (init o : Nat) (value : Word) (hs : s.Good Q P) : (State.stageLower s init o value).Good Q P := by
  unfold State.stageLower
  dsimp only
  repeat' first
    | (with_reducible first | assumption | intro _ | apply State.Good.ite | apply State.Good.foldl)
    | split
    | (unfold State.Good State.MemOk; dsimp only; with_reducible apply State.Good.of_and; with_reducible first | assumption | apply State.Good.ite | apply State.Good.foldl)

/-- `State.pairValue` keeps the frame. -/
theorem good_pairValue (s : State) (init o : Nat) (upper : Word) (hs : s.Good Q P) : (s.pairValue init o upper).2.Good Q P := by
  unfold State.pairValue
  dsimp only
  split
  · exact hs
  · exact hs

/-- `State.rangeBaseWrite` keeps the frame. -/
theorem good_rangeBaseWrite (s : State) (v : Nat) (hs : s.Good Q P) : (State.rangeBaseWrite s v).Good Q P := by
  unfold State.rangeBaseWrite
  repeat' first
    | (with_reducible first | assumption | intro _ | apply State.Good.ite | apply State.Good.foldl | apply good_cfgIgnored)
    | split
    | (unfold State.Good State.MemOk; dsimp only; with_reducible apply State.Good.of_and; with_reducible first | assumption | apply State.Good.ite | apply State.Good.foldl | apply good_cfgIgnored)

/-- `State.pairWrite` keeps the frame. -/
theorem good_pairWrite (s : State) (init o : Nat) (upper : Word) (hs : s.Good Q P) : (State.pairWrite s init o upper).Good Q P := by
  unfold State.pairWrite
  dsimp only
  repeat' first
    | (with_reducible first | assumption | intro _ | apply State.Good.ite | apply State.Good.foldl | apply good_setPart | apply good_setSub | apply good_setComp | apply good_cfgIgnored | apply good_pairValue | apply good_rangeBaseWrite)

/-- `State.partWrite` keeps the frame. -/
theorem good_partWrite (s : State) (n o : Nat) (v : Nat) (hs : s.Good Q P) : (State.partWrite s n o v).Good Q P := by
  unfold State.partWrite
  dsimp only
  repeat' first
    | (with_reducible first | assumption | intro _ | apply State.Good.ite | apply State.Good.foldl | apply good_setPart)
    | split

/-- `State.compWrite` keeps the frame. -/
theorem good_compWrite (s : State) (n o : Nat) (v : Nat) (hs : s.Good Q P) : (State.compWrite s n o v).Good Q P := by
  unfold State.compWrite
  dsimp only
  repeat' first
    | (with_reducible first | assumption | intro _ | apply State.Good.ite | apply State.Good.foldl | apply good_setComp)
    | split

/-- `State.reservedWrite` keeps the frame. -/
theorem good_reservedWrite (s : State) (o v : Nat) (hs : s.Good Q P) : (State.reservedWrite s o v).Good Q P := by
  unfold State.reservedWrite
  repeat' first
    | (with_reducible first | assumption | intro _ | apply State.Good.ite | apply State.Good.foldl | apply good_cfgIgnored)

/-- `State.coreWrite` keeps the frame. -/
theorem good_coreWrite (s : State) (n o : Nat) (value : Word) (hs : s.Good Q P) : (State.coreWrite s n o value).Good Q P := by
  unfold State.coreWrite
  dsimp only
  repeat' first
    | (with_reducible first | assumption | intro _ | apply State.Good.ite | apply State.Good.foldl | apply good_setCore | apply good_clearFlags | apply good_reservedWrite)
    | split

/-- `State.wordWrite` keeps the frame. -/
theorem good_wordWrite (s : State) (init o : Nat) (value : Word) (hs : s.Good Q P) : (State.wordWrite s init o value).Good Q P := by
  unfold State.wordWrite
  dsimp only
  repeat' first
    | (with_reducible first | assumption | intro _ | apply State.Good.ite | apply State.Good.foldl | apply good_setCtx | apply good_cfgIgnored | apply good_freqWrite | apply good_powerWrite | apply good_throttleWrite | apply good_pwrCmd | apply good_partEnable | apply good_partDisable | apply good_ctxEnable | apply good_ctxDisable | apply good_subEnable | apply good_subDisable | apply good_compEnable | apply good_compDisable | apply good_verSelWrite | apply good_spiCtlWrite | apply good_spiDataWrite | apply good_pairWrite | apply good_partWrite | apply good_compWrite | apply good_reservedWrite | apply good_coreWrite)
    | split
    | (unfold State.Good State.MemOk; dsimp only; with_reducible apply State.Good.of_and; with_reducible first | assumption | apply State.Good.ite | apply State.Good.foldl | apply good_setCtx | apply good_cfgIgnored | apply good_freqWrite | apply good_powerWrite | apply good_throttleWrite | apply good_pwrCmd | apply good_partEnable | apply good_partDisable | apply good_ctxEnable | apply good_ctxDisable | apply good_subEnable | apply good_subDisable | apply good_compEnable | apply good_compDisable | apply good_verSelWrite | apply good_spiCtlWrite | apply good_spiDataWrite | apply good_pairWrite | apply good_partWrite | apply good_compWrite | apply good_reservedWrite | apply good_coreWrite)

/-- `State.portWrite` keeps the frame. -/
theorem good_portWrite (s : State) (init o size : Nat) (value : Word) (hs : s.Good Q P) : (State.portWrite s init o size value).Good Q P := by
  unfold State.portWrite
  repeat' first
    | (with_reducible first | assumption | intro _ | apply State.Good.ite | apply State.Good.foldl | apply good_cfgIgnored | apply good_spiCtlWrite | apply good_stageLower | apply good_wordWrite)

/-- `execRegWrite` keeps the frame. -/
theorem good_execRegWrite {t : State} (init offset size : Nat) (value : Word) (s : State) (hs : s.Good Q P) (e : execRegWrite init offset size value s = .next t) : t.Good Q P := by
  obtain rfl := Host.Outcome.next.inj e
  repeat' first
    | (with_reducible first | assumption | intro _ | apply State.Good.ite | apply State.Good.foldl | apply good_portWrite)

/-- `execRegPairLowerWrite` keeps the frame. -/
theorem good_execRegPairLowerWrite {t : State} (init offset : Nat) (value : Word) (s : State) (hs : s.Good Q P) (e : execRegPairLowerWrite init offset value s = .next t) : t.Good Q P := by
  obtain rfl := Host.Outcome.next.inj e
  repeat' first
    | (with_reducible first | assumption | intro _ | apply State.Good.ite | apply State.Good.foldl | apply good_portWrite)

/-- `execZtRangeTblBaseWrite` keeps the frame. -/
theorem good_execZtRangeTblBaseWrite {t : State} (init : Nat) (upper : Word) (s : State) (hs : s.Good Q P) (e : execZtRangeTblBaseWrite init upper s = .next t) : t.Good Q P := by
  obtain rfl := Host.Outcome.next.inj e
  repeat' first
    | (with_reducible first | assumption | intro _ | apply State.Good.ite | apply State.Good.foldl | apply good_portWrite)

/-- `execZtCoreFlagsClear` keeps the frame. -/
theorem good_execZtCoreFlagsClear {t : State} (core : Nat) (value raised : Word) (s : State) (hs : s.Good Q P) (e : execZtCoreFlagsClear core value raised s = .next t) : t.Good Q P := by
  obtain rfl := Host.Outcome.next.inj e
  repeat' first
    | (with_reducible first | assumption | intro _ | apply State.Good.ite | apply State.Good.foldl | apply good_clearFlags | apply good_setupWrite)

/-- `State.tapOut` keeps the frame. -/
theorem good_tapOut (s : State) (v : Nat) (hs : s.Good Q P) : (State.tapOut s v).Good Q P := by
  unfold State.tapOut
  dsimp only
  repeat' first
    | (with_reducible first | assumption | intro _ | apply State.Good.ite | apply State.Good.foldl)
    | split
    | (unfold State.Good State.MemOk; dsimp only; with_reducible apply State.Good.of_and; with_reducible first | assumption | apply State.Good.ite | apply State.Good.foldl)

/-- `execTapIdcode` keeps the frame. -/
theorem good_execTapIdcode {t : State} (s : State) (hs : s.Good Q P) (e : execTapIdcode s = .next t) : t.Good Q P := by
  obtain rfl := Host.Outcome.next.inj e
  repeat' first
    | (with_reducible first | assumption | intro _ | apply State.Good.ite | apply State.Good.foldl | apply good_tapOut)

/-- `execTapBypass` keeps the frame. -/
theorem good_execTapBypass {t : State} (bit : Bool) (s : State) (hs : s.Good Q P) (e : execTapBypass bit s = .next t) : t.Good Q P := by
  obtain rfl := Host.Outcome.next.inj e
  repeat' first
    | (with_reducible first | assumption | intro _ | apply State.Good.ite | apply State.Good.foldl | apply good_tapOut)

/-- `execTapRegisterBridge` keeps the frame. -/
theorem good_execTapRegisterBridge {t : State} (isWrite : Bool) (offset : Nat) (value : Word) (s : State) (hs : s.Good Q P) (e : execTapRegisterBridge isWrite offset value s = .next t) : t.Good Q P := by
  obtain rfl := Host.Outcome.next.inj e
  repeat' first
    | (with_reducible first | assumption | intro _ | apply State.Good.ite | apply State.Good.foldl | apply good_cfgIgnored | apply good_portRead | apply good_portWrite | apply good_tapOut)

/-- `execTapSramSelftest` keeps the frame. -/
theorem good_execTapSramSelftest {t : State} (run : Bool) (f : SramFaults) (s : State) (hs : s.Good Q P) (e : execTapSramSelftest run f s = .next t) : t.Good Q P := by
  obtain rfl := Host.Outcome.next.inj e
  repeat' first
    | (with_reducible first | assumption | intro _ | apply State.Good.ite | apply State.Good.foldl | apply good_run | apply good_tapOut)

/-- `execTapSpiDirect` keeps the frame. -/
theorem good_execTapSpiDirect {t : State} (isWrite : Bool) (addr : Nat) (data : List Byte) (s : State) (hs : s.Good Q P) (e : execTapSpiDirect isWrite addr data s = .next t) : t.Good Q P := by
  obtain rfl := Host.Outcome.next.inj e
  dsimp only
  repeat' first
    | (with_reducible first | assumption | intro _ | apply State.Good.ite | apply State.Good.foldl | apply good_startFail | apply good_tapOut)
    | split
    | (unfold State.Good State.MemOk; dsimp only; with_reducible apply State.Good.of_and; with_reducible first | assumption | apply State.Good.ite | apply State.Good.foldl | apply good_startFail | apply good_tapOut)

end Sys2Proof.Machine
end

