-- ==== Sys2Proof/Laws/State.lean ====
section
/-!
SUPPORT. What each named update of the state leaves alone, field by field, so that no proof unfolds a record update.
-/

namespace Sys2Proof.Machine

variable (s : State)

/-- `setPart` changes `parts` alone. -/
@[simp] theorem State.setPart_frame (n : Nat) (v : PartCfg) :
    (s.setPart n v).pending = s.pending ∧ (s.setPart n v).clkCtl = s.clkCtl ∧ (s.setPart n v).mgmt = s.mgmt ∧ (s.setPart n v).log = s.log ∧
    (s.setPart n v).port = s.port ∧ (s.setPart n v).collFlags = s.collFlags ∧ (s.setPart n v).ssCecc = s.ssCecc ∧
    (s.setPart n v).verSel = s.verSel ∧ (s.setPart n v).rangeBase = s.rangeBase ∧ (s.setPart n v).ctxs = s.ctxs ∧ (s.setPart n v).subs = s.subs ∧
    (s.setPart n v).comps = s.comps ∧ (s.setPart n v).descs = s.descs ∧ (s.setPart n v).order = s.order ∧ (s.setPart n v).ranges = s.ranges ∧
    (s.setPart n v).sweep = s.sweep ∧ (s.setPart n v).faults = s.faults ∧ (s.setPart n v).nextFault = s.nextFault ∧
    (s.setPart n v).pools = s.pools ∧ (s.setPart n v).seqs = s.seqs ∧ (s.setPart n v).seqTab = s.seqTab ∧
    (s.setPart n v).seqTabUsed = s.seqTabUsed ∧ (s.setPart n v).seqCache = s.seqCache ∧ (s.setPart n v).seqDirty = s.seqDirty ∧
    (s.setPart n v).dropping = s.dropping ∧ (s.setPart n v).groups = s.groups ∧ (s.setPart n v).loops = s.loops ∧
    (s.setPart n v).models = s.models ∧ (s.setPart n v).ccores = s.ccores ∧ (s.setPart n v).kernels = s.kernels ∧
    (s.setPart n v).piste = s.piste ∧ (s.setPart n v).cores = s.cores ∧ (s.setPart n v).ports = s.ports ∧ (s.setPart n v).smalls = s.smalls ∧
    (s.setPart n v).dmaQ = s.dmaQ ∧ (s.setPart n v).watches = s.watches ∧ (s.setPart n v).rr = s.rr ∧ (s.setPart n v).ss = s.ss ∧
    (s.setPart n v).ssWins = s.ssWins ∧ (s.setPart n v).ssPoison = s.ssPoison ∧ (s.setPart n v).scrubRow = s.scrubRow ∧
    (s.setPart n v).wback = s.wback ∧ (s.setPart n v).loom = s.loom ∧ (s.setPart n v).loomSent = s.loomSent ∧ (s.setPart n v).cvus = s.cvus ∧
    (s.setPart n v).collLines = s.collLines ∧ (s.setPart n v).mem = s.mem ∧ (s.setPart n v).free = s.free := by
  exact ⟨rfl, rfl, rfl, rfl, rfl, rfl, rfl, rfl, rfl, rfl, rfl, rfl, rfl, rfl, rfl, rfl, rfl, rfl, rfl, rfl, rfl, rfl, rfl, rfl, rfl, rfl, rfl, rfl, rfl, rfl, rfl, rfl, rfl, rfl, rfl, rfl, rfl, rfl, rfl, rfl, rfl, rfl, rfl, rfl, rfl, rfl, rfl, rfl⟩

/-- `setCtx` changes `ctxs` alone. -/
@[simp] theorem State.setCtx_frame (n : Nat) (v : CtxCfg) :
    (s.setCtx n v).pending = s.pending ∧ (s.setCtx n v).clkCtl = s.clkCtl ∧ (s.setCtx n v).mgmt = s.mgmt ∧ (s.setCtx n v).log = s.log ∧
    (s.setCtx n v).port = s.port ∧ (s.setCtx n v).collFlags = s.collFlags ∧ (s.setCtx n v).ssCecc = s.ssCecc ∧ (s.setCtx n v).verSel = s.verSel ∧
    (s.setCtx n v).rangeBase = s.rangeBase ∧ (s.setCtx n v).parts = s.parts ∧ (s.setCtx n v).subs = s.subs ∧ (s.setCtx n v).comps = s.comps ∧
    (s.setCtx n v).descs = s.descs ∧ (s.setCtx n v).order = s.order ∧ (s.setCtx n v).ranges = s.ranges ∧ (s.setCtx n v).sweep = s.sweep ∧
    (s.setCtx n v).faults = s.faults ∧ (s.setCtx n v).nextFault = s.nextFault ∧ (s.setCtx n v).pools = s.pools ∧ (s.setCtx n v).seqs = s.seqs ∧
    (s.setCtx n v).seqTab = s.seqTab ∧ (s.setCtx n v).seqTabUsed = s.seqTabUsed ∧ (s.setCtx n v).seqCache = s.seqCache ∧
    (s.setCtx n v).seqDirty = s.seqDirty ∧ (s.setCtx n v).dropping = s.dropping ∧ (s.setCtx n v).groups = s.groups ∧
    (s.setCtx n v).loops = s.loops ∧ (s.setCtx n v).models = s.models ∧ (s.setCtx n v).ccores = s.ccores ∧ (s.setCtx n v).kernels = s.kernels ∧
    (s.setCtx n v).piste = s.piste ∧ (s.setCtx n v).cores = s.cores ∧ (s.setCtx n v).ports = s.ports ∧ (s.setCtx n v).smalls = s.smalls ∧
    (s.setCtx n v).dmaQ = s.dmaQ ∧ (s.setCtx n v).watches = s.watches ∧ (s.setCtx n v).rr = s.rr ∧ (s.setCtx n v).ss = s.ss ∧
    (s.setCtx n v).ssWins = s.ssWins ∧ (s.setCtx n v).ssPoison = s.ssPoison ∧ (s.setCtx n v).scrubRow = s.scrubRow ∧
    (s.setCtx n v).wback = s.wback ∧ (s.setCtx n v).loom = s.loom ∧ (s.setCtx n v).loomSent = s.loomSent ∧ (s.setCtx n v).cvus = s.cvus ∧
    (s.setCtx n v).collLines = s.collLines ∧ (s.setCtx n v).mem = s.mem ∧ (s.setCtx n v).free = s.free := by
  exact ⟨rfl, rfl, rfl, rfl, rfl, rfl, rfl, rfl, rfl, rfl, rfl, rfl, rfl, rfl, rfl, rfl, rfl, rfl, rfl, rfl, rfl, rfl, rfl, rfl, rfl, rfl, rfl, rfl, rfl, rfl, rfl, rfl, rfl, rfl, rfl, rfl, rfl, rfl, rfl, rfl, rfl, rfl, rfl, rfl, rfl, rfl, rfl, rfl⟩

/-- `setSub` changes `subs` alone. -/
@[simp] theorem State.setSub_frame (n : Nat) (v : SubRing) :
    (s.setSub n v).pending = s.pending ∧ (s.setSub n v).clkCtl = s.clkCtl ∧ (s.setSub n v).mgmt = s.mgmt ∧ (s.setSub n v).log = s.log ∧
    (s.setSub n v).port = s.port ∧ (s.setSub n v).collFlags = s.collFlags ∧ (s.setSub n v).ssCecc = s.ssCecc ∧ (s.setSub n v).verSel = s.verSel ∧
    (s.setSub n v).rangeBase = s.rangeBase ∧ (s.setSub n v).parts = s.parts ∧ (s.setSub n v).ctxs = s.ctxs ∧ (s.setSub n v).comps = s.comps ∧
    (s.setSub n v).descs = s.descs ∧ (s.setSub n v).order = s.order ∧ (s.setSub n v).ranges = s.ranges ∧ (s.setSub n v).sweep = s.sweep ∧
    (s.setSub n v).faults = s.faults ∧ (s.setSub n v).nextFault = s.nextFault ∧ (s.setSub n v).pools = s.pools ∧ (s.setSub n v).seqs = s.seqs ∧
    (s.setSub n v).seqTab = s.seqTab ∧ (s.setSub n v).seqTabUsed = s.seqTabUsed ∧ (s.setSub n v).seqCache = s.seqCache ∧
    (s.setSub n v).seqDirty = s.seqDirty ∧ (s.setSub n v).dropping = s.dropping ∧ (s.setSub n v).groups = s.groups ∧
    (s.setSub n v).loops = s.loops ∧ (s.setSub n v).models = s.models ∧ (s.setSub n v).ccores = s.ccores ∧ (s.setSub n v).kernels = s.kernels ∧
    (s.setSub n v).piste = s.piste ∧ (s.setSub n v).cores = s.cores ∧ (s.setSub n v).ports = s.ports ∧ (s.setSub n v).smalls = s.smalls ∧
    (s.setSub n v).dmaQ = s.dmaQ ∧ (s.setSub n v).watches = s.watches ∧ (s.setSub n v).rr = s.rr ∧ (s.setSub n v).ss = s.ss ∧
    (s.setSub n v).ssWins = s.ssWins ∧ (s.setSub n v).ssPoison = s.ssPoison ∧ (s.setSub n v).scrubRow = s.scrubRow ∧
    (s.setSub n v).wback = s.wback ∧ (s.setSub n v).loom = s.loom ∧ (s.setSub n v).loomSent = s.loomSent ∧ (s.setSub n v).cvus = s.cvus ∧
    (s.setSub n v).collLines = s.collLines ∧ (s.setSub n v).mem = s.mem ∧ (s.setSub n v).free = s.free := by
  exact ⟨rfl, rfl, rfl, rfl, rfl, rfl, rfl, rfl, rfl, rfl, rfl, rfl, rfl, rfl, rfl, rfl, rfl, rfl, rfl, rfl, rfl, rfl, rfl, rfl, rfl, rfl, rfl, rfl, rfl, rfl, rfl, rfl, rfl, rfl, rfl, rfl, rfl, rfl, rfl, rfl, rfl, rfl, rfl, rfl, rfl, rfl, rfl, rfl⟩

/-- `setComp` changes `comps` alone. -/
@[simp] theorem State.setComp_frame (n : Nat) (v : CompRing) :
    (s.setComp n v).pending = s.pending ∧ (s.setComp n v).clkCtl = s.clkCtl ∧ (s.setComp n v).mgmt = s.mgmt ∧ (s.setComp n v).log = s.log ∧
    (s.setComp n v).port = s.port ∧ (s.setComp n v).collFlags = s.collFlags ∧ (s.setComp n v).ssCecc = s.ssCecc ∧
    (s.setComp n v).verSel = s.verSel ∧ (s.setComp n v).rangeBase = s.rangeBase ∧ (s.setComp n v).parts = s.parts ∧
    (s.setComp n v).ctxs = s.ctxs ∧ (s.setComp n v).subs = s.subs ∧ (s.setComp n v).descs = s.descs ∧ (s.setComp n v).order = s.order ∧
    (s.setComp n v).ranges = s.ranges ∧ (s.setComp n v).sweep = s.sweep ∧ (s.setComp n v).faults = s.faults ∧
    (s.setComp n v).nextFault = s.nextFault ∧ (s.setComp n v).pools = s.pools ∧ (s.setComp n v).seqs = s.seqs ∧
    (s.setComp n v).seqTab = s.seqTab ∧ (s.setComp n v).seqTabUsed = s.seqTabUsed ∧ (s.setComp n v).seqCache = s.seqCache ∧
    (s.setComp n v).seqDirty = s.seqDirty ∧ (s.setComp n v).dropping = s.dropping ∧ (s.setComp n v).groups = s.groups ∧
    (s.setComp n v).loops = s.loops ∧ (s.setComp n v).models = s.models ∧ (s.setComp n v).ccores = s.ccores ∧
    (s.setComp n v).kernels = s.kernels ∧ (s.setComp n v).piste = s.piste ∧ (s.setComp n v).cores = s.cores ∧ (s.setComp n v).ports = s.ports ∧
    (s.setComp n v).smalls = s.smalls ∧ (s.setComp n v).dmaQ = s.dmaQ ∧ (s.setComp n v).watches = s.watches ∧ (s.setComp n v).rr = s.rr ∧
    (s.setComp n v).ss = s.ss ∧ (s.setComp n v).ssWins = s.ssWins ∧ (s.setComp n v).ssPoison = s.ssPoison ∧
    (s.setComp n v).scrubRow = s.scrubRow ∧ (s.setComp n v).wback = s.wback ∧ (s.setComp n v).loom = s.loom ∧
    (s.setComp n v).loomSent = s.loomSent ∧ (s.setComp n v).cvus = s.cvus ∧ (s.setComp n v).collLines = s.collLines ∧
    (s.setComp n v).mem = s.mem ∧ (s.setComp n v).free = s.free := by
  exact ⟨rfl, rfl, rfl, rfl, rfl, rfl, rfl, rfl, rfl, rfl, rfl, rfl, rfl, rfl, rfl, rfl, rfl, rfl, rfl, rfl, rfl, rfl, rfl, rfl, rfl, rfl, rfl, rfl, rfl, rfl, rfl, rfl, rfl, rfl, rfl, rfl, rfl, rfl, rfl, rfl, rfl, rfl, rfl, rfl, rfl, rfl, rfl, rfl⟩

/-- `setRange` changes `ranges` alone. -/
@[simp] theorem State.setRange_frame (h : Nat) (v : RangeEnt) :
    (s.setRange h v).pending = s.pending ∧ (s.setRange h v).clkCtl = s.clkCtl ∧ (s.setRange h v).mgmt = s.mgmt ∧ (s.setRange h v).log = s.log ∧
    (s.setRange h v).port = s.port ∧ (s.setRange h v).collFlags = s.collFlags ∧ (s.setRange h v).ssCecc = s.ssCecc ∧
    (s.setRange h v).verSel = s.verSel ∧ (s.setRange h v).rangeBase = s.rangeBase ∧ (s.setRange h v).parts = s.parts ∧
    (s.setRange h v).ctxs = s.ctxs ∧ (s.setRange h v).subs = s.subs ∧ (s.setRange h v).comps = s.comps ∧ (s.setRange h v).descs = s.descs ∧
    (s.setRange h v).order = s.order ∧ (s.setRange h v).sweep = s.sweep ∧ (s.setRange h v).faults = s.faults ∧
    (s.setRange h v).nextFault = s.nextFault ∧ (s.setRange h v).pools = s.pools ∧ (s.setRange h v).seqs = s.seqs ∧
    (s.setRange h v).seqTab = s.seqTab ∧ (s.setRange h v).seqTabUsed = s.seqTabUsed ∧ (s.setRange h v).seqCache = s.seqCache ∧
    (s.setRange h v).seqDirty = s.seqDirty ∧ (s.setRange h v).dropping = s.dropping ∧ (s.setRange h v).groups = s.groups ∧
    (s.setRange h v).loops = s.loops ∧ (s.setRange h v).models = s.models ∧ (s.setRange h v).ccores = s.ccores ∧
    (s.setRange h v).kernels = s.kernels ∧ (s.setRange h v).piste = s.piste ∧ (s.setRange h v).cores = s.cores ∧
    (s.setRange h v).ports = s.ports ∧ (s.setRange h v).smalls = s.smalls ∧ (s.setRange h v).dmaQ = s.dmaQ ∧
    (s.setRange h v).watches = s.watches ∧ (s.setRange h v).rr = s.rr ∧ (s.setRange h v).ss = s.ss ∧ (s.setRange h v).ssWins = s.ssWins ∧
    (s.setRange h v).ssPoison = s.ssPoison ∧ (s.setRange h v).scrubRow = s.scrubRow ∧ (s.setRange h v).wback = s.wback ∧
    (s.setRange h v).loom = s.loom ∧ (s.setRange h v).loomSent = s.loomSent ∧ (s.setRange h v).cvus = s.cvus ∧
    (s.setRange h v).collLines = s.collLines ∧ (s.setRange h v).mem = s.mem ∧ (s.setRange h v).free = s.free := by
  exact ⟨rfl, rfl, rfl, rfl, rfl, rfl, rfl, rfl, rfl, rfl, rfl, rfl, rfl, rfl, rfl, rfl, rfl, rfl, rfl, rfl, rfl, rfl, rfl, rfl, rfl, rfl, rfl, rfl, rfl, rfl, rfl, rfl, rfl, rfl, rfl, rfl, rfl, rfl, rfl, rfl, rfl, rfl, rfl, rfl, rfl, rfl, rfl, rfl⟩

/-- `setPool` changes `pools` alone. -/
@[simp] theorem State.setPool_frame (n : Nat) (v : Pool) :
    (s.setPool n v).pending = s.pending ∧ (s.setPool n v).clkCtl = s.clkCtl ∧ (s.setPool n v).mgmt = s.mgmt ∧ (s.setPool n v).log = s.log ∧
    (s.setPool n v).port = s.port ∧ (s.setPool n v).collFlags = s.collFlags ∧ (s.setPool n v).ssCecc = s.ssCecc ∧
    (s.setPool n v).verSel = s.verSel ∧ (s.setPool n v).rangeBase = s.rangeBase ∧ (s.setPool n v).parts = s.parts ∧
    (s.setPool n v).ctxs = s.ctxs ∧ (s.setPool n v).subs = s.subs ∧ (s.setPool n v).comps = s.comps ∧ (s.setPool n v).descs = s.descs ∧
    (s.setPool n v).order = s.order ∧ (s.setPool n v).ranges = s.ranges ∧ (s.setPool n v).sweep = s.sweep ∧ (s.setPool n v).faults = s.faults ∧
    (s.setPool n v).nextFault = s.nextFault ∧ (s.setPool n v).seqs = s.seqs ∧ (s.setPool n v).seqTab = s.seqTab ∧
    (s.setPool n v).seqTabUsed = s.seqTabUsed ∧ (s.setPool n v).seqCache = s.seqCache ∧ (s.setPool n v).seqDirty = s.seqDirty ∧
    (s.setPool n v).dropping = s.dropping ∧ (s.setPool n v).groups = s.groups ∧ (s.setPool n v).loops = s.loops ∧
    (s.setPool n v).models = s.models ∧ (s.setPool n v).ccores = s.ccores ∧ (s.setPool n v).kernels = s.kernels ∧
    (s.setPool n v).piste = s.piste ∧ (s.setPool n v).cores = s.cores ∧ (s.setPool n v).ports = s.ports ∧ (s.setPool n v).smalls = s.smalls ∧
    (s.setPool n v).dmaQ = s.dmaQ ∧ (s.setPool n v).watches = s.watches ∧ (s.setPool n v).rr = s.rr ∧ (s.setPool n v).ss = s.ss ∧
    (s.setPool n v).ssWins = s.ssWins ∧ (s.setPool n v).ssPoison = s.ssPoison ∧ (s.setPool n v).scrubRow = s.scrubRow ∧
    (s.setPool n v).wback = s.wback ∧ (s.setPool n v).loom = s.loom ∧ (s.setPool n v).loomSent = s.loomSent ∧ (s.setPool n v).cvus = s.cvus ∧
    (s.setPool n v).collLines = s.collLines ∧ (s.setPool n v).mem = s.mem ∧ (s.setPool n v).free = s.free := by
  exact ⟨rfl, rfl, rfl, rfl, rfl, rfl, rfl, rfl, rfl, rfl, rfl, rfl, rfl, rfl, rfl, rfl, rfl, rfl, rfl, rfl, rfl, rfl, rfl, rfl, rfl, rfl, rfl, rfl, rfl, rfl, rfl, rfl, rfl, rfl, rfl, rfl, rfl, rfl, rfl, rfl, rfl, rfl, rfl, rfl, rfl, rfl, rfl, rfl⟩

/-- `setSeq` changes `seqs` alone. -/
@[simp] theorem State.setSeq_frame (n : Nat) (v : Seq) :
    (s.setSeq n v).pending = s.pending ∧ (s.setSeq n v).clkCtl = s.clkCtl ∧ (s.setSeq n v).mgmt = s.mgmt ∧ (s.setSeq n v).log = s.log ∧
    (s.setSeq n v).port = s.port ∧ (s.setSeq n v).collFlags = s.collFlags ∧ (s.setSeq n v).ssCecc = s.ssCecc ∧ (s.setSeq n v).verSel = s.verSel ∧
    (s.setSeq n v).rangeBase = s.rangeBase ∧ (s.setSeq n v).parts = s.parts ∧ (s.setSeq n v).ctxs = s.ctxs ∧ (s.setSeq n v).subs = s.subs ∧
    (s.setSeq n v).comps = s.comps ∧ (s.setSeq n v).descs = s.descs ∧ (s.setSeq n v).order = s.order ∧ (s.setSeq n v).ranges = s.ranges ∧
    (s.setSeq n v).sweep = s.sweep ∧ (s.setSeq n v).faults = s.faults ∧ (s.setSeq n v).nextFault = s.nextFault ∧ (s.setSeq n v).pools = s.pools ∧
    (s.setSeq n v).seqTab = s.seqTab ∧ (s.setSeq n v).seqTabUsed = s.seqTabUsed ∧ (s.setSeq n v).seqCache = s.seqCache ∧
    (s.setSeq n v).seqDirty = s.seqDirty ∧ (s.setSeq n v).dropping = s.dropping ∧ (s.setSeq n v).groups = s.groups ∧
    (s.setSeq n v).loops = s.loops ∧ (s.setSeq n v).models = s.models ∧ (s.setSeq n v).ccores = s.ccores ∧ (s.setSeq n v).kernels = s.kernels ∧
    (s.setSeq n v).piste = s.piste ∧ (s.setSeq n v).cores = s.cores ∧ (s.setSeq n v).ports = s.ports ∧ (s.setSeq n v).smalls = s.smalls ∧
    (s.setSeq n v).dmaQ = s.dmaQ ∧ (s.setSeq n v).watches = s.watches ∧ (s.setSeq n v).rr = s.rr ∧ (s.setSeq n v).ss = s.ss ∧
    (s.setSeq n v).ssWins = s.ssWins ∧ (s.setSeq n v).ssPoison = s.ssPoison ∧ (s.setSeq n v).scrubRow = s.scrubRow ∧
    (s.setSeq n v).wback = s.wback ∧ (s.setSeq n v).loom = s.loom ∧ (s.setSeq n v).loomSent = s.loomSent ∧ (s.setSeq n v).cvus = s.cvus ∧
    (s.setSeq n v).collLines = s.collLines ∧ (s.setSeq n v).mem = s.mem ∧ (s.setSeq n v).free = s.free := by
  exact ⟨rfl, rfl, rfl, rfl, rfl, rfl, rfl, rfl, rfl, rfl, rfl, rfl, rfl, rfl, rfl, rfl, rfl, rfl, rfl, rfl, rfl, rfl, rfl, rfl, rfl, rfl, rfl, rfl, rfl, rfl, rfl, rfl, rfl, rfl, rfl, rfl, rfl, rfl, rfl, rfl, rfl, rfl, rfl, rfl, rfl, rfl, rfl, rfl⟩

/-- `setGroup` changes `groups` alone. -/
@[simp] theorem State.setGroup_frame (n : Nat) (v : Group) :
    (s.setGroup n v).pending = s.pending ∧ (s.setGroup n v).clkCtl = s.clkCtl ∧ (s.setGroup n v).mgmt = s.mgmt ∧ (s.setGroup n v).log = s.log ∧
    (s.setGroup n v).port = s.port ∧ (s.setGroup n v).collFlags = s.collFlags ∧ (s.setGroup n v).ssCecc = s.ssCecc ∧
    (s.setGroup n v).verSel = s.verSel ∧ (s.setGroup n v).rangeBase = s.rangeBase ∧ (s.setGroup n v).parts = s.parts ∧
    (s.setGroup n v).ctxs = s.ctxs ∧ (s.setGroup n v).subs = s.subs ∧ (s.setGroup n v).comps = s.comps ∧ (s.setGroup n v).descs = s.descs ∧
    (s.setGroup n v).order = s.order ∧ (s.setGroup n v).ranges = s.ranges ∧ (s.setGroup n v).sweep = s.sweep ∧
    (s.setGroup n v).faults = s.faults ∧ (s.setGroup n v).nextFault = s.nextFault ∧ (s.setGroup n v).pools = s.pools ∧
    (s.setGroup n v).seqs = s.seqs ∧ (s.setGroup n v).seqTab = s.seqTab ∧ (s.setGroup n v).seqTabUsed = s.seqTabUsed ∧
    (s.setGroup n v).seqCache = s.seqCache ∧ (s.setGroup n v).seqDirty = s.seqDirty ∧ (s.setGroup n v).dropping = s.dropping ∧
    (s.setGroup n v).loops = s.loops ∧ (s.setGroup n v).models = s.models ∧ (s.setGroup n v).ccores = s.ccores ∧
    (s.setGroup n v).kernels = s.kernels ∧ (s.setGroup n v).piste = s.piste ∧ (s.setGroup n v).cores = s.cores ∧
    (s.setGroup n v).ports = s.ports ∧ (s.setGroup n v).smalls = s.smalls ∧ (s.setGroup n v).dmaQ = s.dmaQ ∧
    (s.setGroup n v).watches = s.watches ∧ (s.setGroup n v).rr = s.rr ∧ (s.setGroup n v).ss = s.ss ∧ (s.setGroup n v).ssWins = s.ssWins ∧
    (s.setGroup n v).ssPoison = s.ssPoison ∧ (s.setGroup n v).scrubRow = s.scrubRow ∧ (s.setGroup n v).wback = s.wback ∧
    (s.setGroup n v).loom = s.loom ∧ (s.setGroup n v).loomSent = s.loomSent ∧ (s.setGroup n v).cvus = s.cvus ∧
    (s.setGroup n v).collLines = s.collLines ∧ (s.setGroup n v).mem = s.mem ∧ (s.setGroup n v).free = s.free := by
  exact ⟨rfl, rfl, rfl, rfl, rfl, rfl, rfl, rfl, rfl, rfl, rfl, rfl, rfl, rfl, rfl, rfl, rfl, rfl, rfl, rfl, rfl, rfl, rfl, rfl, rfl, rfl, rfl, rfl, rfl, rfl, rfl, rfl, rfl, rfl, rfl, rfl, rfl, rfl, rfl, rfl, rfl, rfl, rfl, rfl, rfl, rfl, rfl, rfl⟩

/-- `setLoop` changes `loops` alone. -/
@[simp] theorem State.setLoop_frame (n : Nat) (v : LoopSt) :
    (s.setLoop n v).pending = s.pending ∧ (s.setLoop n v).clkCtl = s.clkCtl ∧ (s.setLoop n v).mgmt = s.mgmt ∧ (s.setLoop n v).log = s.log ∧
    (s.setLoop n v).port = s.port ∧ (s.setLoop n v).collFlags = s.collFlags ∧ (s.setLoop n v).ssCecc = s.ssCecc ∧
    (s.setLoop n v).verSel = s.verSel ∧ (s.setLoop n v).rangeBase = s.rangeBase ∧ (s.setLoop n v).parts = s.parts ∧
    (s.setLoop n v).ctxs = s.ctxs ∧ (s.setLoop n v).subs = s.subs ∧ (s.setLoop n v).comps = s.comps ∧ (s.setLoop n v).descs = s.descs ∧
    (s.setLoop n v).order = s.order ∧ (s.setLoop n v).ranges = s.ranges ∧ (s.setLoop n v).sweep = s.sweep ∧ (s.setLoop n v).faults = s.faults ∧
    (s.setLoop n v).nextFault = s.nextFault ∧ (s.setLoop n v).pools = s.pools ∧ (s.setLoop n v).seqs = s.seqs ∧
    (s.setLoop n v).seqTab = s.seqTab ∧ (s.setLoop n v).seqTabUsed = s.seqTabUsed ∧ (s.setLoop n v).seqCache = s.seqCache ∧
    (s.setLoop n v).seqDirty = s.seqDirty ∧ (s.setLoop n v).dropping = s.dropping ∧ (s.setLoop n v).groups = s.groups ∧
    (s.setLoop n v).models = s.models ∧ (s.setLoop n v).ccores = s.ccores ∧ (s.setLoop n v).kernels = s.kernels ∧
    (s.setLoop n v).piste = s.piste ∧ (s.setLoop n v).cores = s.cores ∧ (s.setLoop n v).ports = s.ports ∧ (s.setLoop n v).smalls = s.smalls ∧
    (s.setLoop n v).dmaQ = s.dmaQ ∧ (s.setLoop n v).watches = s.watches ∧ (s.setLoop n v).rr = s.rr ∧ (s.setLoop n v).ss = s.ss ∧
    (s.setLoop n v).ssWins = s.ssWins ∧ (s.setLoop n v).ssPoison = s.ssPoison ∧ (s.setLoop n v).scrubRow = s.scrubRow ∧
    (s.setLoop n v).wback = s.wback ∧ (s.setLoop n v).loom = s.loom ∧ (s.setLoop n v).loomSent = s.loomSent ∧ (s.setLoop n v).cvus = s.cvus ∧
    (s.setLoop n v).collLines = s.collLines ∧ (s.setLoop n v).mem = s.mem ∧ (s.setLoop n v).free = s.free := by
  exact ⟨rfl, rfl, rfl, rfl, rfl, rfl, rfl, rfl, rfl, rfl, rfl, rfl, rfl, rfl, rfl, rfl, rfl, rfl, rfl, rfl, rfl, rfl, rfl, rfl, rfl, rfl, rfl, rfl, rfl, rfl, rfl, rfl, rfl, rfl, rfl, rfl, rfl, rfl, rfl, rfl, rfl, rfl, rfl, rfl, rfl, rfl, rfl, rfl⟩

/-- `setModel` changes `models` alone. -/
@[simp] theorem State.setModel_frame (n : Nat) (v : Model) :
    (s.setModel n v).pending = s.pending ∧ (s.setModel n v).clkCtl = s.clkCtl ∧ (s.setModel n v).mgmt = s.mgmt ∧ (s.setModel n v).log = s.log ∧
    (s.setModel n v).port = s.port ∧ (s.setModel n v).collFlags = s.collFlags ∧ (s.setModel n v).ssCecc = s.ssCecc ∧
    (s.setModel n v).verSel = s.verSel ∧ (s.setModel n v).rangeBase = s.rangeBase ∧ (s.setModel n v).parts = s.parts ∧
    (s.setModel n v).ctxs = s.ctxs ∧ (s.setModel n v).subs = s.subs ∧ (s.setModel n v).comps = s.comps ∧ (s.setModel n v).descs = s.descs ∧
    (s.setModel n v).order = s.order ∧ (s.setModel n v).ranges = s.ranges ∧ (s.setModel n v).sweep = s.sweep ∧
    (s.setModel n v).faults = s.faults ∧ (s.setModel n v).nextFault = s.nextFault ∧ (s.setModel n v).pools = s.pools ∧
    (s.setModel n v).seqs = s.seqs ∧ (s.setModel n v).seqTab = s.seqTab ∧ (s.setModel n v).seqTabUsed = s.seqTabUsed ∧
    (s.setModel n v).seqCache = s.seqCache ∧ (s.setModel n v).seqDirty = s.seqDirty ∧ (s.setModel n v).dropping = s.dropping ∧
    (s.setModel n v).groups = s.groups ∧ (s.setModel n v).loops = s.loops ∧ (s.setModel n v).ccores = s.ccores ∧
    (s.setModel n v).kernels = s.kernels ∧ (s.setModel n v).piste = s.piste ∧ (s.setModel n v).cores = s.cores ∧
    (s.setModel n v).ports = s.ports ∧ (s.setModel n v).smalls = s.smalls ∧ (s.setModel n v).dmaQ = s.dmaQ ∧
    (s.setModel n v).watches = s.watches ∧ (s.setModel n v).rr = s.rr ∧ (s.setModel n v).ss = s.ss ∧ (s.setModel n v).ssWins = s.ssWins ∧
    (s.setModel n v).ssPoison = s.ssPoison ∧ (s.setModel n v).scrubRow = s.scrubRow ∧ (s.setModel n v).wback = s.wback ∧
    (s.setModel n v).loom = s.loom ∧ (s.setModel n v).loomSent = s.loomSent ∧ (s.setModel n v).cvus = s.cvus ∧
    (s.setModel n v).collLines = s.collLines ∧ (s.setModel n v).mem = s.mem ∧ (s.setModel n v).free = s.free := by
  exact ⟨rfl, rfl, rfl, rfl, rfl, rfl, rfl, rfl, rfl, rfl, rfl, rfl, rfl, rfl, rfl, rfl, rfl, rfl, rfl, rfl, rfl, rfl, rfl, rfl, rfl, rfl, rfl, rfl, rfl, rfl, rfl, rfl, rfl, rfl, rfl, rfl, rfl, rfl, rfl, rfl, rfl, rfl, rfl, rfl, rfl, rfl, rfl, rfl⟩

/-- `setCcore` changes `ccores` alone. -/
@[simp] theorem State.setCcore_frame (n : Nat) (v : CCore) :
    (s.setCcore n v).pending = s.pending ∧ (s.setCcore n v).clkCtl = s.clkCtl ∧ (s.setCcore n v).mgmt = s.mgmt ∧ (s.setCcore n v).log = s.log ∧
    (s.setCcore n v).port = s.port ∧ (s.setCcore n v).collFlags = s.collFlags ∧ (s.setCcore n v).ssCecc = s.ssCecc ∧
    (s.setCcore n v).verSel = s.verSel ∧ (s.setCcore n v).rangeBase = s.rangeBase ∧ (s.setCcore n v).parts = s.parts ∧
    (s.setCcore n v).ctxs = s.ctxs ∧ (s.setCcore n v).subs = s.subs ∧ (s.setCcore n v).comps = s.comps ∧ (s.setCcore n v).descs = s.descs ∧
    (s.setCcore n v).order = s.order ∧ (s.setCcore n v).ranges = s.ranges ∧ (s.setCcore n v).sweep = s.sweep ∧
    (s.setCcore n v).faults = s.faults ∧ (s.setCcore n v).nextFault = s.nextFault ∧ (s.setCcore n v).pools = s.pools ∧
    (s.setCcore n v).seqs = s.seqs ∧ (s.setCcore n v).seqTab = s.seqTab ∧ (s.setCcore n v).seqTabUsed = s.seqTabUsed ∧
    (s.setCcore n v).seqCache = s.seqCache ∧ (s.setCcore n v).seqDirty = s.seqDirty ∧ (s.setCcore n v).dropping = s.dropping ∧
    (s.setCcore n v).groups = s.groups ∧ (s.setCcore n v).loops = s.loops ∧ (s.setCcore n v).models = s.models ∧
    (s.setCcore n v).kernels = s.kernels ∧ (s.setCcore n v).piste = s.piste ∧ (s.setCcore n v).cores = s.cores ∧
    (s.setCcore n v).ports = s.ports ∧ (s.setCcore n v).smalls = s.smalls ∧ (s.setCcore n v).dmaQ = s.dmaQ ∧
    (s.setCcore n v).watches = s.watches ∧ (s.setCcore n v).rr = s.rr ∧ (s.setCcore n v).ss = s.ss ∧ (s.setCcore n v).ssWins = s.ssWins ∧
    (s.setCcore n v).ssPoison = s.ssPoison ∧ (s.setCcore n v).scrubRow = s.scrubRow ∧ (s.setCcore n v).wback = s.wback ∧
    (s.setCcore n v).loom = s.loom ∧ (s.setCcore n v).loomSent = s.loomSent ∧ (s.setCcore n v).cvus = s.cvus ∧
    (s.setCcore n v).collLines = s.collLines ∧ (s.setCcore n v).mem = s.mem ∧ (s.setCcore n v).free = s.free := by
  exact ⟨rfl, rfl, rfl, rfl, rfl, rfl, rfl, rfl, rfl, rfl, rfl, rfl, rfl, rfl, rfl, rfl, rfl, rfl, rfl, rfl, rfl, rfl, rfl, rfl, rfl, rfl, rfl, rfl, rfl, rfl, rfl, rfl, rfl, rfl, rfl, rfl, rfl, rfl, rfl, rfl, rfl, rfl, rfl, rfl, rfl, rfl, rfl, rfl⟩

/-- `setKernel` changes `kernels` alone. -/
@[simp] theorem State.setKernel_frame (n : Nat) (v : Kernel) :
    (s.setKernel n v).pending = s.pending ∧ (s.setKernel n v).clkCtl = s.clkCtl ∧ (s.setKernel n v).mgmt = s.mgmt ∧
    (s.setKernel n v).log = s.log ∧ (s.setKernel n v).port = s.port ∧ (s.setKernel n v).collFlags = s.collFlags ∧
    (s.setKernel n v).ssCecc = s.ssCecc ∧ (s.setKernel n v).verSel = s.verSel ∧ (s.setKernel n v).rangeBase = s.rangeBase ∧
    (s.setKernel n v).parts = s.parts ∧ (s.setKernel n v).ctxs = s.ctxs ∧ (s.setKernel n v).subs = s.subs ∧ (s.setKernel n v).comps = s.comps ∧
    (s.setKernel n v).descs = s.descs ∧ (s.setKernel n v).order = s.order ∧ (s.setKernel n v).ranges = s.ranges ∧
    (s.setKernel n v).sweep = s.sweep ∧ (s.setKernel n v).faults = s.faults ∧ (s.setKernel n v).nextFault = s.nextFault ∧
    (s.setKernel n v).pools = s.pools ∧ (s.setKernel n v).seqs = s.seqs ∧ (s.setKernel n v).seqTab = s.seqTab ∧
    (s.setKernel n v).seqTabUsed = s.seqTabUsed ∧ (s.setKernel n v).seqCache = s.seqCache ∧ (s.setKernel n v).seqDirty = s.seqDirty ∧
    (s.setKernel n v).dropping = s.dropping ∧ (s.setKernel n v).groups = s.groups ∧ (s.setKernel n v).loops = s.loops ∧
    (s.setKernel n v).models = s.models ∧ (s.setKernel n v).ccores = s.ccores ∧ (s.setKernel n v).piste = s.piste ∧
    (s.setKernel n v).cores = s.cores ∧ (s.setKernel n v).ports = s.ports ∧ (s.setKernel n v).smalls = s.smalls ∧
    (s.setKernel n v).dmaQ = s.dmaQ ∧ (s.setKernel n v).watches = s.watches ∧ (s.setKernel n v).rr = s.rr ∧ (s.setKernel n v).ss = s.ss ∧
    (s.setKernel n v).ssWins = s.ssWins ∧ (s.setKernel n v).ssPoison = s.ssPoison ∧ (s.setKernel n v).scrubRow = s.scrubRow ∧
    (s.setKernel n v).wback = s.wback ∧ (s.setKernel n v).loom = s.loom ∧ (s.setKernel n v).loomSent = s.loomSent ∧
    (s.setKernel n v).cvus = s.cvus ∧ (s.setKernel n v).collLines = s.collLines ∧ (s.setKernel n v).mem = s.mem ∧ (s.setKernel n v).free = s.free := by
  exact ⟨rfl, rfl, rfl, rfl, rfl, rfl, rfl, rfl, rfl, rfl, rfl, rfl, rfl, rfl, rfl, rfl, rfl, rfl, rfl, rfl, rfl, rfl, rfl, rfl, rfl, rfl, rfl, rfl, rfl, rfl, rfl, rfl, rfl, rfl, rfl, rfl, rfl, rfl, rfl, rfl, rfl, rfl, rfl, rfl, rfl, rfl, rfl, rfl⟩

/-- `setCore` changes `cores` alone. -/
@[simp] theorem State.setCore_frame (n : Nat) (v : Core) :
    (s.setCore n v).pending = s.pending ∧ (s.setCore n v).clkCtl = s.clkCtl ∧ (s.setCore n v).mgmt = s.mgmt ∧ (s.setCore n v).log = s.log ∧
    (s.setCore n v).port = s.port ∧ (s.setCore n v).collFlags = s.collFlags ∧ (s.setCore n v).ssCecc = s.ssCecc ∧
    (s.setCore n v).verSel = s.verSel ∧ (s.setCore n v).rangeBase = s.rangeBase ∧ (s.setCore n v).parts = s.parts ∧
    (s.setCore n v).ctxs = s.ctxs ∧ (s.setCore n v).subs = s.subs ∧ (s.setCore n v).comps = s.comps ∧ (s.setCore n v).descs = s.descs ∧
    (s.setCore n v).order = s.order ∧ (s.setCore n v).ranges = s.ranges ∧ (s.setCore n v).sweep = s.sweep ∧ (s.setCore n v).faults = s.faults ∧
    (s.setCore n v).nextFault = s.nextFault ∧ (s.setCore n v).pools = s.pools ∧ (s.setCore n v).seqs = s.seqs ∧
    (s.setCore n v).seqTab = s.seqTab ∧ (s.setCore n v).seqTabUsed = s.seqTabUsed ∧ (s.setCore n v).seqCache = s.seqCache ∧
    (s.setCore n v).seqDirty = s.seqDirty ∧ (s.setCore n v).dropping = s.dropping ∧ (s.setCore n v).groups = s.groups ∧
    (s.setCore n v).loops = s.loops ∧ (s.setCore n v).models = s.models ∧ (s.setCore n v).ccores = s.ccores ∧
    (s.setCore n v).kernels = s.kernels ∧ (s.setCore n v).piste = s.piste ∧ (s.setCore n v).ports = s.ports ∧ (s.setCore n v).smalls = s.smalls ∧
    (s.setCore n v).dmaQ = s.dmaQ ∧ (s.setCore n v).watches = s.watches ∧ (s.setCore n v).rr = s.rr ∧ (s.setCore n v).ss = s.ss ∧
    (s.setCore n v).ssWins = s.ssWins ∧ (s.setCore n v).ssPoison = s.ssPoison ∧ (s.setCore n v).scrubRow = s.scrubRow ∧
    (s.setCore n v).wback = s.wback ∧ (s.setCore n v).loom = s.loom ∧ (s.setCore n v).loomSent = s.loomSent ∧ (s.setCore n v).cvus = s.cvus ∧
    (s.setCore n v).collLines = s.collLines ∧ (s.setCore n v).mem = s.mem ∧ (s.setCore n v).free = s.free := by
  exact ⟨rfl, rfl, rfl, rfl, rfl, rfl, rfl, rfl, rfl, rfl, rfl, rfl, rfl, rfl, rfl, rfl, rfl, rfl, rfl, rfl, rfl, rfl, rfl, rfl, rfl, rfl, rfl, rfl, rfl, rfl, rfl, rfl, rfl, rfl, rfl, rfl, rfl, rfl, rfl, rfl, rfl, rfl, rfl, rfl, rfl, rfl, rfl, rfl⟩

/-- `setFport` changes `ports` alone. -/
@[simp] theorem State.setFport_frame (n : Nat) (v : FPort) :
    (s.setFport n v).pending = s.pending ∧ (s.setFport n v).clkCtl = s.clkCtl ∧ (s.setFport n v).mgmt = s.mgmt ∧ (s.setFport n v).log = s.log ∧
    (s.setFport n v).port = s.port ∧ (s.setFport n v).collFlags = s.collFlags ∧ (s.setFport n v).ssCecc = s.ssCecc ∧
    (s.setFport n v).verSel = s.verSel ∧ (s.setFport n v).rangeBase = s.rangeBase ∧ (s.setFport n v).parts = s.parts ∧
    (s.setFport n v).ctxs = s.ctxs ∧ (s.setFport n v).subs = s.subs ∧ (s.setFport n v).comps = s.comps ∧ (s.setFport n v).descs = s.descs ∧
    (s.setFport n v).order = s.order ∧ (s.setFport n v).ranges = s.ranges ∧ (s.setFport n v).sweep = s.sweep ∧
    (s.setFport n v).faults = s.faults ∧ (s.setFport n v).nextFault = s.nextFault ∧ (s.setFport n v).pools = s.pools ∧
    (s.setFport n v).seqs = s.seqs ∧ (s.setFport n v).seqTab = s.seqTab ∧ (s.setFport n v).seqTabUsed = s.seqTabUsed ∧
    (s.setFport n v).seqCache = s.seqCache ∧ (s.setFport n v).seqDirty = s.seqDirty ∧ (s.setFport n v).dropping = s.dropping ∧
    (s.setFport n v).groups = s.groups ∧ (s.setFport n v).loops = s.loops ∧ (s.setFport n v).models = s.models ∧
    (s.setFport n v).ccores = s.ccores ∧ (s.setFport n v).kernels = s.kernels ∧ (s.setFport n v).piste = s.piste ∧
    (s.setFport n v).cores = s.cores ∧ (s.setFport n v).smalls = s.smalls ∧ (s.setFport n v).dmaQ = s.dmaQ ∧
    (s.setFport n v).watches = s.watches ∧ (s.setFport n v).rr = s.rr ∧ (s.setFport n v).ss = s.ss ∧ (s.setFport n v).ssWins = s.ssWins ∧
    (s.setFport n v).ssPoison = s.ssPoison ∧ (s.setFport n v).scrubRow = s.scrubRow ∧ (s.setFport n v).wback = s.wback ∧
    (s.setFport n v).loom = s.loom ∧ (s.setFport n v).loomSent = s.loomSent ∧ (s.setFport n v).cvus = s.cvus ∧
    (s.setFport n v).collLines = s.collLines ∧ (s.setFport n v).mem = s.mem ∧ (s.setFport n v).free = s.free := by
  exact ⟨rfl, rfl, rfl, rfl, rfl, rfl, rfl, rfl, rfl, rfl, rfl, rfl, rfl, rfl, rfl, rfl, rfl, rfl, rfl, rfl, rfl, rfl, rfl, rfl, rfl, rfl, rfl, rfl, rfl, rfl, rfl, rfl, rfl, rfl, rfl, rfl, rfl, rfl, rfl, rfl, rfl, rfl, rfl, rfl, rfl, rfl, rfl, rfl⟩

/-- `setWatch` changes `watches` alone. -/
@[simp] theorem State.setWatch_frame (n : Nat) (v : Watch) :
    (s.setWatch n v).pending = s.pending ∧ (s.setWatch n v).clkCtl = s.clkCtl ∧ (s.setWatch n v).mgmt = s.mgmt ∧ (s.setWatch n v).log = s.log ∧
    (s.setWatch n v).port = s.port ∧ (s.setWatch n v).collFlags = s.collFlags ∧ (s.setWatch n v).ssCecc = s.ssCecc ∧
    (s.setWatch n v).verSel = s.verSel ∧ (s.setWatch n v).rangeBase = s.rangeBase ∧ (s.setWatch n v).parts = s.parts ∧
    (s.setWatch n v).ctxs = s.ctxs ∧ (s.setWatch n v).subs = s.subs ∧ (s.setWatch n v).comps = s.comps ∧ (s.setWatch n v).descs = s.descs ∧
    (s.setWatch n v).order = s.order ∧ (s.setWatch n v).ranges = s.ranges ∧ (s.setWatch n v).sweep = s.sweep ∧
    (s.setWatch n v).faults = s.faults ∧ (s.setWatch n v).nextFault = s.nextFault ∧ (s.setWatch n v).pools = s.pools ∧
    (s.setWatch n v).seqs = s.seqs ∧ (s.setWatch n v).seqTab = s.seqTab ∧ (s.setWatch n v).seqTabUsed = s.seqTabUsed ∧
    (s.setWatch n v).seqCache = s.seqCache ∧ (s.setWatch n v).seqDirty = s.seqDirty ∧ (s.setWatch n v).dropping = s.dropping ∧
    (s.setWatch n v).groups = s.groups ∧ (s.setWatch n v).loops = s.loops ∧ (s.setWatch n v).models = s.models ∧
    (s.setWatch n v).ccores = s.ccores ∧ (s.setWatch n v).kernels = s.kernels ∧ (s.setWatch n v).piste = s.piste ∧
    (s.setWatch n v).cores = s.cores ∧ (s.setWatch n v).ports = s.ports ∧ (s.setWatch n v).smalls = s.smalls ∧ (s.setWatch n v).dmaQ = s.dmaQ ∧
    (s.setWatch n v).rr = s.rr ∧ (s.setWatch n v).ss = s.ss ∧ (s.setWatch n v).ssWins = s.ssWins ∧ (s.setWatch n v).ssPoison = s.ssPoison ∧
    (s.setWatch n v).scrubRow = s.scrubRow ∧ (s.setWatch n v).wback = s.wback ∧ (s.setWatch n v).loom = s.loom ∧
    (s.setWatch n v).loomSent = s.loomSent ∧ (s.setWatch n v).cvus = s.cvus ∧ (s.setWatch n v).collLines = s.collLines ∧
    (s.setWatch n v).mem = s.mem ∧ (s.setWatch n v).free = s.free := by
  exact ⟨rfl, rfl, rfl, rfl, rfl, rfl, rfl, rfl, rfl, rfl, rfl, rfl, rfl, rfl, rfl, rfl, rfl, rfl, rfl, rfl, rfl, rfl, rfl, rfl, rfl, rfl, rfl, rfl, rfl, rfl, rfl, rfl, rfl, rfl, rfl, rfl, rfl, rfl, rfl, rfl, rfl, rfl, rfl, rfl, rfl, rfl, rfl, rfl⟩

/-- `setSsWin` changes `ssWins` alone. -/
@[simp] theorem State.setSsWin_frame (n : Nat) (v : SsWindow) :
    (s.setSsWin n v).pending = s.pending ∧ (s.setSsWin n v).clkCtl = s.clkCtl ∧ (s.setSsWin n v).mgmt = s.mgmt ∧ (s.setSsWin n v).log = s.log ∧
    (s.setSsWin n v).port = s.port ∧ (s.setSsWin n v).collFlags = s.collFlags ∧ (s.setSsWin n v).ssCecc = s.ssCecc ∧
    (s.setSsWin n v).verSel = s.verSel ∧ (s.setSsWin n v).rangeBase = s.rangeBase ∧ (s.setSsWin n v).parts = s.parts ∧
    (s.setSsWin n v).ctxs = s.ctxs ∧ (s.setSsWin n v).subs = s.subs ∧ (s.setSsWin n v).comps = s.comps ∧ (s.setSsWin n v).descs = s.descs ∧
    (s.setSsWin n v).order = s.order ∧ (s.setSsWin n v).ranges = s.ranges ∧ (s.setSsWin n v).sweep = s.sweep ∧
    (s.setSsWin n v).faults = s.faults ∧ (s.setSsWin n v).nextFault = s.nextFault ∧ (s.setSsWin n v).pools = s.pools ∧
    (s.setSsWin n v).seqs = s.seqs ∧ (s.setSsWin n v).seqTab = s.seqTab ∧ (s.setSsWin n v).seqTabUsed = s.seqTabUsed ∧
    (s.setSsWin n v).seqCache = s.seqCache ∧ (s.setSsWin n v).seqDirty = s.seqDirty ∧ (s.setSsWin n v).dropping = s.dropping ∧
    (s.setSsWin n v).groups = s.groups ∧ (s.setSsWin n v).loops = s.loops ∧ (s.setSsWin n v).models = s.models ∧
    (s.setSsWin n v).ccores = s.ccores ∧ (s.setSsWin n v).kernels = s.kernels ∧ (s.setSsWin n v).piste = s.piste ∧
    (s.setSsWin n v).cores = s.cores ∧ (s.setSsWin n v).ports = s.ports ∧ (s.setSsWin n v).smalls = s.smalls ∧ (s.setSsWin n v).dmaQ = s.dmaQ ∧
    (s.setSsWin n v).watches = s.watches ∧ (s.setSsWin n v).rr = s.rr ∧ (s.setSsWin n v).ss = s.ss ∧ (s.setSsWin n v).ssPoison = s.ssPoison ∧
    (s.setSsWin n v).scrubRow = s.scrubRow ∧ (s.setSsWin n v).wback = s.wback ∧ (s.setSsWin n v).loom = s.loom ∧
    (s.setSsWin n v).loomSent = s.loomSent ∧ (s.setSsWin n v).cvus = s.cvus ∧ (s.setSsWin n v).collLines = s.collLines ∧
    (s.setSsWin n v).mem = s.mem ∧ (s.setSsWin n v).free = s.free := by
  exact ⟨rfl, rfl, rfl, rfl, rfl, rfl, rfl, rfl, rfl, rfl, rfl, rfl, rfl, rfl, rfl, rfl, rfl, rfl, rfl, rfl, rfl, rfl, rfl, rfl, rfl, rfl, rfl, rfl, rfl, rfl, rfl, rfl, rfl, rfl, rfl, rfl, rfl, rfl, rfl, rfl, rfl, rfl, rfl, rfl, rfl, rfl, rfl, rfl⟩

/-- `setPiste` changes `piste` alone. -/
@[simp] theorem State.setPiste_frame (c n : Nat) (v : Piste) :
    (s.setPiste c n v).pending = s.pending ∧ (s.setPiste c n v).clkCtl = s.clkCtl ∧ (s.setPiste c n v).mgmt = s.mgmt ∧
    (s.setPiste c n v).log = s.log ∧ (s.setPiste c n v).port = s.port ∧ (s.setPiste c n v).collFlags = s.collFlags ∧
    (s.setPiste c n v).ssCecc = s.ssCecc ∧ (s.setPiste c n v).verSel = s.verSel ∧ (s.setPiste c n v).rangeBase = s.rangeBase ∧
    (s.setPiste c n v).parts = s.parts ∧ (s.setPiste c n v).ctxs = s.ctxs ∧ (s.setPiste c n v).subs = s.subs ∧
    (s.setPiste c n v).comps = s.comps ∧ (s.setPiste c n v).descs = s.descs ∧ (s.setPiste c n v).order = s.order ∧
    (s.setPiste c n v).ranges = s.ranges ∧ (s.setPiste c n v).sweep = s.sweep ∧ (s.setPiste c n v).faults = s.faults ∧
    (s.setPiste c n v).nextFault = s.nextFault ∧ (s.setPiste c n v).pools = s.pools ∧ (s.setPiste c n v).seqs = s.seqs ∧
    (s.setPiste c n v).seqTab = s.seqTab ∧ (s.setPiste c n v).seqTabUsed = s.seqTabUsed ∧ (s.setPiste c n v).seqCache = s.seqCache ∧
    (s.setPiste c n v).seqDirty = s.seqDirty ∧ (s.setPiste c n v).dropping = s.dropping ∧ (s.setPiste c n v).groups = s.groups ∧
    (s.setPiste c n v).loops = s.loops ∧ (s.setPiste c n v).models = s.models ∧ (s.setPiste c n v).ccores = s.ccores ∧
    (s.setPiste c n v).kernels = s.kernels ∧ (s.setPiste c n v).cores = s.cores ∧ (s.setPiste c n v).ports = s.ports ∧
    (s.setPiste c n v).smalls = s.smalls ∧ (s.setPiste c n v).dmaQ = s.dmaQ ∧ (s.setPiste c n v).watches = s.watches ∧
    (s.setPiste c n v).rr = s.rr ∧ (s.setPiste c n v).ss = s.ss ∧ (s.setPiste c n v).ssWins = s.ssWins ∧
    (s.setPiste c n v).ssPoison = s.ssPoison ∧ (s.setPiste c n v).scrubRow = s.scrubRow ∧ (s.setPiste c n v).wback = s.wback ∧
    (s.setPiste c n v).loom = s.loom ∧ (s.setPiste c n v).loomSent = s.loomSent ∧ (s.setPiste c n v).cvus = s.cvus ∧
    (s.setPiste c n v).collLines = s.collLines ∧ (s.setPiste c n v).mem = s.mem ∧ (s.setPiste c n v).free = s.free := by
  exact ⟨rfl, rfl, rfl, rfl, rfl, rfl, rfl, rfl, rfl, rfl, rfl, rfl, rfl, rfl, rfl, rfl, rfl, rfl, rfl, rfl, rfl, rfl, rfl, rfl, rfl, rfl, rfl, rfl, rfl, rfl, rfl, rfl, rfl, rfl, rfl, rfl, rfl, rfl, rfl, rfl, rfl, rfl, rfl, rfl, rfl, rfl, rfl, rfl⟩

/-- `setCluster` changes `mgmt` alone. -/
@[simp] theorem State.setCluster_frame (n : Nat) (v : Cluster) :
    (s.setCluster n v).pending = s.pending ∧ (s.setCluster n v).clkCtl = s.clkCtl ∧ (s.setCluster n v).log = s.log ∧
    (s.setCluster n v).port = s.port ∧ (s.setCluster n v).collFlags = s.collFlags ∧ (s.setCluster n v).ssCecc = s.ssCecc ∧
    (s.setCluster n v).verSel = s.verSel ∧ (s.setCluster n v).rangeBase = s.rangeBase ∧ (s.setCluster n v).parts = s.parts ∧
    (s.setCluster n v).ctxs = s.ctxs ∧ (s.setCluster n v).subs = s.subs ∧ (s.setCluster n v).comps = s.comps ∧
    (s.setCluster n v).descs = s.descs ∧ (s.setCluster n v).order = s.order ∧ (s.setCluster n v).ranges = s.ranges ∧
    (s.setCluster n v).sweep = s.sweep ∧ (s.setCluster n v).faults = s.faults ∧ (s.setCluster n v).nextFault = s.nextFault ∧
    (s.setCluster n v).pools = s.pools ∧ (s.setCluster n v).seqs = s.seqs ∧ (s.setCluster n v).seqTab = s.seqTab ∧
    (s.setCluster n v).seqTabUsed = s.seqTabUsed ∧ (s.setCluster n v).seqCache = s.seqCache ∧ (s.setCluster n v).seqDirty = s.seqDirty ∧
    (s.setCluster n v).dropping = s.dropping ∧ (s.setCluster n v).groups = s.groups ∧ (s.setCluster n v).loops = s.loops ∧
    (s.setCluster n v).models = s.models ∧ (s.setCluster n v).ccores = s.ccores ∧ (s.setCluster n v).kernels = s.kernels ∧
    (s.setCluster n v).piste = s.piste ∧ (s.setCluster n v).cores = s.cores ∧ (s.setCluster n v).ports = s.ports ∧
    (s.setCluster n v).smalls = s.smalls ∧ (s.setCluster n v).dmaQ = s.dmaQ ∧ (s.setCluster n v).watches = s.watches ∧
    (s.setCluster n v).rr = s.rr ∧ (s.setCluster n v).ss = s.ss ∧ (s.setCluster n v).ssWins = s.ssWins ∧
    (s.setCluster n v).ssPoison = s.ssPoison ∧ (s.setCluster n v).scrubRow = s.scrubRow ∧ (s.setCluster n v).wback = s.wback ∧
    (s.setCluster n v).loom = s.loom ∧ (s.setCluster n v).loomSent = s.loomSent ∧ (s.setCluster n v).cvus = s.cvus ∧
    (s.setCluster n v).collLines = s.collLines ∧ (s.setCluster n v).mem = s.mem ∧ (s.setCluster n v).free = s.free := by
  exact ⟨rfl, rfl, rfl, rfl, rfl, rfl, rfl, rfl, rfl, rfl, rfl, rfl, rfl, rfl, rfl, rfl, rfl, rfl, rfl, rfl, rfl, rfl, rfl, rfl, rfl, rfl, rfl, rfl, rfl, rfl, rfl, rfl, rfl, rfl, rfl, rfl, rfl, rfl, rfl, rfl, rfl, rfl, rfl, rfl, rfl, rfl, rfl, rfl⟩

/-- `tick` changes `clkCtl` alone. -/
@[simp] theorem State.tick_frame :
    s.tick.pending = s.pending ∧ s.tick.mgmt = s.mgmt ∧ s.tick.log = s.log ∧ s.tick.port = s.port ∧ s.tick.collFlags = s.collFlags ∧
    s.tick.ssCecc = s.ssCecc ∧ s.tick.verSel = s.verSel ∧ s.tick.rangeBase = s.rangeBase ∧ s.tick.parts = s.parts ∧ s.tick.ctxs = s.ctxs ∧
    s.tick.subs = s.subs ∧ s.tick.comps = s.comps ∧ s.tick.descs = s.descs ∧ s.tick.order = s.order ∧ s.tick.ranges = s.ranges ∧
    s.tick.sweep = s.sweep ∧ s.tick.faults = s.faults ∧ s.tick.nextFault = s.nextFault ∧ s.tick.pools = s.pools ∧ s.tick.seqs = s.seqs ∧
    s.tick.seqTab = s.seqTab ∧ s.tick.seqTabUsed = s.seqTabUsed ∧ s.tick.seqCache = s.seqCache ∧ s.tick.seqDirty = s.seqDirty ∧
    s.tick.dropping = s.dropping ∧ s.tick.groups = s.groups ∧ s.tick.loops = s.loops ∧ s.tick.models = s.models ∧ s.tick.ccores = s.ccores ∧
    s.tick.kernels = s.kernels ∧ s.tick.piste = s.piste ∧ s.tick.cores = s.cores ∧ s.tick.ports = s.ports ∧ s.tick.smalls = s.smalls ∧
    s.tick.dmaQ = s.dmaQ ∧ s.tick.watches = s.watches ∧ s.tick.rr = s.rr ∧ s.tick.ss = s.ss ∧ s.tick.ssWins = s.ssWins ∧
    s.tick.ssPoison = s.ssPoison ∧ s.tick.scrubRow = s.scrubRow ∧ s.tick.wback = s.wback ∧ s.tick.loom = s.loom ∧ s.tick.loomSent = s.loomSent ∧
    s.tick.cvus = s.cvus ∧ s.tick.collLines = s.collLines ∧ s.tick.mem = s.mem ∧ s.tick.free = s.free := by
  exact ⟨rfl, rfl, rfl, rfl, rfl, rfl, rfl, rfl, rfl, rfl, rfl, rfl, rfl, rfl, rfl, rfl, rfl, rfl, rfl, rfl, rfl, rfl, rfl, rfl, rfl, rfl, rfl, rfl, rfl, rfl, rfl, rfl, rfl, rfl, rfl, rfl, rfl, rfl, rfl, rfl, rfl, rfl, rfl, rfl, rfl, rfl, rfl, rfl⟩

/-- `withStore` changes `mem` and `ss` and `ssPoison` and `wback` alone. -/
@[simp] theorem State.withStore_frame (m : Store) :
    (s.withStore m).pending = s.pending ∧ (s.withStore m).clkCtl = s.clkCtl ∧ (s.withStore m).mgmt = s.mgmt ∧ (s.withStore m).log = s.log ∧
    (s.withStore m).port = s.port ∧ (s.withStore m).collFlags = s.collFlags ∧ (s.withStore m).ssCecc = s.ssCecc ∧
    (s.withStore m).verSel = s.verSel ∧ (s.withStore m).rangeBase = s.rangeBase ∧ (s.withStore m).parts = s.parts ∧
    (s.withStore m).ctxs = s.ctxs ∧ (s.withStore m).subs = s.subs ∧ (s.withStore m).comps = s.comps ∧ (s.withStore m).descs = s.descs ∧
    (s.withStore m).order = s.order ∧ (s.withStore m).ranges = s.ranges ∧ (s.withStore m).sweep = s.sweep ∧ (s.withStore m).faults = s.faults ∧
    (s.withStore m).nextFault = s.nextFault ∧ (s.withStore m).pools = s.pools ∧ (s.withStore m).seqs = s.seqs ∧
    (s.withStore m).seqTab = s.seqTab ∧ (s.withStore m).seqTabUsed = s.seqTabUsed ∧ (s.withStore m).seqCache = s.seqCache ∧
    (s.withStore m).seqDirty = s.seqDirty ∧ (s.withStore m).dropping = s.dropping ∧ (s.withStore m).groups = s.groups ∧
    (s.withStore m).loops = s.loops ∧ (s.withStore m).models = s.models ∧ (s.withStore m).ccores = s.ccores ∧
    (s.withStore m).kernels = s.kernels ∧ (s.withStore m).piste = s.piste ∧ (s.withStore m).cores = s.cores ∧ (s.withStore m).ports = s.ports ∧
    (s.withStore m).smalls = s.smalls ∧ (s.withStore m).dmaQ = s.dmaQ ∧ (s.withStore m).watches = s.watches ∧ (s.withStore m).rr = s.rr ∧
    (s.withStore m).ssWins = s.ssWins ∧ (s.withStore m).scrubRow = s.scrubRow ∧ (s.withStore m).loom = s.loom ∧
    (s.withStore m).loomSent = s.loomSent ∧ (s.withStore m).cvus = s.cvus ∧ (s.withStore m).collLines = s.collLines ∧
    (s.withStore m).free = s.free := by
  exact ⟨rfl, rfl, rfl, rfl, rfl, rfl, rfl, rfl, rfl, rfl, rfl, rfl, rfl, rfl, rfl, rfl, rfl, rfl, rfl, rfl, rfl, rfl, rfl, rfl, rfl, rfl, rfl, rfl, rfl, rfl, rfl, rfl, rfl, rfl, rfl, rfl, rfl, rfl, rfl, rfl, rfl, rfl, rfl, rfl, rfl⟩

/-- `memPut` changes `mem` alone. -/
@[simp] theorem State.memPut_frame (a : Nat) (bs : List Byte) :
    (s.memPut a bs).pending = s.pending ∧ (s.memPut a bs).clkCtl = s.clkCtl ∧ (s.memPut a bs).mgmt = s.mgmt ∧ (s.memPut a bs).log = s.log ∧
    (s.memPut a bs).port = s.port ∧ (s.memPut a bs).collFlags = s.collFlags ∧ (s.memPut a bs).ssCecc = s.ssCecc ∧
    (s.memPut a bs).verSel = s.verSel ∧ (s.memPut a bs).rangeBase = s.rangeBase ∧ (s.memPut a bs).parts = s.parts ∧
    (s.memPut a bs).ctxs = s.ctxs ∧ (s.memPut a bs).subs = s.subs ∧ (s.memPut a bs).comps = s.comps ∧ (s.memPut a bs).descs = s.descs ∧
    (s.memPut a bs).order = s.order ∧ (s.memPut a bs).ranges = s.ranges ∧ (s.memPut a bs).sweep = s.sweep ∧ (s.memPut a bs).faults = s.faults ∧
    (s.memPut a bs).nextFault = s.nextFault ∧ (s.memPut a bs).pools = s.pools ∧ (s.memPut a bs).seqs = s.seqs ∧
    (s.memPut a bs).seqTab = s.seqTab ∧ (s.memPut a bs).seqTabUsed = s.seqTabUsed ∧ (s.memPut a bs).seqCache = s.seqCache ∧
    (s.memPut a bs).seqDirty = s.seqDirty ∧ (s.memPut a bs).dropping = s.dropping ∧ (s.memPut a bs).groups = s.groups ∧
    (s.memPut a bs).loops = s.loops ∧ (s.memPut a bs).models = s.models ∧ (s.memPut a bs).ccores = s.ccores ∧
    (s.memPut a bs).kernels = s.kernels ∧ (s.memPut a bs).piste = s.piste ∧ (s.memPut a bs).cores = s.cores ∧ (s.memPut a bs).ports = s.ports ∧
    (s.memPut a bs).smalls = s.smalls ∧ (s.memPut a bs).dmaQ = s.dmaQ ∧ (s.memPut a bs).watches = s.watches ∧ (s.memPut a bs).rr = s.rr ∧
    (s.memPut a bs).ss = s.ss ∧ (s.memPut a bs).ssWins = s.ssWins ∧ (s.memPut a bs).ssPoison = s.ssPoison ∧
    (s.memPut a bs).scrubRow = s.scrubRow ∧ (s.memPut a bs).wback = s.wback ∧ (s.memPut a bs).loom = s.loom ∧
    (s.memPut a bs).loomSent = s.loomSent ∧ (s.memPut a bs).cvus = s.cvus ∧ (s.memPut a bs).collLines = s.collLines ∧
    (s.memPut a bs).free = s.free := by
  exact ⟨rfl, rfl, rfl, rfl, rfl, rfl, rfl, rfl, rfl, rfl, rfl, rfl, rfl, rfl, rfl, rfl, rfl, rfl, rfl, rfl, rfl, rfl, rfl, rfl, rfl, rfl, rfl, rfl, rfl, rfl, rfl, rfl, rfl, rfl, rfl, rfl, rfl, rfl, rfl, rfl, rfl, rfl, rfl, rfl, rfl, rfl, rfl, rfl⟩

/-- `setDesc` changes `descs` alone. -/
@[simp] theorem State.setDesc_frame (x : Desc) :
    (s.setDesc x).pending = s.pending ∧ (s.setDesc x).clkCtl = s.clkCtl ∧ (s.setDesc x).mgmt = s.mgmt ∧ (s.setDesc x).log = s.log ∧
    (s.setDesc x).port = s.port ∧ (s.setDesc x).collFlags = s.collFlags ∧ (s.setDesc x).ssCecc = s.ssCecc ∧ (s.setDesc x).verSel = s.verSel ∧
    (s.setDesc x).rangeBase = s.rangeBase ∧ (s.setDesc x).parts = s.parts ∧ (s.setDesc x).ctxs = s.ctxs ∧ (s.setDesc x).subs = s.subs ∧
    (s.setDesc x).comps = s.comps ∧ (s.setDesc x).order = s.order ∧ (s.setDesc x).ranges = s.ranges ∧ (s.setDesc x).sweep = s.sweep ∧
    (s.setDesc x).faults = s.faults ∧ (s.setDesc x).nextFault = s.nextFault ∧ (s.setDesc x).pools = s.pools ∧ (s.setDesc x).seqs = s.seqs ∧
    (s.setDesc x).seqTab = s.seqTab ∧ (s.setDesc x).seqTabUsed = s.seqTabUsed ∧ (s.setDesc x).seqCache = s.seqCache ∧
    (s.setDesc x).seqDirty = s.seqDirty ∧ (s.setDesc x).dropping = s.dropping ∧ (s.setDesc x).groups = s.groups ∧ (s.setDesc x).loops = s.loops ∧
    (s.setDesc x).models = s.models ∧ (s.setDesc x).ccores = s.ccores ∧ (s.setDesc x).kernels = s.kernels ∧ (s.setDesc x).piste = s.piste ∧
    (s.setDesc x).cores = s.cores ∧ (s.setDesc x).ports = s.ports ∧ (s.setDesc x).smalls = s.smalls ∧ (s.setDesc x).dmaQ = s.dmaQ ∧
    (s.setDesc x).watches = s.watches ∧ (s.setDesc x).rr = s.rr ∧ (s.setDesc x).ss = s.ss ∧ (s.setDesc x).ssWins = s.ssWins ∧
    (s.setDesc x).ssPoison = s.ssPoison ∧ (s.setDesc x).scrubRow = s.scrubRow ∧ (s.setDesc x).wback = s.wback ∧ (s.setDesc x).loom = s.loom ∧
    (s.setDesc x).loomSent = s.loomSent ∧ (s.setDesc x).cvus = s.cvus ∧ (s.setDesc x).collLines = s.collLines ∧ (s.setDesc x).mem = s.mem ∧
    (s.setDesc x).free = s.free := by
  exact ⟨rfl, rfl, rfl, rfl, rfl, rfl, rfl, rfl, rfl, rfl, rfl, rfl, rfl, rfl, rfl, rfl, rfl, rfl, rfl, rfl, rfl, rfl, rfl, rfl, rfl, rfl, rfl, rfl, rfl, rfl, rfl, rfl, rfl, rfl, rfl, rfl, rfl, rfl, rfl, rfl, rfl, rfl, rfl, rfl, rfl, rfl, rfl, rfl⟩

/-! ### Reading what was set -/

/-- Reading `part` where it was set. -/
theorem State.part_setPart_self {n : Nat} {v : PartCfg} (h : tableWf PartCfg.reset s.parts = true) : (s.setPart n v).part n = v := getAt_putAt_self h
/-- Reading `part` elsewhere. -/
@[simp] theorem State.part_setPart_ne {n k : Nat} {v : PartCfg} (h : k ≠ n) : (s.setPart n v).part k = s.part k := getAt_putAt_ne h

/-- Reading `ctx` where it was set. -/
theorem State.ctx_setCtx_self {n : Nat} {v : CtxCfg} (h : tableWf CtxCfg.reset s.ctxs = true) : (s.setCtx n v).ctx n = v := getAt_putAt_self h
/-- Reading `ctx` elsewhere. -/
@[simp] theorem State.ctx_setCtx_ne {n k : Nat} {v : CtxCfg} (h : k ≠ n) : (s.setCtx n v).ctx k = s.ctx k := getAt_putAt_ne h

/-- Reading `sub` where it was set. -/
theorem State.sub_setSub_self {n : Nat} {v : SubRing} (h : tableWf SubRing.reset s.subs = true) : (s.setSub n v).sub n = v := getAt_putAt_self h
/-- Reading `sub` elsewhere. -/
@[simp] theorem State.sub_setSub_ne {n k : Nat} {v : SubRing} (h : k ≠ n) : (s.setSub n v).sub k = s.sub k := getAt_putAt_ne h

/-- Reading `comp` where it was set. -/
theorem State.comp_setComp_self {n : Nat} {v : CompRing} (h : tableWf CompRing.reset s.comps = true) : (s.setComp n v).comp n = v := getAt_putAt_self h
/-- Reading `comp` elsewhere. -/
@[simp] theorem State.comp_setComp_ne {n k : Nat} {v : CompRing} (h : k ≠ n) : (s.setComp n v).comp k = s.comp k := getAt_putAt_ne h

/-- Reading `range` where it was set. -/
theorem State.range_setRange_self {n : Nat} {v : RangeEnt} (h : tableWf RangeEnt.reset s.ranges = true) : (s.setRange n v).range n = v := getAt_putAt_self h
/-- Reading `range` elsewhere. -/
@[simp] theorem State.range_setRange_ne {n k : Nat} {v : RangeEnt} (h : k ≠ n) : (s.setRange n v).range k = s.range k := getAt_putAt_ne h

/-- Reading `pool` where it was set. -/
theorem State.pool_setPool_self {n : Nat} {v : Pool} (h : tableWf Pool.reset s.pools = true) : (s.setPool n v).pool n = v := getAt_putAt_self h
/-- Reading `pool` elsewhere. -/
@[simp] theorem State.pool_setPool_ne {n k : Nat} {v : Pool} (h : k ≠ n) : (s.setPool n v).pool k = s.pool k := getAt_putAt_ne h

/-- Reading `seqn` where it was set. -/
theorem State.seqn_setSeq_self {n : Nat} {v : Seq} (h : tableWf Seq.reset s.seqs = true) : (s.setSeq n v).seqn n = v := getAt_putAt_self h
/-- Reading `seqn` elsewhere. -/
@[simp] theorem State.seqn_setSeq_ne {n k : Nat} {v : Seq} (h : k ≠ n) : (s.setSeq n v).seqn k = s.seqn k := getAt_putAt_ne h

/-- Reading `group` where it was set. -/
theorem State.group_setGroup_self {n : Nat} {v : Group} (h : tableWf Group.reset s.groups = true) : (s.setGroup n v).group n = v := getAt_putAt_self h
/-- Reading `group` elsewhere. -/
@[simp] theorem State.group_setGroup_ne {n k : Nat} {v : Group} (h : k ≠ n) : (s.setGroup n v).group k = s.group k := getAt_putAt_ne h

/-- Reading `loopAt` where it was set. -/
theorem State.loopAt_setLoop_self {n : Nat} {v : LoopSt} (h : tableWf LoopSt.reset s.loops = true) : (s.setLoop n v).loopAt n = v := getAt_putAt_self h
/-- Reading `loopAt` elsewhere. -/
@[simp] theorem State.loopAt_setLoop_ne {n k : Nat} {v : LoopSt} (h : k ≠ n) : (s.setLoop n v).loopAt k = s.loopAt k := getAt_putAt_ne h

/-- Reading `model` where it was set. -/
theorem State.model_setModel_self {n : Nat} {v : Model} (h : tableWf Model.reset s.models = true) : (s.setModel n v).model n = v := getAt_putAt_self h
/-- Reading `model` elsewhere. -/
@[simp] theorem State.model_setModel_ne {n k : Nat} {v : Model} (h : k ≠ n) : (s.setModel n v).model k = s.model k := getAt_putAt_ne h

/-- Reading `ccore` where it was set. -/
theorem State.ccore_setCcore_self {n : Nat} {v : CCore} (h : tableWf CCore.reset s.ccores = true) : (s.setCcore n v).ccore n = v := getAt_putAt_self h
/-- Reading `ccore` elsewhere. -/
@[simp] theorem State.ccore_setCcore_ne {n k : Nat} {v : CCore} (h : k ≠ n) : (s.setCcore n v).ccore k = s.ccore k := getAt_putAt_ne h

/-- Reading `kernel` where it was set. -/
theorem State.kernel_setKernel_self {n : Nat} {v : Kernel} (h : tableWf Kernel.reset s.kernels = true) : (s.setKernel n v).kernel n = v := getAt_putAt_self h
/-- Reading `kernel` elsewhere. -/
@[simp] theorem State.kernel_setKernel_ne {n k : Nat} {v : Kernel} (h : k ≠ n) : (s.setKernel n v).kernel k = s.kernel k := getAt_putAt_ne h

/-- Reading `core` where it was set. -/
theorem State.core_setCore_self {n : Nat} {v : Core} (h : tableWf Core.reset s.cores = true) : (s.setCore n v).core n = v := getAt_putAt_self h
/-- Reading `core` elsewhere. -/
@[simp] theorem State.core_setCore_ne {n k : Nat} {v : Core} (h : k ≠ n) : (s.setCore n v).core k = s.core k := getAt_putAt_ne h

/-- Reading `fport` where it was set. -/
theorem State.fport_setFport_self {n : Nat} {v : FPort} (h : tableWf FPort.reset s.ports = true) : (s.setFport n v).fport n = v := getAt_putAt_self h
/-- Reading `fport` elsewhere. -/
@[simp] theorem State.fport_setFport_ne {n k : Nat} {v : FPort} (h : k ≠ n) : (s.setFport n v).fport k = s.fport k := getAt_putAt_ne h

/-- Reading `watch` where it was set. -/
theorem State.watch_setWatch_self {n : Nat} {v : Watch} (h : tableWf Watch.reset s.watches = true) : (s.setWatch n v).watch n = v := getAt_putAt_self h
/-- Reading `watch` elsewhere. -/
@[simp] theorem State.watch_setWatch_ne {n k : Nat} {v : Watch} (h : k ≠ n) : (s.setWatch n v).watch k = s.watch k := getAt_putAt_ne h

/-- Reading `ssWin` where it was set. -/
theorem State.ssWin_setSsWin_self {n : Nat} {v : SsWindow} (h : tableWf SsWindow.reset s.ssWins = true) : (s.setSsWin n v).ssWin n = v := getAt_putAt_self h
/-- Reading `ssWin` elsewhere. -/
@[simp] theorem State.ssWin_setSsWin_ne {n k : Nat} {v : SsWindow} (h : k ≠ n) : (s.setSsWin n v).ssWin k = s.ssWin k := getAt_putAt_ne h

end Sys2Proof.Machine
end

