-- ==== Sys2Proof/Tests/Slice0.lean ====
section
/-!
SUPPORT. The model's own tests: ill-formed commands refused, states that meet the statements' hypotheses, and worked examples of the spec.
-/

namespace Sys2Proof.Tests

set_option Elab.async false

open Sys2Proof Sys2Proof.Machine

/-! ### Small states -/

/-- An engine past start-up: powered, READY, the port and the mailbox answering, every cluster enabled. -/
def up : State :=
  { State.reset with mgmt := { Mgmt.reset with phase := .ready, portReady := true, mbxReady := true, clmask := 0xFF } }

/-- An engine in a phase of start-up. -/
def inPhase (p : Phase) : State := { up with mgmt := { up.mgmt with phase := p } }

/-- The descriptor name that the tests use. -/
def d0 : Did := { ring := 0, index := 0 }

/-- `n` zero bytes with fields (offset, length, value) written over them. -/
def fill (n : Nat) (fs : List (Nat × Nat × Nat)) : List Byte :=
  fs.foldl (fun bs f => bs.take f.1 ++ natLe f.2.1 f.2.2 ++ bs.drop (f.1 + f.2.1)) (List.replicate n 0)

/-- A running descriptor of ring 0 and context 0 with fields written into its 64 bytes. -/
def desc (fs : List (Nat × Nat × Nat)) : Desc := { Desc.reset with bytes := fill 64 fs, st := .running, order := 1 }

/-- That descriptor in flight on an engine that is up. -/
def running (fs : List (Nat × Nat × Nat)) : State := { up with descs := [desc fs] }

/-- A resident range of 1 MiB at physical address `base`, readable and writable. -/
def wide (base tier : Nat) : RangeEnt :=
  { RangeEnt.reset with st := .valid, base := base, lenM1 := 255, tier := tier, rd := true, wr := true, res := true }

/-- A reference to `offset` of handle `h`. -/
def ref (h offset : Nat) : Nat := 2 ^ 63 + h * 2 ^ 44 + offset

/-- A descriptor that holds translations of handle 0 (external memory at 0x100000). -/
def desc0 (fs : List (Nat × Nat × Nat)) : Desc := { desc fs with trans := [transOf 0 (wide 0x100000 0)] }

/-- The engine with handle 0 and a running descriptor that holds it. -/
def running0 (fs : List (Nat × Nat × Nat)) : State :=
  { up with descs := [desc0 fs], ranges := [(0, wide 0x100000 0)] }

/-- A read request of one unit by core 0. -/
def req0 : DmaRequest :=
  { d := d0, handle := 0, offset := 0, units := 1, isWrite := false, core := 0, row := 0, region := none, skein := none,
    enables := 1, ecc := .clean }

/-- A remote access of core 0 to window 0 of core 1. -/
def acc0 : RemoteAccess := { src := 0, target := 1, win := 0, gen := 0, offset := 0, counted := false, ecc := .clean }

/-- A read of row 0 of SS window 0 by core 0. -/
def ss0 : SsAccess := { core := 0, win := 0, isWrite := false, offset := 0, ecc := .clean }

/-! ### Ill-formed commands: one for each check of WellFormed.lean, each refused; and one that is well formed -/

theorem test_wf_refuses_missing_units :
    ([.nop { ring := 64, index := 0 }, .crcScan { ring := 64, index := 0 } ⟨1, .clean, .clean⟩, .mbxFreqLimit 8 0, .mbxFreqLimit 0 25, .watchArmed 128,
      .prodReadReturn 64, .leaveReferenceDrop 65536, .pageRetirePush 16 false 0, .pageRetirePush 0 false (2 ^ 26), .seqCacheFill 65536 true,
      .collRound 256, .collPollReturn 256 0, .collPollReturn 0 4096, .loopStep ⟨32, .matched, .clean⟩, .seedTableReload 32 0x10, .seedTableReload 0 0x0F,
      .completionRecordWrite 64, .kernelEnd 32, .pisteHead 8 0 .matched, .pisteHead 0 32 .matched, .skeinStart 32 0, .skeinStart 0 256,
      .skeinDispatch 32, .rangeFaultRecord 8, .fabricReadBeat 12 0, .fabricReadBeat 0 4096, .creditReturn 12 0 1, .creditReturn 0 2 1]
        : List Instr).all (fun i => !i.wf) = true := by decide +kernel

theorem test_wf_refuses_wrong_values :
    ([.dmaRequestIssue { req0 with units := 0 }, .dmaRequestIssue { req0 with units := 65 },
      .dmaRequestIssue { req0 with units := 1, handle := 16384 },
      .remoteWriteArrive { acc0 with src := 32 } [], .remoteWriteArrive { acc0 with win := 4 } [],
      .remoteWriteArrive acc0 [0], .remoteReadArrive { acc0 with target := 32 } 1,
      .ssRequest { ss0 with core := 32 } [], .ssRequest { ss0 with win := 128 } [],
      .ssRequest { ss0 with isWrite := true } [0], .eccWriteback (.osp 32 0) true, .eccWriteback (.osp 0 8192) true,
      .eccWriteback (.ss 262144) true, .areaClearDone 0 32, .bankIsolate 0 16, .watchdogExpiry 4 (.watchdog true), .budgetExpiry ⟨32, true⟩, .turnEnd ⟨32, false⟩ 0, .gemm ⟨⟨64, 0⟩, .clean⟩,
      .descFetch ⟨64, .clean⟩, .collTimeout ⟨256, 0⟩, .collTimeout ⟨0, 2⟩, .mirrorSweep ⟨16384, true⟩,
      .throttleStep 8, .thermalSample 40 0, .demandReport 4096, .partitionEnable 8 1, .partitionEnable 0 0, .partitionDisable 0 1,
      .contextEnable 32 1, .contextDisable 0 1, .submissionRingEnable 64 1, .completionRingDisable 0 1, .ztCoreFlagsClear 32 0 0,
      .spiRead 0, .spiRead 257, .errLogEntryLatch 0 256, .regPairLowerRead 0 2, .regWrite 0 65536 4 0, .fabricLinkUp 12 0 0 0]
        : List Instr).all (fun i => !i.wf) = true := by decide +kernel

theorem test_wf_accepts : (Instr.nop d0).wf = true ∧ (Instr.fabricReadBeat 11 4095).wf = true ∧ Instr.powerOn.wf = true := by decide +kernel

/-- No row of the table gives bits, so a word spells no command. -/
theorem test_decode_spells_nothing : decodeTableWord 32 0x12345678 = none ∧ State.reset.withFetchWord 32 1 = State.reset := by
  decide +kernel

/-! ### States that meet the statements' hypotheses: start-up, the mailbox and power -/

theorem test_hyp_idle_and_front : up.pending = [] ∧ ({ up with pending := [Instr.powerOn] } : State).pending = .powerOn :: [] := by decide +kernel

theorem test_hyp_memories : up.MemOk ∧ ∃ t, step up = .next t ∧ t.clkCtl = 1 := by
  refine ⟨⟨?_, ?_⟩, _, rfl, ?_⟩ <;> decide +kernel

theorem test_hyp_starts :
    up.mgmt.power = .on ∧ up.portOk = true ∧ up.quiet = true ∧ up.mgmt.mbxReady = true ∧ up.mgmt.phase = .ready
      ∧ ({ up with mgmt := { up.mgmt with power := .p3 } } : State).mgmt.power = .p3 := by decide +kernel

theorem test_hyp_phases :
    (inPhase .reset).mgmt.phase = .reset ∧ (inPhase .sfdp).mgmt.phase = .sfdp ∧ (inPhase .records).mgmt.phase = .records
      ∧ (inPhase .calib).mgmt.phase = .calib ∧ (inPhase .fwload).mgmt.phase = .fwload ∧ up.mgmt.power = .on
      ∧ (inPhase .factory).recordAt 0 1 (2 ^ 20 - 32) 8 = none
      ∧ ({ inPhase .fwread with mgmt := { (inPhase .fwread).mgmt with choice := some 0 } } : State).mgmt.choice = some 0 := by
  decide +kernel

/-- A byte string at an address, as a table lists it. -/
def placed (a : Nat) (bs : List Byte) : Table Byte := bs.zipIdx.map (fun p => (a + p.2, p.1))

/-- A factory record without entries. -/
def factory : List Byte := fill 28 [(0, 4, 1), (12, 4, 7)] ++ natLe 4 (crc32c (fill 28 [(0, 4, 1), (12, 4, 7)]))

theorem test_hyp_factory_record :
    let s : State := { inPhase .factory with mgmt := { (inPhase .factory).mgmt with flash := placed 0 factory } }
    s.recordAt 0 1 (2 ^ 20 - 32) 8 = some (factory, []) ∧ fieldOf factory 4 4 = 0 := by decide +kernel

theorem test_hyp_image_header :
    let s : State := { inPhase .fwsig with mgmt := { (inPhase .fwsig).mgmt with
      choice := some 0, flash := placed 0x200000 (fill 512 [(0, 4, 0x4631535A), (4, 4, 3)]) } }
    s.mgmt.choice = some 0 ∧ s.imageHeaderOk 0 = true := by decide +kernel

theorem test_hyp_selftests :
    (inPhase .selftest).mgmt.phase = .selftest ∧ (up.ccore 0).inService = true ∧ up.mgmt.part.fused ≠ 0
      ∧ up.mgmt.part.fused &&& ~~~(1#8 <<< 7) ≠ 0 ∧ (inPhase .sfucheck).mgmt.phase = .sfucheck ∧ up.mgmt.clmask ≠ 0
      ∧ up.clusterOn (31 / 4) = true := by decide +kernel

/-- An engine with one submission ring enabled. -/
def busy : State := { up with subs := [(0, { SubRing.reset with enable := true })] }

theorem test_hyp_mailbox :
    busy.mgmt.phase = .ready ∧ busy.quiet = false ∧ (inPhase .calib).mgmt.phase ≠ .ready ∧ up.mgmt.fatal = false := by decide +kernel

/-- An engine whose cluster 0 is `c`. -/
def clus (c : Cluster) : State := { up with mgmt := { up.mgmt with clusters := [(0, c)] } }

theorem test_hyp_frequency :
    ((clus { Cluster.reset with change := .relock 12 }).cluster 0).change = .relock 12
      ∧ ((clus { Cluster.reset with change := .awaitPower 24 }).cluster 0).change = .awaitPower 24
      ∧ up.mgmt.part.fused.getLsbD 0 = true
      ∧ ({ up with mgmt := { up.mgmt with part := { Part.reset with fused := 0xFE } } } : State).mgmt.part.fused.getLsbD 0 = false
      ∧ up.portOk = true ∧ (inPhase .sfdp).portOk = true ∧ (inPhase .sfdp).mgmt.phase ≠ .ready := by decide +kernel

theorem test_hyp_cluster_power :
    up.clusterOn 7 = true ∧ (up.cluster 7).pwr = .p0 ∧ (up.cluster 7).entering = false ∧ up.clusterNamed 7 = false
      ∧ ({ up with ctxs := [(0, { CtxCfg.reset with enable := true, clusters := 0x80 })] } : State).clusterNamed 7 = true
      ∧ ((clus { Cluster.reset with entering := true, pwr := .changing }).cluster 0).entering = true
      ∧ (clus { Cluster.reset with entering := true, pwr := .changing }).clusterDrained 0 = true
      ∧ ((clus { Cluster.reset with pwr := .changing }).cluster 0).ramping = false ∧ up.mgmt.lastRamp = none
      ∧ ((clus { Cluster.reset with ramping := true }).cluster 0).ramping = true
      ∧ ((clus { Cluster.reset with pwr := .p2 }).cluster 0).pwr = .p2 := by decide +kernel

/-- A ramp less than 20 µs ago, and one just 20 µs ago. -/
theorem test_hyp_ramp_interval :
    let s : State := { up with clkCtl := 20000, mgmt := { up.mgmt with lastRamp := some 1 } }
    let t : State := { clus { Cluster.reset with pwr := .changing } with clkCtl := 20000 }
    s.mgmt.lastRamp = some 1 ∧ s.clkCtl < 1 + 20000
      ∧ (∀ r, ({ t with mgmt := { t.mgmt with lastRamp := some 0 } } : State).mgmt.lastRamp = some r → r + 20000 ≤ t.clkCtl) := by
  refine ⟨by decide +kernel, by decide +kernel, ?_⟩
  intro r h
  cases h
  decide +kernel

/-- An engine whose sensor 0, of cluster 0, reads `t` eighths of a degree. -/
def hot (t : Int) (c : Cluster) : State :=
  { up with mgmt := { up.mgmt with sensors := [(0, { temp := BitVec.ofInt 16 t, valid := true })], clusters := [(0, c)] } }

theorem test_hyp_throttle :
    801 ∈ (hot 801 Cluster.reset).temps 0 ∧ (hot 801 Cluster.reset).mgmt.point < 801
      ∧ (∀ x ∈ (hot 759 { Cluster.reset with thermMhz := 600 }).temps 0, x + 40 < (hot 759 Cluster.reset).mgmt.point)
      ∧ ((hot 759 { Cluster.reset with thermMhz := 600 }).cluster 0).thermMhz < min (min (600 + 25 * 20) (600 + 25 * 24)) 1200
      ∧ (919#16 : BitVec 16).toInt < up.mgmt.point + 120 ∧ up.mgmt.point + 120 ≤ (920#16 : BitVec 16).toInt := by decide +kernel

/-- The two writes of R547's example, and the register reads that follow them. -/
theorem test_throttle_point_example :
    let s : State := { up with mgmt := { up.mgmt with calPoint := 0x02F8, point := 0x02F8 } }
    (∀ t, exec (.ztTelThrottleWrite 0x0320) s = .next t → t.regRead 0x0EC0 = 0x02F8)
      ∧ (∀ t, exec (.ztTelThrottleWrite 0x02D0) s = .next t → t.regRead 0x0EC0 = 0x02D0 ∧ t.regRead 0x0EC4 = 0x0348) := by
  refine ⟨fun t h => ?_, fun t h => ?_⟩ <;> cases h <;> decide +kernel

/-! ### Set-up registers and the register port -/

/-- Ring registers that may be enabled: partition 0 administers, owns cluster 0 and completion ring 0; context 0 is in it. -/
def owned : State :=
  { up with verSel := 1,
            parts := [(0, { PartCfg.reset with enable := true, clusters := 1, fl := 1 })],
            ctxs := [(0, { CtxCfg.reset with enable := true, clusters := 1 })],
            comps := [(0, { CompRing.reset with enable := true, l := 4 })] }

theorem test_hyp_enables :
    (1#32 : Word).getLsbD 0 = true ∧ (up.part 7).enable = false ∧ (up.ctx 31).enable = false ∧ (up.sub 63).enable = false
      ∧ (up.comp 63).enable = false
      ∧ owned.ctxOk 31 { owned.ctx 31 with part := 0, clusters := 1, slice := 2 ^ 26 } = true
      ∧ up.ctxOk 31 { up.ctx 31 with part := 0, clusters := 1 } = false := by decide +kernel

theorem test_hyp_disables :
    (0#32 : Word).getLsbD 0 = false ∧ (owned.part 0).enable = true ∧ (owned.ctx 0).enable = true ∧ (owned.comp 0).enable = true
      ∧ owned.subs.any (fun r => r.2.enable && r.2.ctx == 0) = false ∧ (owned.ctx 0).stopped = false ∧ (owned.ctx 0).turn = false
      ∧ (owned.ctx 0).uTurn = false
      ∧ ({ owned with subs := [(0, { SubRing.reset with enable := true })] } : State).subs.any (fun r => r.2.enable && r.2.ctx == 0) = true
      ∧ (busy.sub 0).enable = true := by decide +kernel

theorem test_hyp_version_and_ready :
    (1#32 : Word).toNat % 16 = 1 ∧ up.subs.any (fun r => r.2.enable) = false ∧ up.comps.any (fun r => r.2.enable) = false
      ∧ busy.subs.any (fun r => r.2.enable) = true ∧ (inPhase .calib).mgmt.phase ≠ .ready ∧ (inPhase .calib).portOk = true := by
  decide +kernel

theorem test_hyp_register_port :
    up.parts.any (fun p => p.2.enable) = false ∧ up.port.staged = [] ∧ isLower 0x18 = true ∧ isLower 0x2018 = false
      ∧ up.clusterOn (31 / 4) = true ∧ up.mgmt.spiBusy = false := by decide +kernel

theorem test_hyp_register_writes :
    up.mgmt.phase = .ready ∧ (up.part 7).enable = false ∧ (owned.part 0).enable = true ∧ (up.sub 63).enable = false
      ∧ (owned.comp 0).enable = true ∧ (2#32 : Word).toNat % 4 < 3 ∧ isLower 0xB00 = false ∧ isLower 0x1000 = true
      ∧ up.blockLocked 0x1000 = false ∧ isLower 0x114 = true ∧ up.blockLocked 0x114 = false
      ∧ (0x5A310001#32 : Word).toNat % 2 ^ 8 = 1 ∧ (0x5A310002#32 : Word).toNat % 2 ^ 8 = 2 := by decide +kernel

theorem test_hyp_serial_memory :
    let s : State := { up with mgmt := { up.mgmt with spiBusy := true, spiOp := some (.read, 256) } }
    s.mgmt.spiBusy = true ∧ s.mgmt.spiOp = some (.read, 256) ∧ (1 ≤ 256 ∧ 256 ≤ 256) := by decide +kernel

theorem test_hyp_tap :
    owned.portOk = true ∧ owned.tapOpen = false ∧ tapAlways 0x100 = false ∧ (inPhase .startFail).mgmt.phase = .startFail
      ∧ (inPhase .startFail).tapOpen = true ∧ isUpper 0x3C = false ∧ isLower 0x3C = false := by decide +kernel

theorem test_hyp_log :
    let l : ErrLog := { ErrLog.reset with entries := [(0, { LogEntry.reset with event := 1, count := 1 })], head := 1 }
    ErrLog.reset.head = 0 ∧ l.latest = some { LogEntry.reset with event := 1, count := 1 }
      ∧ logMerges l { LogEntry.reset with event := 1, count := 1 } (2 ^ 20) 1 0 0 0 = true
      ∧ logMerges l { LogEntry.reset with event := 1, count := 1 } (2 ^ 20 + 1) 1 0 0 0 = false := by decide +kernel

/-- Chapter 18's example of reading a pair: the lower word's read latches the upper word. -/
theorem test_pair_read_latches :
    let s : State := { up with rangeBase := 0x123456789000 }
    (∀ t, exec (.regPairLowerRead 0 0x18) s = .next t → t.port.regOut = 0x56789000 ∧ t.port.shadow = [(0x1C, 0x1234)]) := by
  intro s t h
  cases h
  decide +kernel

/-! ### Descriptors and rings -/

/-- Bytes of memory outside the block. -/
def withMem (s : State) (m : Table Byte) : State := { s with mem := m }

/-- Submission ring 0 enabled at 0x1000 with 16 slots, its PROD read as `p`, context 0 in partition 0. -/
def ring (p : Word) : State :=
  { owned with subs := [(0, { SubRing.reset with enable := true, base := 0x1000, l := 4, prod := p })] }

theorem test_hyp_record_kept : (desc []).quiet = false ∧ mergeStatus 0x31 0x30 ≠ 0 := by decide +kernel

/-- An outstanding request or beat of port `p` under tag `t`, for watch `w` (a WATCH, or the read of its line). -/
def watchReq (op : ReqOp) (p t : Nat) (w : Nat := 0) : List (Nat × FPort) :=
  [(p, { FPort.reset with up := true, outs := [(t, some { smallOut (SmallReq.mk p op 0x1000 [] false none (some w)) with seq := 1 })] })]

/-- A watch of ring 0. -/
def watched (armed due : Bool) : State :=
  { ring 0 with watches := [(0, { owner := some (.ring 0), armed := armed, readDue := due, tag := 3584 })] }

theorem test_hyp_watches :
    ((watched false false).watch 0).owner.isSome = true ∧ ((watched false false).watch 0).armed = false
      ∧ ((watched true false).watch 0).armed = true ∧ (watched true true).fetching 0 = true
      ∧ ((watched true true).watch 0).readDue = true ∧ (watched true true).subPastEnd 0 = false
      ∧ ((BitVec.ofNat 32 (leNat ((withMem (watched true true) [(0x1000, 16)]).memAt 0x1000 4)) - 0).toNat ≤ 2 ^ 4)
      ∧ (2 ^ 4 < (BitVec.ofNat 32 (leNat ((withMem (watched true true) [(0x1000, 17)]).memAt 0x1000 4)) - 0).toNat)
      ∧ ((watched true true).sub 0).halted = false := by decide +kernel

/-- Ring 0 with one descriptor to fetch: a NOP of version 1 but for the opcode given. -/
def oneSlot (op : Byte) : State :=
  { withMem (ring 1) [(0x1080, op), (0x1081, 0x10)] with ports := [(1, { FPort.reset with up := true, req := 1 })] }

theorem test_hyp_watch_requests :
    ({ watched false false with ports := watchReq .watch 1 3584 } : State).watchOut 0 .watch = some (1, 3584)
      ∧ (watched false false).watchOut 0 .watch = none ∧ (watched true true).watchOut 0 .rd = none
      ∧ ({ watched true true with ports := watchReq .rd 1 3072 } : State).watchOut 0 .rd = some (1, 3072)
      ∧ up.smalls = [] ∧ up.mgmt.fatal = false ∧ up.watchTag = some 3584
      ∧ (({ up with ports := [(1, { FPort.reset with up := true, req := 1 })] } : State).fport 1).up = true
      ∧ 1 ≤ (({ up with ports := [(1, { FPort.reset with up := true, req := 1 })] } : State).fport 1).req := by decide +kernel

theorem test_hyp_fetch :
    let bs (s : State) : List Byte := s.memAt 0x1080 64
    (oneSlot 0).mayFetch 0 = true ∧ (oneSlot 0).bobReady 0x1080 = true ∧ (oneSlot 0).subPastEnd 0 = false
      ∧ firstFail (headerChecks (bs (oneSlot 0)) 0 1 ++ (oneSlot 0).opChecks 0 (bs (oneSlot 0))) = none
      ∧ ((oneSlot 0).resolveAll 0 [] (bs (oneSlot 0))).status = none
      ∧ (firstFail (headerChecks (bs (oneSlot 0xFF)) 0 1 ++ (oneSlot 0xFF).opChecks 0 (bs (oneSlot 0xFF)))).isSome = true := by
  decide +kernel

/-- A NOP that waits in ring 0. -/
def waitsInRing : State := { ring 0 with descs := [{ desc [] with st := .fetched, order := 0 }] }

theorem test_hyp_dequeue :
    (waitsInRing.ready? 0) = some { desc [] with st := .fetched, order := 0 } ∧ waitsInRing.nextRing 0 = some 0 := by decide +kernel

/-- A FENCE of ring 0, and a descriptor dequeued before it. -/
def fenced : State := { ring 0 with descs := [desc [(0, 1, 0x10)], { desc [(0, 1, 0x60)] with index := 1, order := 2 }] }

theorem test_hyp_fence :
    (running []).running? d0 [0x00] = some (desc []) ∧ (running [(0, 1, 0x60)]).running? d0 [0x60] = some (desc [(0, 1, 0x60)])
      ∧ (∀ y ∈ (running [(0, 1, 0x60)]).descs, y.dequeued = true → y.order < 1 → (running [(0, 1, 0x60)]).fenceCovers (desc [(0, 1, 0x60)]) y.ring = false)
      ∧ (∃ y ∈ fenced.descs, y.dequeued = true ∧ y.order < 2 ∧ fenced.fenceCovers { desc [(0, 1, 0x60)] with index := 1, order := 2 } y.ring = true)
      ∧ (desc [(0, 1, 0x60)]).dequeued = true ∧ fenced.fenceCovers { desc [(0, 1, 0x60)] with index := 1, order := 2 } 0 = true := by
  decide +kernel

/-- An ABORT of ring 0, index 1, whose target is in flight, or of which nothing is left but CONS past it. -/
def aborts (target : Bool) (cons : Word) : State :=
  { ring 0 with subs := [(0, { SubRing.reset with enable := true, base := 0x1000, l := 4, cons := cons })],
                mem := placed 0x1000 (natLe 4 cons.toNat),
                descs := [desc [(0, 1, 0x7E), (12, 4, 1)]] ++ (if target then [{ desc [(0, 1, 0x48)] with index := 1, order := 2 }] else []) }

theorem test_hyp_abort :
    let x := desc [(0, 1, 0x7E), (12, 4, 1)]
    (aborts true 2).desc? d0 = some x ∧ x.st = .running ∧ x.opcode = 0x7E ∧ (aborts true 2).serving = true ∧ abortContext x.bytes = false
      ∧ abortTarget x.bytes ≠ x.did ∧ (aborts true 2).desc? (abortTarget x.bytes) = some { desc [(0, 1, 0x48)] with index := 1, order := 2 }
      ∧ ({ desc [(0, 1, 0x48)] with index := 1, order := 2 } : Desc).pastNoAbort = false
      ∧ (aborts false 2).desc? (abortTarget x.bytes) = none ∧ (aborts false 2).loopOf (abortTarget x.bytes) = none
      ∧ (aborts false 2).recordPending (abortTarget x.bytes) = false ∧ (aborts false 2).abortMissing (abortTarget x.bytes) = some (0x02, 0) := by
  decide +kernel

theorem test_hyp_abort_context :
    let x := desc [(0, 1, 0x7E), (8, 1, 1)]
    abortContext x.bytes = true ∧ ({ ring 0 with descs := [x] } : State).ctxDids (abortCtx x.bytes) x.did = []
      ∧ ({ ring 0 with descs := [x, { desc [] with index := 1 }] } : State).ctxDids (abortCtx x.bytes) x.did = [{ ring := 0, index := 1 }] := by
  decide +kernel

/-- A completion ring that may be written: one record waits for it. -/
def recordDue : State :=
  { up with comps := [(0, { CompRing.reset with enable := true, base := 0x2000, l := 4, msgAddr := 0x3000, coalTime := 1, landed := 1,
                                                waiting := [{ bytes := fill 32 [], irq := true, stamp := false, d := some d0 }] })] }

theorem test_hyp_record :
    (recordDue.comp 0).waiting = [{ bytes := fill 32 [], irq := true, stamp := false, d := some d0 }] ∧ recordDue.serving = true
      ∧ (recordDue.comp 0).enable = true ∧ ringRoom (recordDue.comp 0).l (recordDue.comp 0).prod (recordDue.compCons 0) = true
      ∧ recordDue.compPastEnd 0 = false ∧ 1 ≤ (recordDue.comp 0).coalTime ∧ 1 ≤ (recordDue.comp 0).landed
      ∧ recordDue.recordReady { bytes := fill 32 [], irq := true, stamp := false, d := some d0 } = true
      ∧ ({ recordDue with smalls := [{ port := 0, op := .wr, addr := 0, data := [0], fenced := false, d := some d0, watch := none }] }
          : State).recordReady { bytes := fill 32 [], irq := true, stamp := false, d := some d0 } = false := by decide +kernel

/-- A command has stopped where the address space ends. -/
def stops : Host.Outcome State Fault Refusal → Bool
  | .fault .addressSpace => true
  | _ => false

/-- Where a ring's memory runs past the last physical address the command stops. -/
theorem test_record_past_the_address_space :
    let s : State := { recordDue with comps := [(0, { recordDue.comp 0 with base := 2 ^ 57 - 128 })] }
    stops (exec (.completionRecordWrite 0) s) = true := by
  decide +kernel

/-! ### Kernels, copies and Bolt commands -/

/-- The work of a descriptor ends with its memories. -/
def isDone : Work → Bool
  | .done _ _ _ _ => true
  | _ => false

/-- A running descriptor with handle 0 and its parameter blocks at their offsets. -/
def blocks (fs : List (Nat × Nat × Nat)) (bs : List (Nat × List Byte)) : State :=
  withMem (running0 fs) (bs.flatMap (fun b => (placed (0x100000 + b.1) b.2).filter (fun p => p.2 != 0)))

/-- What the kernel statements suppose of a running descriptor. -/
def kernelHyps (s : State) (fs : List (Nat × Nat × Nat)) (op : Nat) (work : State → Desc → Work) : Bool :=
  let x := desc0 fs
  s.running? d0 [op] == some x && s.kernelTurn x && s.turnFree 0 && s.clustersUp 0
    && !(s.kernel 0).live && !(s.kernel 0).paused && isDone (work ((s.takeTurn 0).kernelBoundary 0 true) x)

/-- A one-element GEMM or a one-output CONV of FP16 operands. -/
def matDesc (op : Nat) : List (Nat × Nat × Nat) :=
  [(0, 1, op), (8, 8, ref 0 0), (16, 8, ref 0 0x1000), (24, 8, ref 0 0x2000), (32, 8, ref 0 0x3000)]

/-- Its parameter block. -/
def matBlock (conv : Bool) : List Byte :=
  fill 128 ([(0, 4, 1), (4, 4, 1), (8, 4, 1), (12, 2, 0x11), (14, 2, 0x11)]
    ++ (if conv then [(56, 2, 3), (58, 2, 3), (60, 2, 1)] else []))

theorem test_hyp_mat_kernels :
    kernelHyps (blocks (matDesc 3) [(0, matBlock false)]) (matDesc 3) 3 State.matWork = true
      ∧ kernelHyps (blocks (matDesc 4) [(0, matBlock true)]) (matDesc 4) 4 State.matWork = true := by decide +kernel

/-- An SFU_MAP of one element. -/
def mapDesc : List (Nat × Nat × Nat) := [(0, 1, 6), (8, 8, ref 0 0), (16, 8, ref 0 0x1000), (24, 4, 1)]
/-- A NORM of one row of one element. -/
def normDesc : List (Nat × Nat × Nat) := [(0, 1, 5), (8, 8, ref 0 0), (16, 8, ref 0 0x1000), (24, 4, 1), (28, 4, 1)]

theorem test_hyp_map_and_norm :
    kernelHyps (running0 mapDesc) mapDesc 6 State.mapWork = true
      ∧ kernelHyps (running0 normDesc) normDesc 5 State.normWork = true := by decide +kernel

/-- One query of one head against one key. -/
def attnBlock : List Byte :=
  fill 128 [(0, 2, 0x11), (2, 2, 0x11), (4, 2, 0x11), (11, 1, 1), (48, 8, ref 0 0x400), (56, 4, 1), (100, 4, 1)]
/-- Its list. -/
def attnList : List Byte := fill 16 [(4, 4, 1), (12, 4, 1)]
/-- Its forward descriptor. -/
def attnDesc : List (Nat × Nat × Nat) :=
  [(0, 1, 1), (8, 8, ref 0 0), (16, 8, ref 0 0x1000), (24, 8, ref 0 0x2000), (32, 8, ref 0 0x3000), (40, 8, ref 0 0x4000)]

theorem test_hyp_attention :
    kernelHyps (blocks attnDesc [(0, attnBlock), (0x400, attnList)]) attnDesc 1 State.attnWork = true := by decide +kernel

/-- The backward descriptor and its tensor block. -/
def gradDesc : List (Nat × Nat × Nat) := [(0, 1, 2), (8, 8, ref 0 0), (16, 8, ref 0 0x800)]
/-- Its tensor block. -/
def gradBlock : List Byte :=
  fill 128 ((upTo 10).map (fun i => (8 * i, 8, ref 0 (0x1000 * (i + 1)))) ++ [(80, 2, 0x11)])

theorem test_hyp_attention_backward :
    kernelHyps (blocks gradDesc [(0, attnBlock), (0x400, attnList), (0x800, gradBlock)]) gradDesc 2 State.attnBwdWork = true := by
  decide +kernel

/-- The status and the place of work that a check refuses. -/
def refusalOf : Work → Nat × Nat
  | .bad st det => (st, det)
  | _ => (0, 0)

/-- A GEMM whose block has a nonzero reserved byte. -/
def badMat : State := blocks (matDesc 3) [(0, fill 128 [(0, 4, 1), (4, 4, 1), (8, 4, 1), (12, 2, 0x11), (14, 2, 0x11), (120, 1, 1)])]

theorem test_hyp_refused_work :
    refusalOf (((badMat.takeTurn 0).kernelBoundary 0 true).matWork (desc0 (matDesc 3))) = (0x03, 0xFFFF) := by decide +kernel

theorem test_hyp_no_views : badMat.descs.all (fun y => y.views == []) = true := by decide +kernel

/-- A MERGE of one row in a mode. -/
def mergeFields (mode nmem maxv : Nat) : List (Nat × Nat × Nat) :=
  [(0, 1, 7), (8, 8, ref 0 0), (16, 8, ref 0 0x1000), (24, 8, maxv), (40, 4, 1), (44, 1, 8 * mode), (46, 2, nmem)]

theorem test_hyp_merge :
    [(0, 0, 0), (1, 1, 0), (2, 1, ref 0 0x2000), (3, 1, ref 0 0x2000)].all (fun p =>
      kernelHyps (running0 (mergeFields p.1 p.2.1 p.2.2)) (mergeFields p.1 p.2.1 p.2.2) 7 State.mergeWork
        && (mergeOf (fill 64 (mergeFields p.1 p.2.1 p.2.2))).mode == p.1) = true := by decide +kernel

/-- A copy descriptor, and its entry of one row of 16 elements. -/
def copyDesc (op : Nat) : List (Nat × Nat × Nat) := [(0, 1, op), (8, 8, ref 0 0)]
/-- The entry. -/
def copyBlock (op : Nat) : List Byte :=
  fill 64 [(0, 1, if op = 0x12 then 6 else 2), (4, 4, 16), (8, 4, 1), (12, 4, 1), (16, 8, ref 0 0x1000), (24, 8, ref 0 0x2000), (40, 4, 1)]

theorem test_hyp_copies :
    [0x10, 0x11, 0x12].all (fun op =>
      let s := blocks (copyDesc op) [(0, copyBlock op)]
      s.running? d0 [op] == some (desc0 (copyDesc op)) && isDone (s.copyWork (desc0 (copyDesc op)))) = true := by decide +kernel

/-- A partition whose bucket is empty; and the reads that a running descriptor may make, and may not. -/
theorem test_hyp_regulator_and_reads :
    let s := blocks (copyDesc 0x10) [(0, copyBlock 0x10)]
    let x := desc0 (copyDesc 0x10)
    s.regulated (s.partOf x) (s.copyUnits x) = true
      ∧ ({ s with parts := [(0, { PartCfg.reset with rate := 1, burst := 64 })] } : State).regulated 0 (s.copyUnits x) = false
      ∧ s.mayRead x (.poison 0x1FFFFF) = true ∧ s.mayRead x (.poison 0x200000) = false
      ∧ (s.readsMet x (.lasting (.poison 0x100000))).1 = false ∧ (s.readsMet x (.retried (.silent 0x100000))).1 = true := by
  decide +kernel

/-- Pool 0 of FP8 pages, page 0 and blocks 0 and 1 taken. -/
def pool0 : Pool :=
  { Pool.reset with live := true, fmt := 3, npages := 4, nidx := 8, data := 0x180000, fresh := 1, ifresh := 2, refs := [(0, 1)] }

/-- A sequence of one position on page 0. -/
def seq0 : Seq :=
  { Seq.reset with st := .live, depth := 1, len := 1, admLen := 1, pages := [[{ pool := 0, page := 0 }]], iblocks := [0, 1] }

/-- That pool and that sequence, the table bound, beside a running descriptor with its blocks. -/
def bolt (fs : List (Nat × Nat × Nat)) (bs : List (Nat × List Byte)) : State :=
  { blocks fs bs with
      parts := [(0, { PartCfg.reset with enable := true, admin := true, seqCntM1 := 15 })],
      pools := [(0, pool0)], seqs := [(0, seq0)], seqTab := some (0, 0x400000), seqTabUsed := true, seqCache := [0] }

/-- A BOLT_STEP of one LEAVE of sequence 0. -/
def stepDesc : List (Nat × Nat × Nat) := [(0, 1, 0x20), (8, 8, ref 0 0), (16, 8, ref 0 0x1000), (32, 4, 1)]

theorem test_hyp_command_checks :
    (running0 stepDesc).running? d0 [0x20, 0x21, 0x22, 0x23, 0x30] = some (desc0 stepDesc) := by decide +kernel

theorem test_hyp_bolt_step :
    let s := bolt stepDesc []
    let x := desc0 stepDesc
    let rr := rdRun (x.field 8 8) 0 16
    let bs := s.fetchRun s.store x rr
    let reqs := (pieces 16 bs).map reqOf
    let runs := reqs.map (treeRun (x.field 24 8))
    let tb := (reqs.zip runs).map (fun p => blockBytes (if p.1.spec then s.fetchRun s.store x p.2 else []) 0 64)
    let u := s.cacheSeqs (namedSeqs reqs)
    s.running? d0 [0x20] = some x ∧ s.firstBad x [rr, wrRun (x.field 16 8) 0 16] = none ∧ (pieces 16 bs).all reqFormOk = true
      ∧ reqs.any Req.spec = (x.field 24 8 != 0) ∧ s.firstBad x runs = none
      ∧ (reqs.zip tb).all (fun p => !p.1.spec || treeOk p.1.ndraft p.2) = true ∧ s.stepBusy x.did (namedSeqs reqs) = false
      ∧ s.cacheRoom ((namedSeqs reqs).length + (reqs.filter (fun r => r.kind == 2)).length) = true
      ∧ { s with descs := s.descs ++ [{ desc0 stepDesc with index := 1, st := .prepared, kept := bs }] }.stepBusy x.did (namedSeqs reqs) = true
      ∧ ({ u with pools := [(0, { pool0 with quar := true })] } : State).stepRefused (u.partOf x) false (some x.did)
          (keptReqs 1 (bs ++ tb.flatten)) = some (0x7F, 0)
      ∧ u.stepRefused (u.partOf x) false (some x.did) (keptReqs 1 (bs ++ tb.flatten)) = none := by decide +kernel

theorem test_hyp_bolt_atomic_phase :
    let x := { desc0 stepDesc with st := .prepared, kept := List.replicate 80 0 }
    let s := { bolt stepDesc [] with descs := [x] }
    s.desc? d0 = some x ∧ x.st = .prepared ∧ x.opcode = 0x20 ∧ s.serving = true
      ∧ (∀ y ∈ s.descs, y.st = .prepared → y.opcode = 0x20 → x.prep ≤ y.prep)
      ∧ (s.decideReqs (s.partOf x) (some x.did) (keptReqs (x.field 32 4) x.kept)).2.flatMap Decided.bad = [] := by decide +kernel

/-- Growth of a sequence whose last page is shared, which must be copied; its header names another layer. -/
theorem test_hyp_bolt_atomic_phase_mismatch :
    let x := { desc0 stepDesc with st := .prepared, kept := fill 80 [(0, 2, 0), (2, 1, 1), (4, 4, 1)] }
    let s := { bolt stepDesc [] with descs := [x], pools := [(0, { pool0 with refs := [(0, 2)] })] }
    (s.decideReqs (s.partOf x) (some x.did) (keptReqs (x.field 32 4) x.kept)).2.flatMap Decided.bad = [{ pool := 0, page := 0 }] := by
  decide +kernel

/-- A BOLT_COMMIT of nothing of sequence 0. -/
def commitDesc : List (Nat × Nat × Nat) := [(0, 1, 0x21), (8, 8, ref 0 0), (16, 8, ref 0 0x1000), (24, 4, 1)]

theorem test_hyp_bolt_commit :
    let s := bolt commitDesc [(0, [0, 0, 0xFF, 0])]
    let x := desc0 commitDesc
    let rr := rdRun (x.field 8 8) 0 4
    let es := commitEnts (s.fetchRun s.store x rr)
    let u := s.cacheSeqs (es.map Prod.fst)
    s.running? d0 [0x21] = some x ∧ s.firstBad x [rr, wrRun (x.field 16 8) 0 16] = none ∧ s.stepBusy x.did (es.map Prod.fst) = false
      ∧ s.cacheRoom es.length = true ∧ u.commitRefused (u.partOf x) false es = none ∧ u.badCommit es = none
      ∧ ({ u with seqs := [(0, { seq0 with spec := true, nslot := 1, tree := [0xFF], prov := [2], bblocks := [2, 3] })] } : State).badCommit
          [(0, 0, 0)] = some { pool := 0, page := 2 } := by decide +kernel

/-- A BOLT_MIGRATE of `npos` positions of layer 0 of sequence 0 to pool 1, in a mode. -/
def migrateFields (mode npos : Nat) : List (Nat × Nat × Nat) :=
  [(0, 1, 0x22), (8, 1, mode), (9, 1, if mode = 0 then 1 else 0), (14, 2, 1), (20, 4, npos),
    (24, 8, if mode = 1 ∨ mode = 2 then ref 0 0x10000 else 0), (32, 8, ref 0 0x1000)]

/-- Pool 1, of the same class, with `n` of its four pages free. -/
def pool1 (n : Nat) : Pool := { pool0 with data := 0x1C0000, fresh := 4 - n, ifresh := 0, refs := [] }

/-- A migration's state: pool 1 beside pool 0, and the format byte of page 0's header. -/
def migration (mode npos n fmt : Nat) : State :=
  { bolt (migrateFields mode npos) [(0x87FD0, [BitVec.ofNat 8 fmt])] with pools := [(0, pool0), (1, pool1 n)] }

/-- What the migration statement supposes before a page. -/
def migrateHyps (mode npos : Nat) : Bool :=
  let s := migration mode npos 4 3
  let x := desc0 (migrateFields mode npos)
  let u := s.cacheSeq 0
  let ps := migratePages (u.seqn 0) (x.field 12 2) (x.field 14 2) (x.field 16 4) (x.field 20 4)
  let len := ps.length * (u.pool 0).psize
  let io := if mode = 1 then [wrRun (x.field 24 8) 0 len] else if mode = 2 then [rdRun (x.field 24 8) 0 len] else []
  s.running? d0 [0x22] == some x && bitsOf (x.field 8 1) 0 2 == mode && !s.stepBusy x.did [0] && s.cacheRoom 1 && x.prog == 0
    && u.migrateRefused x == none && u.nextPageBad x == none && u.regulated (u.partOf x) (u.pageUnits x) && u.firstBad x (io ++ [wrRun (x.field 32 8) 0 16]) == none && decide (ps = (upTo npos).map (fun _ => (0, 0)))

theorem test_hyp_bolt_migrate :
    [0, 1, 2, 3].all (fun mode => migrateHyps mode 0 && migrateHyps mode 1) = true := by decide +kernel

/-- How a page went: 0 done, 1 stopped, 2 a mismatch. -/
def pageStepNo : PageStep → Nat
  | .ok _ => 0
  | .stop _ _ => 1
  | .mismatch _ => 2

/-- The page of a migration. -/
def pageOf (mode n fmt : Nat) : Nat :=
  pageStepNo (((migration mode 1 n fmt).cacheSeq 0).migratePage (desc0 (migrateFields mode 1)) 0 0 0 0)

theorem test_hyp_bolt_migrate_page :
    [pageOf 1 4 3, pageOf 0 0 3, pageOf 0 4 4, pageOf 1 4 4, pageOf 3 4 4] = [0, 1, 2, 2, 2] := by decide +kernel

/-- A BOLT_POOL of an operation on a pool. -/
def poolFields (op n : Nat) : List (Nat × Nat × Nat) :=
  [(0, 1, 0x23), (8, 1, op), (9, 1, n), (10, 1, 3)] ++ (if op = 3 then [(48, 8, ref 0 0x1000)] else [(16, 8, ref 0 0), (32, 8, ref 0 0x200)])

theorem test_hyp_bolt_pool :
    let s := fun op n => bolt (poolFields op n) []
    let x := fun op n => desc0 (poolFields op n)
    let free : State := { s 1 0 with seqs := [] }
    (s 0 15).running? d0 [0x23] = some (x 0 15) ∧ poolOp (x 0 15).bytes = 0 ∧ ((s 0 15).pool 15).live = false
      ∧ ((x 0 15).resolved ((x 0 15).field 16 8)).2 % 32768 = 0 ∧ ((x 0 15).resolved ((x 0 15).field 32 8)).2 % 512 = 0
      ∧ free.running? d0 [0x23] = some (x 1 0) ∧ free.seqs.any (fun q => q.2.inPool 0) = false ∧ (free.pool 0).live = true
      ∧ (free.pool 0).part = free.partOf (x 1 0) ∧ (free.pool 0).quar = false
      ∧ free.poolInUse 0 = false ∧ ({ free with pools := [(0, { pool0 with retiring := [(3, [d0])] })] } : State).poolInUse 0 = true
      ∧ (s 1 0).seqs.any (fun q => q.2.inPool 0) = true ∧ poolOp (x 1 0).bytes = 1 ∧ poolOp (x 2 0).bytes = 2
      ∧ poolOp (x 3 0).bytes = 3 ∧ ((s 3 0).pool 0).balanced = true ∧ (s 3 0).firstBad (x 3 0) [wrRun ((x 3 0).field 48 8) 0 64] = none
      ∧ poolOp (x 4 0).bytes = 4 ∧ ((s 4 0).part ((s 4 0).partOf (x 4 0))).admin = true
      ∧ ({ s 4 0 with seqTabUsed := false } : State).running? d0 [0x23] = some (x 4 0)
      ∧ poolOp (x 5 0).bytes = 5 ∧ (s 5 0).seqTab.isSome = true := by decide +kernel

theorem test_hyp_bolt_manager :
    let s : State := { bolt [] [] with
      pools := [(0, { pool0 with retiring := [(3, [{ ring := 9, index := 0 }])], iretiring := [(7, [])] })], dropping := [0] }
    s.retiredReady (s.pool 0).retiring 3 = true ∧ s.retiredReady (s.pool 0).iretiring 7 = true ∧ s.dropping.head? = some 0
      ∧ s.serving = true ∧ s.seqTab.isSome = true ∧ (65535 : Nat) < 65536 ∧ s.seqCache.contains 65535 = false
      ∧ (withMem s (placed (0x400000 + 64 * 65535 + 60) (natLe 4 (crc32c (natLe 60 0))))).entryIntact 65535 = true ∧ s.cacheRoom 1 = true := by decide +kernel

/-! ### A step of more sequences than the cache holds -/

/-- A JOIN of a fresh sequence. -/
def joinReq : List Byte := fill 16 [(2, 1, 2)]

/-- 4,097 of them, one after another. -/
@[irreducible] def manyJoins : List Byte := (List.replicate 4097 joinReq).flatten

/-- The BOLT_STEP that names them. -/
def manyDesc : List (Nat × Nat × Nat) := [(0, 1, 0x20), (8, 8, ref 0 0), (16, 8, ref 0 0x20000), (32, 4, 4097)]

/-- Its state. -/
def many : State := { running0 manyDesc with mem := memWrite [] 0x100000 manyJoins }

theorem pieces_replicate (n fuel : Nat) (h : n ≤ fuel) : piecesOf 16 fuel (List.replicate n joinReq).flatten = List.replicate n joinReq := by
  induction n generalizing fuel with
  | zero => cases fuel <;> rfl
  | succ n ih =>
    obtain ⟨f, rfl⟩ : ∃ f, fuel = f + 1 := ⟨fuel - 1, by omega⟩
    have hl : joinReq.length = 16 := by decide +kernel
    rw [List.replicate_succ, List.flatten_cons]
    have hc : ∃ a l, joinReq ++ (List.replicate n joinReq).flatten = a :: l := by
      cases hj : joinReq with
      | nil => simp [hj] at hl
      | cons a l => exact ⟨a, _, rfl⟩
    obtain ⟨a, l, hc⟩ := hc
    rw [hc, piecesOf, ← hc, List.take_left' hl, List.drop_left' hl, ih f (by omega)]
    simp

theorem length_replicate (n : Nat) : (List.replicate n joinReq).flatten.length = n * 16 := by
  have hl : joinReq.length = 16 := by decide +kernel
  simp [hl]

theorem manyJoins_length : manyJoins.length = 65552 := by
  unfold manyJoins
  exact length_replicate 4097

/-- What holds of any number of JOINs. -/
theorem joins_hold (n : Nat) :
    (List.replicate n joinReq).all reqFormOk = true ∧ (List.replicate n (reqOf joinReq)).any Req.spec = false
      ∧ (((List.replicate n (reqOf joinReq)).zip (List.replicate n (blockBytes [] 0 64))).all
          (fun p => !p.1.spec || treeOk p.1.ndraft p.2)) = true
      ∧ ((List.replicate n (reqOf joinReq)).filter (fun r => r.kind == 2)).length = n := by
  have hs : (reqOf joinReq).spec = false := by decide +kernel
  have hk : (reqOf joinReq).kind = 2 := by decide +kernel
  have hf : reqFormOk joinReq = true := by decide +kernel
  refine ⟨by simp [hf], by simp [hs], ?_, by simp [hk]⟩
  simp [hs]

theorem many_pieces : pieces 16 manyJoins = List.replicate 4097 joinReq := by
  have h : 4097 ≤ manyJoins.length := by rw [manyJoins_length]; omega
  unfold pieces
  generalize manyJoins.length = k at h
  unfold manyJoins
  exact pieces_replicate 4097 k h

/-- Bytes written to an empty memory read back. -/
theorem written_reads (bs : List Byte) (a n : Nat) (h : n = bs.length) : memRead (memWrite [] a bs) a n = bs := by
  subst h
  exact readRun_writeRun (by decide +kernel)

theorem many_fetch : many.fetchRun many.store (desc0 manyDesc) (rdRun ((desc0 manyDesc).field 8 8) 0 65552) = manyJoins := by
  have ha : many.access (desc0 manyDesc) (rdRun ((desc0 manyDesc).field 8 8) 0 65552) = .ok 0 0x100000 := by decide +kernel
  simp only [State.fetchRun, ha]
  exact written_reads manyJoins 0x100000 65552 manyJoins_length.symm

theorem test_hyp_bolt_step_too_many :
    let x := desc0 manyDesc
    let rr := rdRun (x.field 8 8) 0 (16 * x.field 32 4)
    let bs := many.fetchRun many.store x rr
    let reqs := (pieces 16 bs).map reqOf
    let runs := reqs.map (treeRun (x.field 24 8))
    let tb := (reqs.zip runs).map (fun p => blockBytes (if p.1.spec then many.fetchRun many.store x p.2 else []) 0 64)
    many.running? d0 [0x20] = some x ∧ many.firstBad x [rr, wrRun (x.field 16 8) 0 (16 * x.field 32 4)] = none
      ∧ (pieces 16 bs).all reqFormOk = true ∧ reqs.any Req.spec = (x.field 24 8 != 0) ∧ many.firstBad x runs = none
      ∧ (reqs.zip tb).all (fun p => !p.1.spec || treeOk p.1.ndraft p.2) = true
      ∧ Config.seqCacheEntries < (namedSeqs reqs).length + (reqs.filter (fun r => r.kind == 2)).length := by
  have hn : (desc0 manyDesc).field 32 4 = 4097 := by decide +kernel
  have ht : (desc0 manyDesc).field 24 8 = 0 := by decide +kernel
  have hb : ∀ n, many.firstBad (desc0 manyDesc) (List.replicate n (treeRun 0 (reqOf joinReq))) = none := by
    intro n
    induction n with
    | zero => rfl
    | succ n ih =>
      have hl : (treeRun 0 (reqOf joinReq)).len = 0 := by decide +kernel
      rw [List.replicate_succ, State.firstBad, if_pos hl, ih]
  have hs : (reqOf joinReq).spec = false := by decide +kernel
  have hfb : many.firstBad (desc0 manyDesc) [rdRun ((desc0 manyDesc).field 8 8) 0 65552,
      wrRun ((desc0 manyDesc).field 16 8) 0 65552] = none := by decide +kernel
  have hd : many.running? d0 [0x20] = some (desc0 manyDesc) := by rfl
  have hj := joins_hold 4097
  have hz : ∀ n, ((List.replicate n (reqOf joinReq)).zip (List.replicate n (treeRun 0 (reqOf joinReq)))).map
      (fun p => blockBytes (if p.1.spec then many.fetchRun many.store (desc0 manyDesc) p.2 else []) 0 64)
        = List.replicate n (blockBytes [] 0 64) := by
    intro n
    simp [List.zip_replicate', hs]
  simp only [hn, ht, Nat.reduceMul, many_fetch, many_pieces, List.map_replicate, hb, hz]
  refine ⟨hd, hfb, hj.1, hj.2.1, trivial, hj.2.2.1, ?_⟩
  rw [hj.2.2.2]
  have : Config.seqCacheEntries = 4096 := rfl
  omega

/-! ### Collectives and CRC scans -/

/-- A one-member group block: 128 FP32 elements, its list at 0x2000, its areas at 0 and 0x40000 of handle 0. -/
def groupBlock : List Byte :=
  fill 128 [(4, 2, 1), (11, 1, 12), (12, 2, 1), (14, 2, 1), (16, 2, 1), (18, 2, 1), (20, 4, 512), (24, 8, ref 0 0x2000),
    (32, 8, ref 0 0), (40, 8, ref 0 0x40000)]

/-- A COLL_ALLREDUCE of an operation, 512 bytes long. -/
def collDesc (op : Nat) : List (Nat × Nat × Nat) :=
  [(0, 1, 0x30), (8, 1, op), (12, 4, 512), (16, 8, ref 0 0x1000), (24, 8, ref 0 0x4000), (32, 8, ref 0 0x3000)]

theorem test_hyp_coll_create :
    let s := blocks (collDesc 1) [(0x1000, groupBlock)]
    let x := desc0 (collDesc 1)
    let bs := s.fetchRun s.store x (rdRun (x.field 16 8) 0 128)
    let g := groupOf bs
    let lr := rdRun (fieldOf bs 24 8) 0 (8 * g.nmem)
    let es := (pieces 8 (s.fetchRun s.store x lr)).map leNat
    s.running? d0 [0x30] = some x ∧ collOp x = 1 ∧ s.firstBad x [rdRun (x.field 16 8) 0 128, wrRun (x.field 32 8) 0 64] = none
      ∧ groupOk bs = true ∧ s.firstBad x [lr] = none
      ∧ es.zipIdx.all (fun e => s.memberOk (s.partOf x) (fieldOf bs 32 8) e.1 (e.2 == g.myIdx)) = true
      ∧ s.areaOk x (fieldOf bs 32 8) g.areaBytes = true ∧ s.areaOk x (fieldOf bs 40 8) g.workBytes = true
      ∧ (upTo 256).find? (fun n => (s.group n).st == .free) = some 0
      ∧ (upTo 256).find? (fun n => (({ s with groups := (upTo 256).map (fun n => (n, { Group.reset with st := .ready })) } : State).group n).st
          == .free) = none := by decide +kernel

/-- A group of two members with blocks of 16 FP32 elements, this one of index `me`, with its collectives. -/
def pairGroup (me : Nat) (live : List Coll) : Group :=
  { Group.reset with
      st := .ready, nmem := 2, myIdx := me, lchunk := 12, fan := [2, 1, 1, 1], cap := 64,
      members := [0x110000, 0x120000], rxarea := 0x110000, work := 0x130000, first := true, live := live }

/-- A collective that has just begun. -/
def coll0 : Coll :=
  { seq := 0, d := d0, stage := 0, gather := false, round := 0, sent := false, got := [], asked := [], lflags := 0, ldrop := 0,
    failed := false, retried := false, state := 0, voted := false, rcrc := 0, gflags := 0, gdrop := 0, noRecord := false }

/-- An engine with that group as group 255, a COLL_ALLREDUCE of an operation on it running, and memory outside. -/
def colls (op me : Nat) (live : List Coll) (m : Table Byte) : State :=
  withMem { running0 (collDesc op ++ [(9, 1, 255)]) with groups := [(255, pairGroup me live)] } m

theorem test_hyp_coll_destroy_and_reduce :
    let x := desc0 (collDesc 0 ++ [(9, 1, 255)])
    let y := desc0 (collDesc 2 ++ [(9, 1, 255)])
    let g := pairGroup 0 []
    (colls 2 0 [] []).running? d0 [0x30] = some y ∧ collOp y = 2 ∧ (colls 2 0 [] []).namedGroup y = some g ∧ g.live = []
      ∧ (colls 2 0 [coll0] []).namedGroup y = some (pairGroup 0 [coll0]) ∧ (pairGroup 0 [coll0]).live ≠ []
      ∧ (colls 0 0 [] []).running? d0 [0x30] = some x ∧ collOp x = 0 ∧ (colls 0 0 [] []).namedGroup x = some g ∧ g.st ≠ .broken
      ∧ x.field 12 4 % collSize g.fmt = 0 ∧ x.opcode = 0x30 ∧ (∀ t ∈ g.taken, t.1 ≠ x.did) ∧ (∀ c ∈ g.live, c.d ≠ x.did)
      ∧ ({ g with taken := [(d0, 5)] } : Group).taken.find? (fun t => t.1 == x.did) = some (x.did, 5)
      ∧ (∀ t ∈ g.taken, (colls 2 0 [] []).desc? t.1 = none) ∧ (∃ t ∈ [(d0, (5 : Word))], ((colls 2 0 [] []).desc? t.1).isSome = true)
      ∧ (pairGroup 0 [coll0]).ready x.did = false ∧ g.ready x.did = true ∧ (colls 0 0 [] []).channelFree x g.channel = true
      ∧ (colls 0 0 [] []).firstBad x [rdRun (x.field 16 8) 0 (min (x.field 12 4) g.cap), wrRun (x.field 24 8) 0 (g.e * collSize g.ofmt),
          wrRun (x.field 32 8) 0 64] = none
      ∧ ({ colls 0 0 [] [] with groups := [(255, { g with st := .broken })] } : State).namedGroup x = some { g with st := .broken } := by
  decide +kernel

/-- The chunk record that member 1 sends first, and again. -/
def chunkOf1 (again : Bool) : Table Byte :=
  (placed 0x111010 (chunkRecord 0 0 ((pairGroup 0 []).chunkCrc 0 0 1 0 false (List.replicate 32 0)) false again 0)).filter (fun p => p.2 != 0)

/-- The chunk's record as an engine finds it, and whether its check holds. -/
def recAt1 (s : State) : List Byte := s.memAt 0x111010 16
/-- Whether its check holds. -/
def recHolds (s : State) : Bool := fieldOf (recAt1 s) 8 4 == (pairGroup 0 []).chunkCrc 0 0 1 0 false (s.memAt 0x112020 32)

theorem test_hyp_coll_exchange :
    let x := desc0 (collDesc 0 ++ [(9, 1, 255)])
    (colls 0 0 [coll0] []).serving = true ∧ (colls 0 0 [coll0] []).exchange 255 = some (coll0, x) ∧ coll0.stage < 4 ∧ coll0.sent = false
      ∧ ((pairGroup 0 [coll0]).peers 0).all ((colls 0 0 [coll0] []).released (pairGroup 0 [coll0]) coll0) = true
      ∧ (pairGroup 0 [coll0]).peerAt 1 = some (0, 1) ∧ coll0.got.contains 1 = false
      ∧ 0x110000 + (pairGroup 0 []).recAt 0 + 16 * (0 * 2 + 1) = 0x111010 ∧ 0x110000 + (pairGroup 0 []).dataAt 0 + 4 * 8 = 0x112020
      ∧ x.st = .running
      ∧ (let s := colls 0 0 [coll0] []
         let g := pairGroup 0 [coll0]
         let w := (g.peers 0).foldl (fun w d => w.and (chunkNeeds s g x coll0 d)) (roundNeeds g x coll0)
         s.regulated g.part 1 = true ∧ s.firstBad x w.runs = none ∧ w.places.findSome? (fun p => s.poisonedAt p.1 p.2.1 p.2.2) = none)
      ∧ (let s := colls 0 0 [{ coll0 with stage := 5 }] []
         let w := resultNeeds s (pairGroup 0 []) x 0 (pairGroup 0 []).e
         s.firstBad x w.runs = none ∧ w.places.findSome? (fun p => s.poisonedAt p.1 p.2.1 p.2.2) = none)
      ∧ (colls 0 0 [{ coll0 with stage := 5 }] []).exchange 255 = some ({ coll0 with stage := 5 }, x) ∧ bitOf (x.field 10 1) 0 = false := by
  decide +kernel

/-- An exchange whose source range is not resident: its descriptor halts. -/
theorem test_hyp_coll_halts :
    let x := desc0 (collDesc 0 ++ [(9, 1, 255)])
    let s : State := { colls 0 0 [coll0] [] with ranges := [(0, { wide 0x100000 0 with res := false })] }
    let g := pairGroup 0 [coll0]
    let w := (g.peers 0).foldl (fun w d => w.and (chunkNeeds s g x coll0 d)) (roundNeeds g x coll0)
    (s.firstBad x w.runs).map Prod.snd = some .halt ∧ s.exchange 255 = some (coll0, x) := by decide +kernel

/-- A collective whose descriptor asks for a post to core 5, which runs its context's kernel or does not. -/
theorem test_hyp_coll_local_post :
    let fs := collDesc 0 ++ [(9, 1, 255), (10, 1, 1), (40, 1, 3), (41, 1, 5)]
    let c := { coll0 with stage := 5 }
    let s : State := { colls 0 0 [c] [] with descs := [desc0 fs] }
    let busy : Core := { Core.reset with ctx := some 0, pairs := [(3, { SemPair.reset with claimed := true })] }
    s.exchange 255 = some (c, desc0 fs) ∧ bitOf ((desc0 fs).field 10 1) 0 = true ∧ bitsOf ((desc0 fs).field 41 1) 0 5 = 5
      ∧ (s.core 5).ctx ≠ some 0 ∧ ((s.setCore 5 busy).core 5).ctx = some 0
      ∧ s.pairCore 0 5 = none ∧ (s.setCore 5 busy).pairCore 0 5 = some ((s.setCore 5 busy).core 5)
      ∧ (({ busy with pairs := [(3, { SemPair.reset with claimed := true, full := 2 ^ 32 - 1 })] } : Core).post 3 false 1) = none
      ∧ ((({ busy with pairs := [(3, { SemPair.reset with claimed := true, full := 2 ^ 32 - 1 })] } : Core).pair 3).claimed = true)
      ∧ (((s.setCore 5 busy).core 5).post (bitsOf ((desc0 fs).field 40 1) 0 6) false 1).isSome = true := by decide +kernel

theorem test_hyp_coll_chunk_good :
    coll0.current (recAt1 (colls 0 0 [coll0] (chunkOf1 false))) false = true ∧ recHolds (colls 0 0 [coll0] (chunkOf1 false)) = true := by
  decide +kernel

theorem test_hyp_coll_chunk_bad :
    coll0.current (recAt1 (colls 0 0 [coll0] [])) false = true ∧ recHolds (colls 0 0 [coll0] []) = false := by decide +kernel

theorem test_hyp_coll_chunk_again :
    let asked := { coll0 with asked := [1] }
    asked.current (recAt1 (colls 0 0 [asked] (chunkOf1 true))) true = true ∧ recHolds (colls 0 0 [asked] (chunkOf1 true)) = true
      ∧ asked.current (recAt1 (colls 0 0 [asked] [(0x11101C, 2)])) true = true ∧ recHolds (colls 0 0 [asked] [(0x11101C, 2)]) = false := by
  decide +kernel

theorem test_hyp_coll_retransmit :
    let g := pairGroup 0 [coll0]
    let l := fun (s : State) => s.peerLine g 0 1
    g.peerAt 1 = some (0, 1) ∧ g.live.find? (fun c => c.seq.toNat == fieldOf (l (colls 0 0 [coll0] [])) 8 4) = some coll0
      ∧ (colls 0 0 [coll0] []).desc? coll0.d = some (desc0 (collDesc 0 ++ [(9, 1, 255)])) ∧ fieldOf (l (colls 0 0 [coll0] [])) 12 4 < g.chunks 0
      ∧ byteOf (l (colls 0 0 [coll0] [])) 17 = getAt 0 g.xseen 1 ∧ byteOf (l (colls 0 0 [coll0] [(0x110051, 1)])) 17 ≠ getAt 0 g.xseen 1
      ∧ (let s := colls 0 0 [coll0] []
         let w := chunkNeeds s g (desc0 (collDesc 0 ++ [(9, 1, 255)])) coll0 1
         s.regulated g.part 1 = true ∧ s.firstBad (desc0 (collDesc 0 ++ [(9, 1, 255)])) w.runs = none
          ∧ w.places.findSome? (fun p => s.poisonedAt p.1 p.2.1 p.2.2) = none) := by
  decide +kernel

/-- A collective past local completion, and one decided. -/
def votes (state : Nat) (voted : Bool) : Coll := { coll0 with stage := 5, state := state, voted := voted }

theorem test_hyp_coll_votes :
    let voteIn : Table Byte := [(0x11005D, 1)]
    (pairGroup 0 [votes 1 false]).live.find? (fun c => !c.exchanging && !c.voted) = some (votes 1 false)
      ∧ (pairGroup 0 []).voteStage = none ∧ ((colls 0 0 [votes 1 false] voteIn).subtree (pairGroup 0 [votes 1 false]) (votes 1 false)).isSome = true
      ∧ (pairGroup 1 []).voteStage = some 0 ∧ ((colls 0 1 [votes 1 false] []).subtree (pairGroup 1 [votes 1 false]) (votes 1 false)).isSome = true
      ∧ (pairGroup 0 [votes 2 true]).live.find? Coll.voted = some (votes 2 true)
      ∧ (colls 0 0 [votes 2 true] []).verdictOf (pairGroup 0 [votes 2 true]) (votes 2 true) = some { ok := true, flags := 0, drop := 0 }
      ∧ (colls 0 0 [votes 3 true] []).verdictOf (pairGroup 0 [votes 3 true]) (votes 3 true) = some { ok := false, flags := 0, drop := 0 }
      ∧ (pairGroup 0 [coll0]).live[0]? = some coll0 := by decide +kernel

/-- A CRC_SCAN of two bytes under the first named set. -/
def scanDesc (load : Bool) : List (Nat × Nat × Nat) :=
  [(0, 1, 0x38), (8, 8, ref 0 0), (16, 8, ref 0 0x1000), (32, 8, 2), (48, 1, if load then 0x39 else 0x31)]

/-- A loaded record's check. -/
def loadCheck : List Byte := natLe 4 (crc32c (List.replicate 16 0))

theorem test_hyp_crc_scan :
    [false, true].all (fun load =>
      let r := blocks (scanDesc load) [(0x1020, loadCheck)]
      let s : State := { r with cvus := putAt none r.cvus 0 (some d0) }
      let x := desc0 (scanDesc load)
      let c := crcDesc x.bytes
      let out := if c.load then s.fetchRun s.store x (rdRun c.out 0 64) else natLe 64 0
      let y := { x with kept := natLe 64 0 ++ out, scan := some (c.start (natLe 64 0 ++ out)) }
      let v := (s.scanRun y c (c.algo (y.kept.take 64)) 1 (c.start y.kept)).2
      r.running? d0 [0x38] == some x && r.cvuFor x == some 0 && x.scan == none && s.firstBad x c.blocks == none && !s.boltHandle c.src && !s.boltHandle c.out
        && !s.boltHandle c.params && c.params == 0 && c.blockOk (natLe 64 0) && (!c.load || fieldOf out 32 4 == crc32c (out.take 16))
        && (s.scanRun y c (c.algo (y.kept.take 64)) 1 (c.start y.kept)).1 == none && decide (c.len ≤ v.fed)
        && s.firstBad y [wrRun c.out 0 64] == none && s.scanWhole y c (c.algo (y.kept.take 64)) == some v.raw
        && s.regulated (s.partOf x) 1 && !(s.scanSeen y c (c.algo (y.kept.take 64)) (c.start y.kept)).written
        && (s.scanRun y c (c.algo (y.kept.take 64)) 1 (s.scanSeen y c (c.algo (y.kept.take 64)) (c.start y.kept))).2.whole == some v.raw
        && (s.scanRun y c (c.algo (y.kept.take 64)) 1
              { s.scanSeen y c (c.algo (y.kept.take 64)) (c.start y.kept) with written := true }).2.written) = true := by decide +kernel

/-- Four scans hold the four units: a fifth waits. -/
theorem test_hyp_crc_units_taken :
    let y := fun n => { desc (scanDesc false) with index := BitVec.ofNat 32 n }
    let s : State := { up with descs := (upTo 5).map y, cvus := (upTo 4).map (fun n => (n, some { ring := 0, index := BitVec.ofNat 32 n })) }
    s.running? { ring := 0, index := 4 } [0x38] = some (y 4) ∧ s.cvuFor (y 4) = none ∧ s.cvuFor (y 2) = some 2 := by decide +kernel

theorem test_hyp_integer_sums : ([127] : List Int).zip ([-128] : List Int) ≠ [] := by decide

/-- The check values of the named sets: the nine digits fed to each (R437). -/
theorem test_named_crc_check_values :
    (upTo 5).map (fun n =>
      match crcNamed (n + 1) with
      | some p => crcFinal p (("123456789".toList.map (fun c => BitVec.ofNat 8 c.toNat)).foldl (crcFeed p) p.init)
      | none => 0) = [0xE3069283, 0xCBF43926, 0x29B1, 0x995DC9BBDF1939FA, 0xF4] := by decide +kernel

/-! ### Ranges, semaphores, loops and tables -/

/-- A descriptor of context 0 whose partition 0 administers and owns handles 0 to 15; its mirror lies at 0x500000. -/
def rng (fs : List (Nat × Nat × Nat)) (es : List (Nat × RangeEnt)) (m : Table Byte) : State :=
  withMem { running0 fs with
    parts := [(0, { PartCfg.reset with enable := true, admin := true, hCntM1 := 15, fl := 4, fbase := 0x600000 })],
    rangeBase := 0x500000, ranges := es } (m.filter (fun p => p.2 != 0))

/-- A plain entry of a generation. -/
def ent (g : BitVec 16) : RangeEnt := { wide 0x100000 0 with gen := g }

/-- A RANGE_SYNC UPDATE of handle 1. -/
def updateDesc : List (Nat × Nat × Nat) := [(0, 1, 0x40), (16, 2, 1), (20, 4, 1)]

theorem test_hyp_range_update :
    let x := desc0 updateDesc
    let good := rng updateDesc [(0, ent 0)] (placed 0x500020 (mirrorBytes (ent 1)))
    let bad := rng updateDesc [(0, ent 0)] (placed 0x500020 [1])
    let far := rng (updateDesc ++ [(20, 4, 16)]) [(0, ent 0)] []
    good.running? d0 [0x40] = some x ∧ bitOf (byteOf x.bytes 8) 0 = false ∧ x.kept = []
      ∧ (syncHandles x.bytes).all (good.ownsHandle 0) = true ∧ syncHandles x.bytes = [1] ∧ good.mirrorOk 0 (good.mirrorAt 1) = true
      ∧ syncKind (good.range 1) (mirrorEnt (good.mirrorAt 1)) = .install ∧ bad.mirrorOk 0 (bad.mirrorAt 1) = false
      ∧ (syncHandles (desc0 (updateDesc ++ [(20, 4, 16)])).bytes).all (far.ownsHandle 0) = false := by decide +kernel

/-- Each row of the transition table at a boundary of "newer": 0x8000 generations on, and one more. -/
theorem test_hyp_transition_table :
    (ent 0).st = .valid ∧ RangeEnt.reset.st = .invalid ∧ newer 0x8000 0 = true ∧ newer 0x8001 0 = false ∧ newer 0 0 = false
      ∧ syncKind (ent 0) { ent 0 with res := false } = .res ∧ syncKind (ent 0) (ent 1) = .refused
      ∧ syncKind { ent 0 with st := .quarantined } (ent 0x8000) = .install ∧ syncKind { ent 0 with st := .quarantined } (ent 0x8001) = .refused
      ∧ syncKind { ent 0 with st := .retiring } (ent 1) = .wait ∧ syncKind { ent 0 with st := .retiring, held := true } (ent 1) = .install
      ∧ syncKind (ent 0) RangeEnt.reset = .refused ∧ syncKind RangeEnt.reset RangeEnt.reset = .keep := by decide +kernel

/-- A RANGE_SYNC NEW of one entry. -/
def newDesc : List (Nat × Nat × Nat) := [(0, 1, 0x40), (8, 1, 1), (17, 1, 0), (20, 4, 1), (24, 8, ref 0 0), (32, 8, ref 0 0x100)]

theorem test_hyp_range_new :
    let x := desc0 newDesc
    let good := rng newDesc [(0, ent 0)] (placed 0x100000 (mirrorBytes (ent 1)))
    let bad := rng newDesc [(0, ent 0)] []
    let es := fun (s : State) => pieces 32 (s.fetchRun s.store x (rdRun (x.field 24 8) 0 32))
    let ok := fun (s : State) => (es s).all (fun bs => s.mirrorOk (s.partOf x) bs && (mirrorEnt bs).st == .valid)
    good.running? d0 [0x40] = some x ∧ bitOf (byteOf x.bytes 8) 0 = true ∧ x.field 20 4 = 1
      ∧ good.firstBad x [rdRun (x.field 24 8) 0 32, wrRun (x.field 32 8) 0 4] = none ∧ ok good = true ∧ ok bad = false
      ∧ bad.firstBad x [rdRun (x.field 24 8) 0 32, wrRun (x.field 32 8) 0 4] = none ∧ good.lowestInvalid 16 0 = some 1
      ∧ (good.syncNew 0 [ent 1]).2.2 = false := by decide +kernel

/-- A partition all of whose handles are VALID has none for a new entry. -/
theorem test_hyp_range_new_full :
    let s := rng newDesc ((upTo 16).map (fun h => (h, ent 0))) []
    s.lowestInvalid ((s.part 0).hCntM1 + 1) (s.part 0).hBase = none ∧ (s.syncNew 0 [ent 1]).2.2 = true := by decide +kernel

/-- A RANGE_RETIRE of handle 1, generation 3, with or without HOLD. -/
def retireDesc (hold : Nat) : List (Nat × Nat × Nat) := [(0, 1, 0x41), (8, 1, hold), (16, 2, 1), (18, 2, 3)]

theorem test_hyp_range_retire :
    let x := fun hold => desc0 (retireDesc hold)
    let s := rng (retireDesc 0) [(0, ent 0), (1, ent 3)] []
    let begun := fun hold : Nat => ({ rng (retireDesc hold) [(0, ent 0), (1, { ent 3 with st := .retiring })] [] with
      descs := [{ x hold with st := .prepared }] } : State)
    let used : State := { s with descs := [{ desc0 [] with index := 1, trans := [transOf 1 (ent 3)] }, x 0] }
    s.running? d0 [0x41] = some (x 0) ∧ (x 0).handle = 1 ∧ s.ownsHandle 0 1 = true ∧ s.boltRange 1 = false ∧ s.retirable (x 0) = true
      ∧ s.faults = [] ∧ (rng (retireDesc 0) [(16, ent 3)] []).retirable (desc0 (retireDesc 0 ++ [(16, 2, 16)])) = true
      ∧ (rng (retireDesc 0) [(16, ent 3)] []).ownsHandle 0 16 = false ∧ (rng (retireDesc 0) [(1, ent 4)] []).retirable (x 0) = false
      ∧ ([0, 1].all (fun hold => (begun hold).desc? d0 == some { x hold with st := .prepared } && (begun hold).serving
          && ((begun hold).useCount 1 3 == 0) && (begun hold).range 1 == { ent 3 with st := .retiring } && (x hold).gen == 3
          && bitOf (byteOf (x hold).bytes 8) 0 == (hold == 1))) = true
      ∧ used.desc? d0 = some (x 0) ∧ used.useCount 1 3 ≠ 0 := by decide +kernel

/-- An ADVISE that moves handle 1, generation 3, to DEST as generation 4. -/
def adviseDesc (op : Nat) : List (Nat × Nat × Nat) :=
  [(0, 1, 0x42), (8, 1, op), (16, 2, 1), (18, 2, 3), (20, 2, 4), (24, 8, 0x200000)]

theorem test_hyp_advise :
    let e : RangeEnt := { ent 3 with wr := false }
    let s := fun op => rng (adviseDesc op) [(0, ent 0), (1, e)] []
    let used : State := { s 0 with descs := [{ desc0 [] with index := 1, trans := [transOf 1 e] }, desc0 (adviseDesc 0)] }
    let prefetched : State := { s 2 with descs := [{ desc0 (adviseDesc 2) with st := .prepared }] }
    ([0, 1, 2].all (fun op => (s op).running? d0 [0x42] == some (desc0 (adviseDesc op)) && adviseOp (desc0 (adviseDesc op)).bytes == op
        && (s op).adviseRefused (desc0 (adviseDesc op)) == none)) = true
      ∧ (((s 0).retireBegin (desc0 (adviseDesc 0))).drainable? d0).map (fun y => (y.handle, y.opcode, y.gen)) = some (1, 0x42, 3)
      ∧ (((s 0).retireBegin (desc0 (adviseDesc 0))).range 1).st = .retiring
      ∧ (used.retireBegin (desc0 (adviseDesc 0))).drainable? d0 = none
      ∧ prefetched.desc? d0 = some { desc0 (adviseDesc 2) with st := .prepared } ∧ prefetched.useCount 1 3 = 0 ∧ prefetched.serving = true
      ∧ (((s 0).retireBegin (desc0 (adviseDesc 0))).markStale 1).moveLost (desc0 (adviseDesc 0)) = none
      ∧ (s 2).moveLost (desc0 (adviseDesc 2)) = none
      ∧ ({ rng (adviseDesc 2) [(1, { ent 3 with tier := 2, base := 0 })] [] with ssPoison := [2047] } : State).moveLost (desc0 (adviseDesc 2))
          = some 2047
      ∧ ((rng (adviseDesc 0) [(1, ent 4)] []).range 1).gen ≠ (desc0 (adviseDesc 0)).gen
      ∧ used.useCount 1 3 ≠ 0 ∧ { e with base := 0x200000, res := true, gen := 4 } ≠ RangeEnt.reset := by decide +kernel

/-- A stream of descriptor 1 stopped at handle 1, as fault 5. -/
def stopped : PFault :=
  { id := some 5, core := none, part := 0, handle := 1, gen := 3, reason := 0, isWrite := false, offset := 0, ctx := 0, tag := 0,
    d := some { ring := 0, index := 1 } }

/-- A REPLY to fault 5. -/
def replyDesc (act : Nat) : List (Nat × Nat × Nat) := [(0, 1, 0x42), (8, 1, 3), (9, 1, act), (10, 2, 5), (16, 2, 1), (18, 2, 3)]

theorem test_hyp_reply :
    [0, 1].all (fun act =>
      let s : State := { rng (replyDesc act) [(0, ent 0), (1, ent 3)] [] with faults := [stopped] }
      let x := desc0 (replyDesc act)
      s.running? d0 [0x42] == some x && adviseOp x.bytes == 3 && s.ownsHandle (s.partOf x) x.handle && (s.range x.handle).gen == x.gen
        && s.replyFaults x == [stopped] && stopped.handle == x.handle && bitOf (byteOf x.bytes 9) 0 == (act == 1)) = true := by decide +kernel

/-- A REPLY state beside which descriptor 1 waits with a field that names handle `h`. -/
def replyTo (act h : Nat) (es : List (Nat × RangeEnt)) (f : PFault) : State :=
  let w : Desc := { desc [(0, 1, 6), (8, 8, ref h 0), (16, 8, ref 0 0x1000), (24, 4, 1)] with index := 1, order := 0 }
  { rng (replyDesc act) es [] with faults := [f], descs := [w, desc0 (replyDesc act)] }

/-- The entries of handles 0 and 1. -/
def two : List (Nat × RangeEnt) := [(0, ent 0), (1, ent 3)]

theorem test_hyp_reply_streams :
    let x := desc0 (replyDesc 0)
    let away := replyTo 0 0 [(0, ent 0), (1, { ent 3 with res := false })] stopped
    let e : Did := { ring := 0, index := 1 }
    let missing := fun (s : State) (y : Desc) =>
      (({ s with faults := [] } : State).resolveMissing 0 (keepTrans y.trans (transOf 1 (ent 3))) y.bytes).status
    ((rng (replyDesc 0) [(1, ent 4)] []).range x.handle).gen ≠ x.gen ∧ (rng (replyDesc 0) [(1, ent 4)] []).running? d0 [0x42] = some x
      ∧ (rng (replyDesc 0) two []).replyFaults x = [] ∧ (replyTo 0 0 two { stopped with handle := 2 }).replyFaults x = [{ stopped with handle := 2 }]
      ∧ (away.range 1).res = false ∧ ((replyTo 0 0 two stopped).range 1).res = true ∧ stopped.d = some e
      ∧ (((replyTo 0 0 two stopped).desc? e).map (missing (replyTo 0 0 two stopped))) = some none
      ∧ (((replyTo 0 9 two stopped).desc? e).map (missing (replyTo 0 9 two stopped))).all (fun r => r.isSome) = true
      ∧ stopped.d.bind (replyTo 1 0 two stopped).loopOf = none
      ∧ stopped.d.bind ({ replyTo 1 0 two stopped with loops := [(3, { LoopSt.reset with live := true, d := e })] } : State).loopOf = some 3
      ∧ (((replyTo 0 0 two stopped).resumeStream stopped).desc? d0).isSome = true
      ∧ (((replyTo 1 0 two stopped).failStream stopped).desc? d0).isSome = false := by decide +kernel

theorem test_hyp_range_fault_record :
    let f : PFault := { stopped with id := none }
    let s : State := { rng [] [(0, ent 0), (1, ent 3)] [] with faults := [f], nextFault := 4095 }
    let p := s.part 0
    s.faults.find? (fun f => f.part == 0 && f.id.isNone) = some f ∧ freeId (s.faults.filterMap PFault.id) Config.maxFaults s.nextFault = some 4095
      ∧ s.serving = true ∧ ringRoom p.fl p.faultProd (s.faultCons 0) = true ∧ pastEnd p.fbase (ringSpan p.fl 32) = false
      ∧ pastEnd p.fmsg 4 = false := by decide +kernel

theorem test_hyp_sweep :
    let s := rng [] [(5, ent 3)] []
    let u : State := { s with sweep := [(5, s.sweepFinds 5)] }
    s.serving = true ∧ s.sweepFinds 5 ≠ getAt 0 s.sweep 5 ∧ u.sweepFinds 5 ≠ 0 ∧ u.sweepFinds 5 = getAt 0 u.sweep 5
      ∧ s.sweepFinds 16383 = 0 := by decide +kernel

/-- A damaged entry: INVALID, with an intact mirror of its generation, and without one. -/
theorem test_hyp_damaged_entry :
    let s := rng [] [(5, ent 3)] (placed 0x5000A0 (mirrorBytes (ent 3)))
    (s.range 6).st = .invalid ∧ (s.range 5).st ≠ .invalid ∧ mirrorIntact (s.mirrorAt 5) = true ∧ fieldOf (s.mirrorAt 5) 16 2 = (s.range 5).gen.toNat
      ∧ mirrorIntact ((rng [] [(5, ent 3)] []).mirrorAt 5) = false := by decide +kernel

/-- A kernel of context 0 that is live on core 0, its descriptor index 1, with core 0 as given. -/
def live (fs : List (Nat × Nat × Nat)) (k : Core) : State :=
  { running0 fs with descs := [{ desc0 fs with semKernel := some { ring := 0, index := 1 } }],
                     kernels := [(0, { Kernel.reset with live := true, d := { ring := 0, index := 1 } })], cores := [(0, { k with ctx := some 0 })] }

/-- A core whose pair 0 is claimed with a FULL count. -/
def pairAt (n : Nat) : Core := { Core.reset with pairs := [(0, { SemPair.reset with claimed := true, full := n })] }

/-- A SEM_OP of 1 on pair 0 of core 0. -/
def semDesc (wait : Nat) : List (Nat × Nat × Nat) := [(0, 1, 0x48), (8, 1, wait), (12, 4, 1)]

theorem test_hyp_semaphores :
    let o := semOpOf (desc0 (semDesc 0)).bytes
    (live (semDesc 0) (pairAt 0)).running? d0 [0x48] = some { desc0 (semDesc 0) with semKernel := some { ring := 0, index := 1 } }
      ∧ ((live (semDesc 0) (pairAt 0)).core 0).ctx = some 0 ∧ ((live (semDesc 0) (pairAt 0)).kernel 0).d = { ring := 0, index := 1 }
      ∧ (Core.reset.pair 0).claimed = false ∧ o.wait = false ∧ o.core = 0 ∧ o.pair = 0 ∧ o.amount = 1
      ∧ ((live (semDesc 0) (pairAt 0)).kernel 0).live = true ∧ ((pairAt 0).pair 0).claimed = true
      ∧ ((pairAt (2 ^ 32 - 2)).pair 0).get o.isEmpty + 1 < 2 ^ 32 ∧ 2 ^ 32 ≤ ((pairAt (2 ^ 32 - 1)).pair 0).get o.isEmpty + 1
      ∧ (semOpOf (desc0 (semDesc 1)).bytes).wait = true ∧ ((pairAt 0).pair 0).get o.isEmpty < 1 ∧ 1 ≤ ((pairAt 1).pair 0).get o.isEmpty := by
  decide +kernel

/-- The image of a program of one step. -/
def image1 : List Byte := ((1 :: List.replicate 79 0) ++ List.replicate 80 0) ++ ((1 :: List.replicate 47 0) ++ List.replicate 48 0)

theorem test_image_crc : crc32c image1 = 2690417747 := by
  have h1 : ((1 :: List.replicate 79 0) : List Byte).foldl (crcFeed crc32cParams) crc32cParams.init = 4040036331 := by decide +kernel
  have h2 : (List.replicate 80 (0 : Byte)).foldl (crcFeed crc32cParams) 4040036331 = 852203232 := by decide +kernel
  have h3 : ((1 :: List.replicate 47 0) : List Byte).foldl (crcFeed crc32cParams) 852203232 = 2902838356 := by decide +kernel
  have h4 : crcFinal crc32cParams ((List.replicate 48 (0 : Byte)).foldl (crcFeed crc32cParams) 2902838356) = 2690417747 := by decide +kernel
  unfold crc32c crcOf image1
  rw [List.foldl_append, List.foldl_append, List.foldl_append, h1, h2, h3, h4]

/-- A TABLE_LOAD of that image into slot 5 of core 0, with a CRC; and a TABLE_SWAP of that slot. -/
def loadDesc (crc : Nat) : List (Nat × Nat × Nat) := [(0, 1, 0x58), (8, 8, ref 0 0), (16, 4, 1), (20, 1, 5), (24, 4, crc)]
/-- The TABLE_SWAP. -/
def swapDesc : List (Nat × Nat × Nat) := [(0, 1, 0x59), (8, 8, 32), (16, 4, 1)]

/-- Core 0 of an engine: its slot 5 assigned to context 0, loaded or not, and its EXP2 seed table in recovery. -/
def slotted (loaded : Bool) (s : State) : State :=
  { s with cores := [(0, { Core.reset with
      uprogs := [(5, { UProg.reset with ctx := some 0, loaded := loaded })], seeds := [(0x10, { SeedTab.reset with recovery := true })] })] }

theorem test_hyp_table_load :
    [2690417747, 0].all (fun crc =>
      let s := slotted false (blocks (loadDesc crc) [(0, image1)])
      let x := desc0 (loadDesc crc)
      s.running? d0 [0x58] == some x && !s.swapPending x 5 && bitsOf (byteOf x.bytes 20) 0 6 == 5
        && s.firstBad x [rdRun (x.field 8 8) 0 256] == none && s.slotMine 0 0 5 && maskOnes (x.field 16 4) 32 == [0]
        && x.field 24 4 == crc && s.fetchRun s.store x (rdRun (x.field 8 8) 0 256) == image1 && microImageOk image1
        && !(blocks (loadDesc crc) []).slotMine 0 0 5
        && { s with descs := [{ desc0 swapDesc with index := 1, st := .prepared, order := 0 }, x] }.swapPending x 5) = true := by
  decide +kernel

theorem test_hyp_table_swap :
    let y := desc0 swapDesc
    let s := slotted true (running0 swapDesc)
    let p : State := { s with descs := [{ y with st := .prepared }] }
    let late : State := { s with descs := [{ desc0 [(0, 1, 3)] with index := 1, order := 0 }, { y with st := .prepared }] }
    s.running? d0 [0x59] = some y ∧ maskOnes (y.field 8 8) 64 = [5] ∧ maskOnes (y.field 16 4) 32 = [0] ∧ s.slotReady y 5 0 = true ∧ s.loadPending y = false
      ∧ ({ s with descs := [{ desc0 (loadDesc 0) with index := 1, order := 0 }, y] } : State).loadPending y = true
      ∧ (slotted false (running0 swapDesc)).slotReady y 5 0 = false
      ∧ p.desc? d0 = some { y with st := .prepared } ∧ y.opcode = 0x59 ∧ p.serving = true ∧ p.flipsDue { y with st := .prepared } = [0]
      ∧ (0 + ([0].map (2 ^ ·)).sum : Nat).testBit 0 = true ∧ late.flipsDue { y with st := .prepared } = [] ∧ y.prog.testBit 0 = false
      ∧ ((s.core 0).seedTab 0x10).recovery = true ∧ (s.core 0).ctx = none ∧ ({ s.core 0 with ctx := some 0 } : Core).ctx ≠ none := by
  decide +kernel

/-- Chapter 9's emission: a stop token is emitted and ends it; the limit ends it without one. -/
theorem test_emission : emit [7] 4 [5, 7, 9] = ([(5, false), (7, true)], some 0) ∧ accepted [1, 2, 3] [1, 2, 4] = 2 := by decide +kernel

/-- A kernel list of one SFU_MAP, the record of a model that runs it, and a loop block without a draft model. -/
def klist1 : List Byte := 6 :: List.replicate 127 0
/-- The record without its check. -/
def recordBody : List Byte :=
  fill 60 [(0, 8, ref 0 0x400), (8, 8, ref 0 0x8000), (16, 4, 2), (20, 4, 64), (24, 4, 1), (30, 2, 1), (36, 4, 64), (40, 4, 128),
    (44, 4, 192), (48, 4, 256), (52, 4, 320), (56, 4, 512)]
/-- The loop block, without a draft model and with that model as its draft model. -/
def loopBlock (drafts : Bool) : List Byte :=
  fill 128 ([(0, 8, ref 0 0x100), (16, 8, ref 0 0x2000), (24, 8, ref 0 0x4000), (32, 8, ref 1 0), (48, 8, ref 0 0x80), (59, 1, 1),
    (60, 1, 6), (61, 1, 6), (64, 4, 1), (68, 4, 64)] ++ if drafts then [(8, 8, ref 0 0x100), (40, 8, ref 1 0x1000), (58, 1, 1)] else [])

/-- A LOOP descriptor. -/
def loopDesc : List (Nat × Nat × Nat) := [(0, 1, 0x50), (8, 8, ref 0 0)]

/-- An engine whose partition owns both ranges, with those blocks and a check of the record. -/
def loopState (crc : Nat) (drafts : Bool := false) : State :=
  { blocks loopDesc [(0, loopBlock drafts), (0x100, recordBody ++ natLe 4 crc), (0x400, klist1)] with
    parts := [(0, { PartCfg.reset with enable := true, admin := true, hCntM1 := 15 })],
    ranges := [(0, wide 0x100000 0), (1, wide 0x100000 2)] }

/-- Whether a loop's work goes on. -/
def goesOn {α : Type} : LoopM α → Bool
  | .ok _ => true
  | .error _ => false

theorem test_record_crc : crc32c ((recordBody ++ natLe 4 2080948042 ++ List.replicate 64 0).take 60 ++ klist1) = 2080948042 := by
  have h1 : recordBody.foldl (crcFeed crc32cParams) crc32cParams.init = 3578340689 := by decide +kernel
  have h2 : (klist1.take 64).foldl (crcFeed crc32cParams) 3578340689 = 2482196533 := by decide +kernel
  have h3 : crcFinal crc32cParams ((klist1.drop 64).foldl (crcFeed crc32cParams) 2482196533) = 2080948042 := by decide +kernel
  have h4 : (recordBody ++ natLe 4 2080948042 ++ List.replicate 64 0).take 60 ++ klist1 = (recordBody ++ klist1.take 64) ++ klist1.drop 64 := by
    decide +kernel
  unfold crc32c crcOf
  rw [h4, List.foldl_append, List.foldl_append, h1, h2, h3]

/-- The loop that such a start leaves. -/
def loop1 : LoopSt :=
  { LoopSt.reset with
    live := true, d := d0, block := loopBlock false, mrec := recordBody ++ natLe 4 2080948042 ++ List.replicate 64 0,
    klist := klist1 ++ List.replicate 128 0,
    desc := { desc0 loopDesc with trans := [transOf 1 (wide 0x100000 2), transOf 0 (wide 0x100000 0)] } }

/-- A step that succeeds goes on with its result. -/
theorem ok_bind {α β : Type} (a : α) (f : α → LoopM β) : ((Except.ok a : LoopM α) >>= f) = f a := rfl

/-- A model's record read, its steps named one by one. -/
theorem readModel_eq {s : State} {x y : Desc} {ref area maxSeq nd : Nat} {bs kl : List Byte} {r : Desc × List Byte × List (List Byte)}
    (h1 : s.get x ref 0 128 = .ok bs) (h2 : loopNeeds ((modelRec bs).fieldsOk bs maxSeq nd) = .ok ())
    (h3 : s.loopRefs x (modelRec bs).refs = .ok y) (h4 : s.get y (modelRec bs).klist 0 (128 * (modelRec bs).nkern) = .ok kl)
    (h5 : loopNeeds ((modelRec bs).mcrc == crc32c (bs.take 60 ++ kl)) = .ok ())
    (h6 : ((pieces 128 kl).foldlM (fun (acc : Desc × List (List Byte)) e => do
          let x ← s.imageRefs acc.1 (e.take 64)
          let blk ← if byteOf e 0 = 0x01 then s.get x (fieldOf e 8 8) 0 128 else .ok (natLe 128 0)
          loopNeeds (kernelEntOk e blk ((modelRec bs).nlayerM1 + 1))
          return (x, acc.2 ++ [e ++ blk])) (y, []) : LoopM (Desc × List (List Byte))) = .ok (r.1, r.2.2))
    (h7 : r.2.1 = bs)
    (h8 : (match r.1.transAt (refHandle area) with
        | none => loopBad
        | some t => loopNeeds (t.tier == 2 && t.rd && t.wr && t.covers (refOffset area) (modelRec bs).stepSz)) = .ok ()) :
    s.readModel x ref area maxSeq nd = .ok r := by
  subst h7
  unfold State.readModel
  simp only [ok_bind] at h6
  simp only [h1, h2, h3, h4, h5, h6, ok_bind]
  generalize r.1.transAt (refHandle area) = o at h8 ⊢
  cases o with
  | none => cases h8
  | some t =>
    simp only at h8
    simp only [h8, ok_bind]
    rfl

/-- The one entry of the kernel list, as reading the record leaves it. -/
def loopEnts : List (List Byte) := [klist1 ++ List.replicate 128 0]

/-- The record read for a model with `nd` drafts whose step area is `area`. -/
theorem readModel_good (drafts : Bool) (area nd : Nat) (h : (area, nd) ∈ [(ref 1 0, 0), (ref 1 0, 1), (ref 1 0x1000, 0)]) :
    (loopState 2080948042 drafts).readModel loop1.desc (ref 0 0x100) area 1 nd = .ok (loop1.desc, loop1.mrec, loopEnts) := by
  refine readModel_eq (y := loop1.desc) (bs := loop1.mrec) (kl := klist1) ?_ ?_ ?_ ?_ ?_ ?_ rfl ?_
  · cases drafts <;> decide +kernel
  · simp only [List.mem_cons, Prod.mk.injEq, List.not_mem_nil, or_false] at h
    rcases h with ⟨rfl, rfl⟩ | ⟨rfl, rfl⟩ | ⟨rfl, rfl⟩ <;> decide +kernel
  · cases drafts <;> decide +kernel
  · cases drafts <;> decide +kernel
  · rw [show loop1.mrec = recordBody ++ natLe 4 2080948042 ++ List.replicate 64 0 from rfl, test_record_crc]
    decide +kernel
  · cases drafts <;> decide +kernel
  · simp only [List.mem_cons, Prod.mk.injEq, List.not_mem_nil, or_false] at h
    rcases h with ⟨rfl, rfl⟩ | ⟨rfl, rfl⟩ | ⟨rfl, rfl⟩ <;> cases drafts <;> decide +kernel

/-- The engine on which a loop starts, without a draft model and with one; and with a block of zeros. -/
theorem test_hyp_loop_start :
    (∀ drafts : Bool,
      let s := loopState 2080948042 drafts
      let x := desc0 loopDesc
      let b := loopBlk (loopBlock drafts)
      let u := s.setModel 0 { used := true, part := 0, record := loop1.mrec, klist := klist1 }
      s.running? d0 [0x50] = some x ∧ s.partLoops 0 = 0 ∧ s.firstBad x [rdRun (x.field 8 8) 0 128] = none
        ∧ s.fetchRun s.store x (rdRun (x.field 8 8) 0 128) = loopBlock drafts ∧ b.ok (loopBlock drafts) = true ∧ b.drafts = drafts
        ∧ s.loopRefs x b.refs = .ok loop1.desc ∧ s.readModel loop1.desc b.mrec b.step b.maxSeq b.nd = .ok (loop1.desc, loop1.mrec, loopEnts)
        ∧ (drafts = true → s.readModel loop1.desc b.drec b.dstep b.maxSeq 0 = .ok (loop1.desc, loop1.mrec, loopEnts) ∧ b.dslot = b.mslot)
        ∧ s.install 0 b.mslot loop1.mrec (loopEnts.flatMap (List.take 128)) = .ok u
        ∧ (drafts = true → u.install 0 b.dslot loop1.mrec (loopEnts.flatMap (List.take 128)) = .ok u)
        ∧ u.firstBad loop1.desc [rdRun b.req 64 4] = none ∧ u.firstBad loop1.desc [rdRun b.tok 0 4] = none)
      ∧ (loopBlk (natLe 128 0)).ok (natLe 128 0) = false := by
  refine ⟨fun drafts => ?_, by decide +kernel⟩
  refine ⟨?_, ?_, ?_, ?_, ?_, ?_, ?_, ?_, ?_, ?_, ?_, ?_, ?_⟩
  case refine_8 => cases drafts <;> exact readModel_good _ _ _ (by decide +kernel)
  case refine_9 =>
    intro h
    subst h
    exact ⟨readModel_good _ _ _ (by decide +kernel), by decide +kernel⟩
  all_goals (cases drafts <;> decide +kernel)

/-- An engine that runs it as loop 0. -/
def looping (l : LoopSt) : State := { loopState 2080948042 with descs := [], loops := [(0, l)] }

/-- A sequence of a loop. -/
def loopSeq1 : LoopSeq :=
  { tag := 1, seq := 0, draft := none, prompt := [], done := 0, maxNew := 1, seed := 0, temp := 0, topk := 0, topp := 0, last := 0,
    emitted := 0, catchUp := none }

/-- A loop whose token ring is full. -/
def loopFull (aborting : Bool) : LoopSt := { loop1 with seqs := [loopSeq1], tokProd := 64, aborting := aborting }

/-- No request taken. -/
def noIntake : Intake := { taken := 0, joins := [], ends := [], cancels := [], lastCancel := 0 }

/-- A step's stages before admission: the requests' count, their intake and the room. -/
def loopIntake (u : State) : Bool :=
  let l := u.loopAt 0
  u.reqProd l == .ok 0 && u.takeReqs l (min (2 ^ l.blk.lreq) (0#32 - l.reqCons).toNat) noIntake == .ok noIntake

theorem test_hyp_loop_step :
    let s := looping loop1
    let u := (s.takeTurn 0).kernelBoundary 0 true
    let full := looping (loopFull false)
    let v := (full.takeTurn 0).kernelBoundary 0 true
    s.loopLive 0 = true ∧ loop1.aborting = false ∧ loop1.idle = false ∧ s.loopReady loop1 = true
      ∧ u.loopAt 0 = loop1 ∧ loopIntake u = true ∧ u.tokRoom loop1 = .ok 64 ∧ u.admitWaits loop1 noIntake = false
      ∧ (u.loopAdmit loop1 noIntake).adm.bad = [] ∧ goesOn (u.planStep loop1 1 0) = true ∧ goesOn (u.stepLoop 0) = true ∧ full.loopLive 0 = true ∧ v.loopAt 0 = loopFull false ∧ loopIntake v = true
      ∧ v.tokRoom (loopFull false) = .ok 0 ∧ goesOn (v.planStep (loopFull false) 1 0) = false := by decide +kernel

theorem test_hyp_loop_abort :
    let a := looping { loop1 with aborting := true }
    let full := looping (loopFull true)
    a.loopLive 0 = true ∧ (a.loopAt 0).inStep = false ∧ a.tokRoom (a.loopAt 0) = .ok 64
      ∧ goesOn (a.endAllSeqs 0 (a.loopAt 0) 4 0x01) = true ∧ full.loopLive 0 = true ∧ full.tokRoom (full.loopAt 0) = .ok 0
      ∧ (full.loopAt 0).seqs.length = 1 := by decide +kernel

theorem test_hyp_loop_resume_and_limit :
    let s := looping { loop1 with idle := true }
    let full : State := { loopState 0 with loops := (upTo 4).map (fun i => (i, loop1)) }
    let r := rdRun (s.loopAt 0).blk.req 0 4
    s.loopLive 0 = true ∧ (s.loopAt 0).idle = true ∧ s.watchOut 64 .rd = none
      ∧ ({ s with ports := watchReq .rd 1 3072 64 } : State).watchOut 64 .rd = some (1, 3072) ∧ s.firstBad (s.loopAt 0).desc [r] = none
      ∧ BitVec.ofNat 32 (leNat (s.fetchRun s.store (s.loopAt 0).desc r)) = loop1.reqCons
      ∧ BitVec.ofNat 32 (leNat (s.fetchRun s.store (s.loopAt 0).desc r)) ≠ ({ loop1 with reqCons := 1 } : LoopSt).reqCons
      ∧ full.running? d0 [0x50] = some (desc0 loopDesc) ∧ 4 ≤ full.partLoops 0 := by decide +kernel

/-- A request ring of a JOIN, which finds no page, and behind it a CANCEL of the active sequence. -/
def cancelBehind : State :=
  let l : LoopSt := { loop1 with block := fill 128 ((List.range 128).map (fun i => (i, 1, byteOf (loopBlock false) i)) ++ [(64, 4, 2)]),
                                 seqs := [loopSeq1] }
  let join := fill 64 [(4, 4, 2), (8, 8, ref 0 0x6000), (16, 4, 1), (20, 4, 1), (40, 4, 0x3F800000)]
  let cancel := fill 64 [(0, 1, 1), (4, 4, 1)]
  { looping l with mem := (placed 0x102000 (natLe 4 2) ++ placed 0x102080 join ++ placed 0x1020C0 cancel).filter (fun p => p.2 != 0),
                   pools := [(0, { Pool.reset with live := true, fmt := 3, npages := 1, nidx := 2, fresh := 1, ifresh := 2, refs := [(0, 1)] })],
                   seqs := [(0, { Seq.reset with st := .live, depth := 1, len := 1, admLen := 1, pages := [[{ pool := 0, page := 0 }]],
                                                 iblocks := [0, 1] })],
                   seqTab := some (0, 0x400000), seqTabUsed := true, seqCache := [0] }

theorem test_hyp_loop_cancel_behind :
    let s := cancelBehind
    let l := s.loopAt 0
    let i := s.takeReqs l 2 noIntake
    goesOn i = true ∧ (∀ j ∈ i.toOption, (consumed j (s.loopAdmit l j)).1 < j.lastCancel ∧ (consumed j (s.loopAdmit l j)).1 + 1 < 2
      ∧ s.admitWaits l j = false ∧ (s.loopAdmit l j).adm.bad = []
      ∧ (l.blk.nd + 2) * (l.seqs.length + j.joins.length) + j.ends.length ≤ 64) ∧ s.tokRoom l = .ok 64 := by decide +kernel

/-! ### Kernels by steps -/

/-- A step word of an opcode with its operand bits, on core 0 of its cluster. -/
def word (op arg : Nat) : BitVec 128 := BitVec.ofNat 128 (op + (if op < 5 ∧ 0 < op then 0 else 256) + 2 ^ 38 * arg)

/-- A step without strides, its reads clean. -/
def stepOf (w : BitVec 128) : Step :=
  { word := w, stride := 0, i := 0, l0 := 0, l1 := 0, l2 := 0, l3 := 0, qrow := 0, atile := 0, head := 0, key := 0, rowBase := 0, group := 0, ecc := .clean,
    parity := .clean }

/-- Core 0 of a kernel of context 0: its area is banks 0 and 1, bank 0 with those owner codes; the AM is claimed. -/
def coreOf (rd wr : Nat) : Core :=
  { Core.reset with
    ctx := some 0, amClaim := 16, areas := [(0, { Area.reset with used := true, bound := 1024 })],
    banks := [(0, { Bank.reset with rdown := rd, wrown := wr }), (1, { Bank.reset with rdown := 4, wrown := 1 })],
    pairs := [(0, { SemPair.reset with claimed := true, full := 1 })] }

/-- A kernel descriptor: a GEMM of FP16 operands whose contraction has one element. -/
def kdesc : Desc := desc0 (matDesc 3)

/-- Two transfer entries of a row of 16 FP32 elements, in memory and for window 0 of core 1; a program on AM rows and one on OSP rows. -/
def plan1 : Plan :=
  { Kernel.reset.plan with
    progs := [{ op := .map, image := image1, conv := 0, fromOsp := false, first := 0, feeds := false }, { op := .map, image := image1, conv := 0, fromOsp := true, first := 512, feeds := false }],
    xfers := [fill 64 [(4, 4, 16), (8, 4, 1), (12, 4, 1), (16, 8, ref 0 0)], fill 64 [(0, 1, 1), (1, 1, 1), (4, 4, 16), (8, 4, 1), (12, 4, 1)]] }

/-- The table of a HEAD and the given words, its sequencer at word `pc`. -/
def tab (ws : List (BitVec 128)) (pc : Nat) : Piste :=
  { Piste.reset.place (word 4 ws.length :: ws) with checked := true, cur := { pc := pc, frames := [] } }

/-- A kernel of context 0 on core 0 of cluster 0, with that table. -/
def piste (t : Piste) (k : Core) : State :=
  { up with
    descs := [kdesc], ranges := [(0, wide 0x100000 0)], cores := [(0, k)],
    kernels := [(0, { Kernel.reset with live := true, d := d0, plan := plan1, block := matBlock false })], piste := [(0, t)] }

/-- Core 0 about to issue a step: it stands at the head of its queue. -/
def issues (k : Core) (w : BitVec 128) : State :=
  piste (tab [w] 2) { k with queue := [{ word := 1, loops := [0, 0, 0, 0], after := false }] }

theorem test_hyp_steps :
    [0x00, 0x10, 0x12, 0x14, 0x15, 0x20, 0x21, 0x30, 0x31, 0x40, 0x41, 0x42, 0x43, 0x44, 0x45, 0x77].all (fun op =>
      (issues (coreOf 0 0) (word op 0)).issuing 0 (stepOf (word op 0)) == some kdesc && stepOp (word op 0) == op
        && stepReserved (word op 0) 0 && !stepReserved (word op (2 ^ 89)) 61) = true ∧ stepOps.contains 0x77 = false := by decide +kernel

/-- Nothing in the way of a step's start but what the kernel's plan and its block say. -/
def startHyps (s : State) (p : Plan) : Bool :=
  s.running? d0 [1, 2, 3, 4, 5, 6, 7] == some kdesc && !s.planAbsent p && planOk p (s.ctxCores 0) && !s.slotsTaken 0 p && s.startReady kdesc p

theorem test_hyp_kernel_start :
    let c : CorePlan := { core := 0, bankMap := natLe 32 0, banks := 1, amTiles := 0, pairs := [], regions := [], slots := [5], lcore := 0 }
    let p : Plan := { Kernel.reset.plan with cores := [c] }
    let bad : Plan := { p with cores := [{ c with bankMap := natLe 32 7 }] }
    let ss : Plan := { p with ss := [{ ref := ref 0 0, rows := 1, rd := true, wr := true }] }
    let on := fun (s : State) => ({ s with ctxs := [(0, { CtxCfg.reset with enable := true, clusters := 1 })] } : State)
    let s := on (blocks (matDesc 3) [(0, matBlock false)])
    let off : State := { s with mgmt := { s.mgmt with clmask := 0xFE } }
    let w : RWindow := { RWindow.reset with isOpen := true, bound := 1 }
    let shut : State := { s with cores := [(0, { Core.reset with wins := [(0, w)], areas := [(0, { Area.reset with used := true, bound := 512 })] })] }
    let paused : State := { s with kernels := [(0, { Kernel.reset with paused := true, d := d0, plan := p })] }
    off.planAbsent p = true ∧ off.kernelTurn kdesc = true ∧ (off.kernel 0).live = false
      ∧ startHyps s p = true ∧ s.resuming kdesc = false ∧ s.startPlan kdesc p = p ∧ s.blockRefused kdesc = none ∧ s.ssRefused kdesc p = none
      ∧ p.cores.all (s.planFits 0) = true ∧ p.cores.find? (fun c => (s.core c.core).mapClash 0 c) = none
      ∧ startHyps (on badMat) p = true ∧ ((on badMat).blockRefused kdesc).isSome = true
      ∧ startHyps s ss = true ∧ (s.ssRefused kdesc ss).isSome = true
      ∧ startHyps s bad = true ∧ bad.cores.all (s.planFits 0) = false
      ∧ startHyps shut p = true ∧ p.cores.find? (fun c => (shut.core c.core).mapClash 0 c) = some c
      ∧ startHyps paused p = true ∧ paused.resuming kdesc = true := by decide +kernel

theorem test_hyp_kernel_end :
    let k : Kernel := { Kernel.reset with live := true, d := d0, plan := { plan1 with tables := [(0, [])] }, block := matBlock false }
    let s : State := { issues { coreOf 0 0 with endIssued := true } (word 0x13 0) with kernels := [(0, k)] }
    let h : State := { s with kernels := [(0, { k with block := fill 128 [(16, 2, 0x4000)] })] }
    s.serving = true ∧ s.kernelOver 0 = true ∧ s.histBad 0 = none ∧ h.kernelOver 0 = true ∧ (h.histBad 0).isSome = true
      ∧ (issues (coreOf 0 0) (word 0x13 0)).kernelOver 0 = false := by decide +kernel

/-- A HEAD with a check over a table of one TCLR. -/
def headed (crc len : Nat) : State :=
  piste (Piste.reset.place [word 4 (len + 2 ^ 18 * crc), word 0x13 0]) (coreOf 0 0)

theorem test_hyp_piste_head :
    let crc := crc32c (natLe 16 (word 0x13 0).toNat)
    (headed crc 1).pisteDesc 0 0 = some kdesc ∧ ((headed crc 1).pisteAt 0 0).checked = false ∧ ((headed crc 1).pisteAt 0 0).crcOk = true
      ∧ ((headed crc 1).pisteAt 0 0).headOk = true ∧ ((headed 0 1).pisteAt 0 0).crcOk = false ∧ ((headed crc 2).pisteAt 0 0).crcOk = true
      ∧ ((headed crc 2).pisteAt 0 0).headOk = false := by decide +kernel

/-- Five nested LOOP words around one TCLR, and a SKEIN word around it, alone and in a LOOP. -/
def nest : List (BitVec 128) := [word 2 5, word 2 4, word 2 3, word 2 2, word 2 1, word 0x13 0]

theorem test_hyp_piste_words :
    let p := tab nest 1
    let q : Piste := { p with cur := { pc := 5, frames := [(1, 0), (2, 0), (3, 0), (4, 0)] } }
    let r := tab [word 3 1, word 0x13 0] 1
    let t : Piste := { tab [word 2 2, word 3 1, word 0x13 0] 2 with cur := { pc := 2, frames := [(1, 0)] } }
    (piste p (coreOf 0 0)).pisteDesc 0 0 = some kdesc ∧ (piste p (coreOf 0 0)).pisteAt 0 0 = p ∧ p.standsAt (stepOf (word 2 5)) 0x02 = true
      ∧ p.loopOk 1 0 = true ∧ q.standsAt (stepOf (word 2 1)) 0x02 = true ∧ q.loopOk 5 4 = false
      ∧ r.standsAt (stepOf (word 3 1)) 0x03 = true ∧ r.skeinOk 1 = true ∧ t.standsAt (stepOf (word 3 1)) 0x03 = true ∧ t.skeinOk 2 = false := by
  decide +kernel

theorem test_hyp_piste_end :
    let s := issues (coreOf 0 0) (word 1 0)
    s.issuing 0 (stepOf (word 1 0)) = some kdesc ∧ stepOp (word 1 0) = 0x01 ∧ stepReserved (word 1 0) 0 = true := by decide +kernel

/-- A core whose queue is full. -/
def fullQueue : Core := { coreOf 0 0 with queue := (upTo 16).map (fun _ => { word := 1, loops := [0, 0, 0, 0], after := false }) }

theorem test_hyp_sequencer :
    let head := tab [word 0x13 0, word 4 0] 2
    let loop_ := tab nest 1
    let step_ := tab [word 0x13 0] 1
    let s := issues (coreOf 0 0) (word 0x13 0 + BitVec.ofNat 128 (2 ^ 16))
    (piste head (coreOf 0 0)).pisteDesc 0 0 = some kdesc ∧ (piste step_ fullQueue).pisteDesc 0 0 = some kdesc
      ∧ head.act 0 = .stop ∧ loop_.act 0 = .wait ∧ step_.act 0 = .write [0] false
      ∧ ((piste step_ (coreOf 0 0)).core 0).queue.length < 16 ∧ 16 ≤ ((piste step_ fullQueue).core 0).queue.length
      ∧ (s.core 0).ctx = some 0 ∧ (s.core 0).queue.length = 1 ∧ (s.core 0).rep < stepRpt ((s.pisteAt 0 0).word 1)
      ∧ stepRpt (((issues (coreOf 0 0) (word 0x13 0)).pisteAt 0 0).word 1) ≤ 0 := by decide +kernel

/-- A skein's slot. -/
def skein (st : SkeinState) (since pc : Nat) : Skein := { Skein.reset with st := st, since := since, tiles := 1, cur := { pc := pc, frames := [] } }

/-- A region of core 0 with the given slots. -/
def ring0 (ss : List SlotState) : Region := { Region.reset with used := true, slotRows := 1, nslot := 3, slots := ss }

/-- Core 0 in a SKEIN body of the given word and a TCLR, with those skeins and that region. -/
def skeins (expired : Bool) (w : BitVec 128) (r : Region) (ks : List (Nat × Skein)) : State :=
  { piste { tab [word 3 2, w, word 0x13 0] 1 with skein := some 1 } { coreOf 0 0 with skeins := ks, regions := [(0, r)] } with
    ctxs := [(0, { CtxCfg.reset with enable := true, expired := expired })] }

theorem test_hyp_skeins :
    let full := ring0 [.full, .empty, .empty]
    let none_ := ring0 [.empty, .empty, .empty]
    let ks := [(0, skein .unstarted 0 0), (1, skein .ready 7 2), (2, skein .ready 5 2)]
    let s := skeins false (word 0x42 0) full ks
    let b := skeins false (word 0x42 0) none_ ks
    let e := skeins false (word 0x13 0) full ks
    let r := skeins false (word 0x42 0) full [(0, skein .running 0 4), (1, skein .ready 7 2)]
    s.skeinBody 0 = some (0, 1) ∧ (s.core 0).freeTiles 1 = some 1 ∧ ((s.core 0).skein 0).st = .unstarted
      ∧ (s.core 0).skeins.all (fun p => decide (0 ≤ p.1)) = true ∧ (s.ctx 0).expired = false
      ∧ (e.pisteAt 0 0).firstTake 0 1 = none ∧ (s.pisteAt 0 0).firstTake 0 1 = some 0 ∧ (full.toTake (some 0)).isSome = true
      ∧ (b.pisteAt 0 0).firstTake 0 1 = some 0 ∧ (none_.toTake (some 0)).isSome = false
      ∧ (skeins true 0 full []).skeinBody 0 = some (0, 1) ∧ ((skeins true 0 full []).ctx 0).expired = true ∧ (s.core 0).nextSkein = some 2
      ∧ (s.core 0).runningSkein = none ∧ r.skeinBody 0 = some (0, 1) ∧ (r.core 0).runningSkein ≠ none ∧ ((r.core 0).skein 0).st = .running
      ∧ (r.core 0).hold = none ∧ 1 + bodyLen ((r.pisteAt 0 0).word 1) < ((r.pisteAt 0 0).skeinPlace 0 1 ((r.core 0).skein 0)).pc := by
  decide +kernel

/-- Core 0 with a slot taken last from a stationary region of 128 rows. -/
def taking : Core :=
  { coreOf 2 1 with
    regions := [(0, { ring0 [.held, .empty, .empty] with kind := 1, slotRows := 128 })], lastTake := some (0, 0) }

theorem test_hyp_pass :
    let a := issues (coreOf 1 0) (word 0x10 0)
    let f := issues (coreOf 1 0) (word 0x10 (2 ^ 37 + 2 ^ 38 * 512))
    let pl : StepPlace := { cluster := 0, word := 1, role := 0, row := [], group := [1], fed := false }
    let pf : StepPlace := { cluster := 0, word := 1, role := 0, row := [], group := [], fed := true }
    let fed := fun n : Nat => ({ issues { coreOf 1 0 with feed := List.replicate n (List.replicate 256 0) } (word 0x10 0) with
      kernels := [(0, { a.kernel 0 with plan := { plan1 with places := [pf] } })] } : State)
    let past : State := { a with kernels := [(0, { a.kernel 0 with plan := { plan1 with places := [pl] } })] }
    let p := a.passCtl kdesc 0
    let st := stepOf (word 0x10 0)
    let args := a.passArgs 0 st
    a.headRole 0 = 0 ∧ a.headFed 0 = false ∧ (fed 1).headFed 0 = true ∧ (fed 1).issuing 0 st = some kdesc
      ∧ fedPer { depth := 128, strips := 1, vk := 1, vn := 1 } * args.rows = 1 ∧ ((fed 1).core 0).feed.length = 1
      ∧ ((fed 0).core 0).feed.length = 0 ∧ (fed 0).issuing 0 st = some kdesc ∧ geomOf args.shape args.pair (max (widthClass p.wfmt) (widthClass p.sfmt)) = some { depth := 128, strips := 1, vk := 1, vn := 1 }
      ∧ a.passLive kdesc p false { depth := 128, strips := 1, vk := 1, vn := 1 } 0 = 1 ∧ args.fact = false
      ∧ (a.source 0 0 args.src args.wrow (weftRows p 1 args.rows)).1 = .ok ∧ a.poisonedRow 0 (a.source 0 0 args.src args.wrow (weftRows p 1 args.rows)).2.1 = none
      ∧ (a.core 0).tilesOk args.amt 1 = true
      ∧ (f.passArgs 0 (stepOf (word 0x10 (2 ^ 37 + 2 ^ 38 * 512)))).fact = true ∧ f.issuing 0 (stepOf (word 0x10 (2 ^ 37 + 2 ^ 38 * 512))) = some kdesc
      ∧ (f.source 0 0 (.osp 4) 512 1).1 = .ok ∧ f.poisonedRow 0 (f.source 0 0 (.osp 4) 512 1).2.1 = none
      ∧ past.issuing 0 { st with group := 1 } = some kdesc ∧ past.passLive kdesc p false { depth := 128, strips := 1, vk := 1, vn := 1 } 1 = 0 := by
  decide +kernel

theorem test_hyp_array_steps :
    let b := issues (coreOf 3 0) (word 0x15 0)
    let d := issues (coreOf 2 0) (word 0x12 0)
    let g := issues taking (word 0x12 (2 ^ 27 + 2 ^ 26))
    let e := issues { coreOf 0 0 with shdFull := true } (word 0x11 0)
    let t := issues { coreOf 0 0 with amClaim := 0 } (word 0x13 0)
    let p := b.passCtl kdesc 0
    (b.source 0 0 (.osp 3) 0 (blockRows (elemBytes p.sfmt ((b.core 0).mvpK p.wfmt)) 0 1)).1 = .ok ∧ (b.core 0).tilesOk 0 1 = true
      ∧ b.poisonedRow 0 (b.source 0 0 (.osp 3) 0 (blockRows (elemBytes p.sfmt ((b.core 0).mvpK p.wfmt)) 0 1)).2.1 = none ∧ p.sscale = false
      ∧ (d.core 0).shdFull = false ∧ (d.source 0 0 (.osp 2) 0 (lineBytes p.sfmt / 4)).1 = .ok
      ∧ d.poisonedRow 0 ((d.source 0 0 (.osp 2) 0 (lineBytes p.sfmt / 4)).2.1 ++ []) = none
      ∧ g.issuing 0 (stepOf (word 0x12 (2 ^ 27 + 2 ^ 26))) = some kdesc ∧ (g.core 0).takenRow 0 = some 0
      ∧ (g.source 0 0 (.osp 2) 0 (lineBytes p.sfmt / 4)).1 = .ok ∧ (g.source 0 0 (.osp 2) 0 (ceilDiv (tileScales p.sfmt) 512)).1 = .ok
      ∧ e.issuing 0 (stepOf (word 0x11 0)) = some kdesc ∧ (e.core 0).shdFull = true ∧ (d.core 0).tilesOk 0 1 = true
      ∧ t.issuing 0 (stepOf (word 0x13 0)) = some kdesc ∧ (t.core 0).tilesOk 0 1 = false := by decide +kernel

theorem test_hyp_vector_steps :
    let a := issues (coreOf 3 0) (word 0x14 0)
    let b := issues (coreOf 0 2) (word 0x20 0)
    let o := issues (coreOf 0 2) (word 0x20 (2 ^ 17))
    let p := a.passCtl kdesc 0
    (a.source 0 0 (.osp 3) 0 (weftRows p 32 1)).1 = .ok ∧ a.poisonedRow 0 (a.source 0 0 (.osp 3) 0 (weftRows p 32 1)).2.1 = none
      ∧ plan1.progs[0]? = some { op := .map, image := image1, conv := 0, fromOsp := false, first := 0, feeds := false }
      ∧ ((b.core 0).relRows 0 true 2 0 (blockRows (elemBytes 0 128) 0 1)).1 = .ok ∧ (b.core 0).tilesOk 0 1 = true
      ∧ o.issuing 0 (stepOf (word 0x20 (2 ^ 17))) = some kdesc ∧ plan1.progs[1]? = some { op := .map, image := image1, conv := 0, fromOsp := true, first := 512, feeds := false }
      ∧ (o.source 0 0 (.osp 4) 512 (blockRows (elemBytes 0 128) 0 1)).1 = .ok
      ∧ o.poisonedRow 0 (o.source 0 0 (.osp 4) 512 (blockRows (elemBytes 0 128) 0 1)).2.1 = none := by decide +kernel

theorem test_hyp_epilogue_steps :
    let d := issues (coreOf 0 2) (word 0x21 0)
    let xb := plan1.xfers.headD []
    let e := xferOf xb
    let w : SsWindow := { SsWindow.reset with isOpen := true, rd := true, wr := true, base := 7, bound := 1, cores := 1 }
    let ss : State := { issues (coreOf 0 0) (word 0x21 (2 ^ 22)) with
      ssWins := [(0, w)], kernels := [(0, { d.kernel 0 with ssWins := [0] })] }
    let m := issues (coreOf 0 0) (word 0x21 (2 ^ 23))
    let b : State := { m with kernels := [(0, { m.kernel 0 with block := fill 128 [(0, 4, 1), (4, 4, 1), (8, 4, 1), (12, 2, 0x11), (14, 2, 0x11),
      (20, 1, 4)] })] }
    plan1.xfers[0]? = some xb ∧ e.epiOk xb false = true ∧ e.epiOk xb true = true ∧ (d.core 0).streaming = false
      ∧ (d.kernelEpi kdesc).biasv = false ∧ (d.kernelEpi kdesc).scalev = false
      ∧ ((d.core 0).relRows 0 true 2 0 (blockSpan e e.ny)).1 = .ok ∧ (d.core 0).tilesOk 0 1 = true ∧ d.firstBad kdesc [] = none
      ∧ ss.issuing 0 (stepOf (word 0x21 (2 ^ 22))) = some kdesc ∧ ss.ssRows 0 0 (ss.kernelSsWin 0 0) true 0 (blockSpan e e.ny) = some 7
      ∧ m.issuing 0 (stepOf (word 0x21 (2 ^ 23))) = some kdesc ∧ m.toBolts kdesc = false
      ∧ m.badRow kdesc (e.rowRuns 0) (e.ny - 0) 0 = none ∧ (m.core 0).movedRows = 0
      ∧ b.toBolts kdesc = true ∧ b.issuing 0 (stepOf (word 0x21 (2 ^ 23))) = some kdesc ∧ b.badBoltRow (stepOf (word 0x21 (2 ^ 23))) kdesc e 0 = none := by
  decide +kernel

theorem test_hyp_accumulator_rows : (List.replicate 128 5).length = 128 ∧ (∀ v ∈ List.replicate 128 5, v < 2 ^ 32) ∧ tableWf blankByte [] = true
    ∧ ((0, 127) : Nat × Nat) ≠ (1, 127) := by decide +kernel

theorem test_hyp_synchronisation :
    let own := ring0 [.full, .held, .empty]
    let k : Core := { coreOf 6 3 with regions := [(0, own)], wins := [(0, { RWindow.reset with isOpen := true, ctx := 1 })] }
    let s := issues k (word 0x42 0)
    let sk := skeins false (word 0x42 0) (ring0 [.empty, .empty, .empty]) [(0, skein .running 0 2)]
    let marked : Core := { k with pairs := [(0, { SemPair.reset with claimed := true, marked := true })] }
    (k.pair 0).claimed = true ∧ (k.pair 0).marked = false ∧ stepArg (word 0x40 0) 7 16 ≤ (k.pair 0).get (stepArg (word 0x40 0) 6 1 == 1)
      ∧ (k.pair 0).get false < stepArg (word 0x40 (2 ^ 8)) 7 16 ∧ (marked.pair 0).claimed = true ∧ (marked.pair 0).marked = true
      ∧ (s.core 0).ctx = some 0 ∧ ((s.core 0).pair 63).claimed = false ∧ k.ownRegion 0 0 = some own ∧ k.ownRegion 0 7 = none
      ∧ own.toTake none = some 0 ∧ (s.core 0).actingSkein = none ∧ (ring0 [.held, .empty, .empty]).toTake none = none
      ∧ sk.issuing 0 (stepOf (word 0x42 0)) = some kdesc ∧ (sk.core 0).actingSkein = some 0 ∧ ((sk.core 0).ownRegion 0 0).isSome = true
      ∧ (ring0 [.empty, .empty, .empty]).toTake (some 0) = none ∧ own.oldest .held = some 1 ∧ (ring0 [.full, .empty, .empty]).oldest .held = none
      ∧ k.openOk 0 0 1 false = true ∧ k.openOk 0 511 1 true = true ∧ k.openOk 0 511 2 true = false ∧ ((coreOf 6 3).rwin 0).isOpen = false
      ∧ ((coreOf 6 3).rwin 0).gen ≠ 0xFFFF ∧ (k.rwin 0).isOpen = true ∧ (k.rwin 0).ctx ≠ 0 := by
  decide +kernel

theorem test_hyp_post_arrives :
    let p : Post := { src := 0, core := 0, pair := 0, isEmpty := false, amount := 2 ^ 16, ctx := 0, sent := 1 }
    let k : Core := { coreOf 0 0 with inPosts := [p] }
    let full : Core := { k with pairs := [(0, { SemPair.reset with claimed := true, full := 2 ^ 32 - 2 ^ 16 })] }
    (issues k 0).serving = true ∧ ((issues k 0).core 0).inPosts = [p] ∧ (issues k 0).loomFirst 0 0 1 = true
      ∧ ({ issues k 0 with loom := [{ src := 3, ctx := 0, target := 2, win := 0, gen := 0, offset := 0, rows := [], counted := none, sent := 0 }] }
          : State).loomFirst 0 0 1 = false ∧ (k.pair 0).get false + p.amount < 2 ^ 32
      ∧ (full.pair 0).claimed = true ∧ (full.pair 0).get false + p.amount = 2 ^ 32 ∧ ({ k with pairs := [] }.pair 0).claimed = false := by
  decide +kernel

theorem test_hyp_cluster_dma_in :
    let bs := plan1.xfers.headD []
    let e := xferOf bs
    let st := stepOf (word 0x30 0)
    let i := issues (coreOf 0 1) (word 0x30 0)
    let k := i.core 0
    let lay := e.layBytes (i.halfLine 0 kdesc st e)
    let busy : Core := { coreOf 0 1 with streams := [{ step := { st with i := 1 }, skein := none, row := 0, rows := [], moved := 0 }] }
    plan1.xfers[0]? = some bs ∧ i.issuing 0 st = some kdesc ∧ i.parked 0 st = none ∧ e.stepOk bs false = true ∧ k.entryBusy 0 = false
      ∧ k.inDest 0 st 1 = (.ok, k, 0) ∧ issueRows lay.1 lay.2 1 1 = 1
      ∧ i.badRow kdesc (fun j => e.inRuns (0 + j)) 1 0 = none
      ∧ i.poisonedRow 0 (((upTo 1).flatMap (fun j => e.inRuns (0 + j))).flatMap (i.runReads kdesc)) = none
      ∧ busy.entryBusy 0 = true ∧ (issues busy (word 0x30 0)).parked 0 st = none ∧ stepArg (word 0x30 0) 35 1 ≠ 1 := by
  decide +kernel

/-- Core 1 with window 0 open to core 0, beside core 0 about to issue the DMAOUT of entry 1. -/
def outs : State :=
  let s := issues (coreOf 5 0) (word 0x31 (2 ^ 13))
  { s with cores := s.cores ++ [(1, { coreOf 6 3 with wins := [(0, { RWindow.reset with isOpen := true, rd := true, bound := 2, wmask := 1 })] })] }

theorem test_hyp_cluster_dma_out :
    let e := xferOf (plan1.xfers.headD [])
    let f := xferOf (plan1.xfers.getD 1 [])
    let o := issues (coreOf 5 0) (word 0x31 0)
    let b := outs.outBlocks kdesc f 0 [] (f.outSource ((outs.core 0).rows 0 1) 1)
    e.stepOk (plan1.xfers.headD []) true = true ∧ o.issuing 0 (stepOf (word 0x31 0)) = some kdesc ∧ (o.core 0).relRows 0 false 5 0 1 = (.ok, 0)
      ∧ e.kind ≠ 1 ∧ o.badRow kdesc (fun j => e.outRuns [Xfer.place e.ny (0 + j)]) 1 0 = none
      ∧ o.poisonedRow 0 ((upTo 1).map (fun j => ReadAt.osp (0 + j))) = none
      ∧ f.stepOk (plan1.xfers.getD 1 []) true = true ∧ f.kind = 1 ∧ f.word.dscale ≠ 2 ∧ outs.issuing 0 (stepOf (word 0x31 (2 ^ 13))) = some kdesc
      ∧ b.1.length = 1 ∧ b.1.all (outs.blockStarts 0 f) = true
      ∧ (issues { coreOf 0 0 with hold := some (.semw, stepOf 0) } 0).serving = true
      ∧ ((issues { coreOf 0 0 with hold := some (.semw, stepOf 0) } 0).core 0).hold.isSome = true
      ∧ (issues { coreOf 0 0 with hold := some (.semw, stepOf 0) } 0).faults = [] := by decide +kernel

/-- The tiles of R344's two worked examples: FULL NPAIR at M = 4,096, K = 96, N = 640, and WIDE KPAIR at 256, 64, 1,536. -/
theorem test_tiles_of_the_examples :
    (bestTile (candidates 4096 640 96 8 false 0)).map Prod.fst = some (.pass 0 2 false)
      ∧ (bestTile (candidates 256 1536 64 8 false 0)).map Prod.fst = some (.pass 1 1 false) := by decide +kernel

/-! ### Ports, windows, the Sequence Store, turns and teardowns -/

/-- Port 4 up with credits (0x100000 lies on port 4), and a partition with tokens: core 0 runs a kernel of context 0. -/
def ported (req wdat tokens : Nat) (isWrite : Bool) : State :=
  { issues (if isWrite then coreOf 5 0 else coreOf 0 1) 0 with
    parts := [(0, { PartCfg.reset with enable := true, rate := 2, burst := 3, tokens := tokens })],
    ports := [(4, { FPort.reset with up := true, req := req, wdat := wdat })] }

theorem test_hyp_credits :
    (ported 1 1 2 false).mgmt.power = .on ∧ (FPort.reset).up = false ∧ ((ported 1 1 2 false).fport 4).up = true
      ∧ ((ported 1 1 2 false).part 0).enable = true ∧ ((ported 1 1 2 false).part 0).rate ≠ 0
      ∧ min 3 (2 + 2) = 3 := by decide +kernel

/-- A read of eight units by core 0, and a write of them. -/
def req8 (isWrite : Bool) : DmaRequest := { req0 with units := 8, isWrite := isWrite, enables := 255 }

/-- Whether a request at the head of its queue goes. -/
def headGoes (h : DmaHead) : Nat := match h with
  | .gone _ => 1
  | .stays _ => 2
  | .waits => 0

theorem test_hyp_requests :
    let r := req8 false
    let w := req8 true
    let s := ported 1 1 8
    (s false).requestDesc r = some kdesc ∧ (s true).requestDesc w = some kdesc ∧ (s false).requestAcc kdesc r = .ok 0 0x100000
      ∧ (s true).requestAcc kdesc w = .ok 0 0x100000 ∧ portOf 0x100000 = 4 ∧ (s false).rawFill kdesc r = true
      ∧ splitRequest r = some [r] ∧ (s false).streamWaits kdesc r = false ∧ (s false).dmaQ = []
      ∧ splitRequest { r with offset := 0xE00, units := 16 } = some [{ r with offset := 0xE00 }, { r with offset := 0x1000, row := 1, enables := 0 }]
      ∧ requestBeats w ≤ 1 ∧ r.units ≤ ((s false).part 0).tokens
      ∧ (s false).requestRows kdesc r = .ok ∧ (s true).requestRows kdesc w = .ok ∧ ((s false).fport 4).newTags false (requestBeats r) = some 0
      ∧ ((s true).fport 4).newTags true (requestBeats w) = some 2048 ∧ ((s false).core 0).fillSlot 0 r = some ((s false).core 0)
      ∧ ((ported 0 1 8 false).fport 4).req = 0 ∧ ((ported 1 0 8 true).fport 4).wdat < requestBeats w ∧ ((ported 1 1 7 false).part 0).tokens < r.units
      ∧ (s true).poisonedRow 0 ((upTo (requestBeats w)).map (fun i => ReadAt.osp (w.row + i))) = none ∧ (s false).part 0 ≠ PartCfg.reset
      ∧ headGoes (({ s false with dmaQ := [r] } : State).tryHead r) = 1 ∧ headGoes ((ported 0 1 8 false).tryHead r) = 0 := by
  decide +kernel

/-- Handle 0 away, with its entry still VALID or RETIRING; and a request whose rows lie outside the area. -/
theorem test_hyp_requests_that_stop :
    let s := ported 1 1 8 false
    let r := req8 false
    let away := fun (st : RangeState) => ({ s with ranges := [(0, { wide 0x100000 0 with res := false, st := st })] } : State)
    let f : PFault := { id := none, core := some 0, part := 0, handle := 0, gen := 0, reason := 0, isWrite := false, offset := 0, ctx := 0,
                        tag := 0, d := some d0 }
    (away .valid).requestAcc kdesc r = .halt ∧ (away .retiring).requestAcc kdesc r = .stale
      ∧ ({ s with faults := [f] } : State).streamWaits kdesc r = true
      ∧ s.requestRows kdesc { r with row := 1024 } = .fault 0x20 ∧ s.requestRows kdesc { r with row := 512 } = .ok := by decide +kernel

/-- A small write behind its FENCE that may go at once. -/
theorem test_hyp_small_write :
    let r : SmallReq := { port := 4, op := .wr, addr := 0x100000, data := [1, 2, 3, 4], fenced := true, d := none, watch := none }
    let s : State := { up with ports := [(4, { FPort.reset with up := true, req := 2, wdat := 1 })] }
    s.smalls = [] ∧ s.mgmt.fatal = false ∧ s.bobsUsed < 64 ∧ s.bobTag = some 3072 ∧ (s.fport 4).fenceTag = some 3840 ∧ (s.fport 4).up = true
      ∧ 2 ≤ (s.fport 4).req ∧ (smallOut r).beats ≤ (s.fport 4).wdat := by decide +kernel

/-- An outstanding request of descriptor 0 at that port. -/
def out (isWrite : Bool) (error : Nat) (timedOut : Bool) : Out :=
  { op := if isWrite then .wr else .rd, addr := 0x100000, units := 1, d := some d0, handle := some 0, core := 0, row := 0, region := none,
    error := error, timedOut := timedOut, unsent := false, seq := 1, watch := none, enables := 1, data := List.replicate 64 1 }

/-- The engine with it under tag 5 and tag 6 quarantined; and a FENCE beside it, sent before it or after it, under tag 3840. -/
def sent (o : Out) : State :=
  { ported 1 1 8 false with ports := [(4, { FPort.reset with up := true, outs := [(5, some o)], quarTags := [(6, 0)] })] }
/-- The FENCE beside it. -/
def fencedPort (o : Out) (seq : Nat) : State :=
  { ported 1 1 8 false with ports := [(4, { FPort.reset with up := true, outs := [(5, some o), (3840, some { fenceOut with seq := seq })] })] }

theorem test_hyp_responses :
    [(false, 0, false), (true, 0, false), (false, 1, false), (false, 2, false), (true, 2, false), (false, 1, true), (true, 0, true)].all (fun p =>
      let o := out p.1 p.2.1 p.2.2
      ((sent o).fport 4).answers 5 == some o && (sent o).outDesc o == some kdesc
        && (sent o).retryTag 4 5 o == some (if p.1 then 2048 else 0)) = true
      ∧ ((sent (out false 0 false)).fport 4).out 6 = none
      ∧ ((fencedPort (out false 0 false) 0).fport 4).out 5 = some (out false 0 false)
      ∧ ((fencedPort (out false 0 false) 0).fport 4).answers 5 = none
      ∧ ((fencedPort (out false 0 false) 0).fport 4).drained { fenceOut with seq := 0 } = true
      ∧ ((fencedPort (out false 0 false) 2).fport 4).drained { fenceOut with seq := 2 } = false := by decide +kernel

/-- The bank of an arriving beat, and the slot that it falls in. -/
theorem test_hyp_beats :
    let o := out false 0 false
    let at_ := fun (st : BankState) => (({ sent o with cores := [(0, { coreOf 0 1 with
      banks := [(0, { Bank.reset with st := st })] })] } : State).core 0).bankMeet ((sent o).outCtx o) 0 1
    let full : Core := { coreOf 0 1 with regions := [(0, ring0 [.full, .empty, .empty])] }
    [at_ .on, at_ .wake, at_ .off] = [.ready, .held, .dark] ∧ (((sent o).dropOut 4 5 o).core 0).ctx = some ((sent o).outCtx o)
      ∧ ((sent o).core 0).countRow 0 = some ((sent o).core 0) ∧ full.countRow 0 = none := by decide +kernel

/-- A write of one row of core 0 on its way to window 0 of core 1. -/
def onLoom (gen : BitVec 16) (counted : Option Nat) : LoomWrite :=
  { src := 0, ctx := 0, target := 1, win := 0, gen := gen, offset := 0, rows := List.replicate 512 0, counted := counted, sent := 1 }

/-- Core 1 with window 0 open to core 0 for the last two rows of its bank 0, core 0 with a kernel of the same context, and writes in flight. -/
def windowed (st : BankState) (ws : List LoomWrite) : State :=
  { issues (coreOf 0 0) 0 with
    loom := ws,
    cores := [(0, { Core.reset with ctx := some 0, loomDue := [1] }),
      (1, { coreOf 6 3 with
        banks := [(0, { Bank.reset with st := st, rdown := 6, wrown := 3 })],
        wins := [(0, { RWindow.reset with isOpen := true, rd := true, base := 510, bound := 2, wmask := 1 })] })] }

theorem test_hyp_remote :
    (windowed .on []).serving = true ∧ (windowed .on []).remoteRow acc0 false 1 = some 510
      ∧ [BankState.on, .wake, .clearing, .off, .isolating].map (fun st => ((windowed st []).core 1).bankMeet (((windowed st []).core 1).rwin 0).ctx 510 1)
          = [.ready, .held, .held, .dark, .dark]
      ∧ (windowed .wake []).remoteRow acc0 false 1 = some 510 ∧ (windowed .off []).remoteRow acc0 false 1 = some 510
      ∧ (windowed .on []).remoteRow { acc0 with offset := 2 } false 1 = none ∧ (windowed .on []).remoteRow { acc0 with offset := 1 } true 1 = some 511
      ∧ (windowed .on []).remoteRow { acc0 with gen := 1 } true 1 = none
      ∧ ((windowed .on []).core 0).ctx.bind (fun ctx => (windowed .on []).desc? ((windowed .on []).kernel ctx).d) = some kdesc
      ∧ (windowed .on []).poisonedRow 1 [ReadAt.osp 511] = none
      ∧ ({ windowed .on [] with cores := [(1, { Core.reset with poison := [511] })] } : State).poisonedRow 1 [ReadAt.osp 511] = some (.osp 511)
      ∧ ((windowed .on []).core 0).loomDue.find? ((windowed .on []).ackDue 0) = some 1
      ∧ (windowed .on []).windowRow 0 1 0 0 true 0 2 = some 510 ∧ (List.replicate 512 (0 : Byte)).length % 512 = 0 := by decide +kernel

theorem test_hyp_loom :
    let w := onLoom 0 (some 510)
    let d := onLoom 0 none
    let old := onLoom 1 none
    let s := windowed .on [w, old]
    s.oldestWrite 0 1 = some w ∧ w.rows.length / 512 = 1 ∧ s.windowRow 0 1 0 0 false 0 1 = some 510 ∧ (windowed .on [old]).oldestWrite 0 1 = some old
      ∧ (windowed .on [old]).windowRow 0 1 0 old.gen false 0 1 = none ∧ (windowed .off [d]).oldestWrite 0 1 = some d ∧ d.counted = none
      ∧ (windowed .off [w]).oldestWrite 0 1 = some w ∧ w.counted.isSome = true ∧ (windowed .off [w]).windowRow 0 1 0 0 false 0 1 = some 510 := by
  decide +kernel

theorem test_hyp_sequence_store :
    let w : SsWindow := { SsWindow.reset with isOpen := true, rd := true, wr := true, base := 7, bound := 1, cores := 1 }
    let s : State := { issues (coreOf 0 0) 0 with ssWins := [(0, w)], wback := [.osp 0 0], scrubRow := 262143 }
    s.serving = true ∧ (s.core 0).ctx.bind (fun ctx => s.desc? (s.kernel ctx).d) = some kdesc ∧ s.ssRows 0 0 0 false 0 1 = some 7
      ∧ s.ssRows 0 0 0 true 0 1 = some 7 ∧ s.ssRows 0 0 0 true 1 1 = none ∧ s.ssPoison.contains 7 = false ∧ ss0.ecc = .clean
      ∧ ({ s with ssPoison := [7, 262143] } : State).ssPoison.contains 7 = true ∧ s.ssPoison.contains s.scrubRow = false
      ∧ ({ s with ssPoison := [7, 262143] } : State).ssPoison.contains s.scrubRow = true := by decide +kernel

theorem test_hyp_banks :
    let s := fun (b : Bank) => ({ up with cores := [(0, { Core.reset with banks := [(15, b)], areas := [(31, { Area.reset with used := true, clearing := true })] })] } : State)
    (s Bank.reset).mgmt.power = .on ∧ (((s Bank.reset).core 0).area 31).used = true ∧ (((s Bank.reset).core 0).area 31).clearing = true
      ∧ ((((s { Bank.reset with classClear := true }).core 0).bank 15).classClear = true
      ∧ (((s { Bank.reset with st := .drain }).core 0).bank 15).wtag = 0 ∧ (((s { Bank.reset with st := .drain, wtag := 1 }).core 0).bank 15).wtag ≠ 0)
      ∧ [BankState.isolating, .wake, .clearing, .drain].all (fun st => (((s { Bank.reset with st := st }).core 0).bank 15).st == st) = true
      ∧ (let k : Core := { Core.reset with banks := (upTo 6).map (fun b => (b, { Bank.reset with st := .off, wake := true })) }
        k.waking = 0 ∧ k.wakeBanks.waking = 4 ∧ (k.wakeBanks.bank 3).st = .wake ∧ (k.wakeBanks.bank 4).st = .off
          ∧ ((k.wakeBanks.setBank 0 { k.wakeBanks.bank 0 with st := .clearing }).wakeBanks.bank 4).st = .wake) := by
  decide +kernel

/-- An engine whose context 0 is as given, with a restarted control core. -/
def turning (c : CtxCfg) : State :=
  { up with ctxs := [(0, c)], ccores := [(0, { inService := true, restarted := true })] }

theorem test_hyp_turns :
    let c : CtxCfg := { CtxCfg.reset with enable := true, turn := true }
    let last : State := { turning c with ccores := (upTo 4).map (fun n => (n, { inService := n == 3, restarted := false })) }
    let out_ : State := last.setCcore 3 { inService := false, restarted := false }
    (turning c).serving = true ∧ ((turning c).ccore 0).inService = true ∧ ((turning c).ccore 3).inService = true ∧ ((turning c).ctx 0).enable = true
      ∧ (last.ccore 3).inService = true ∧ ((upTo 4).all (fun k => !(out_.ccore k).inService)) = true
      ∧ ((turning c).ccore 0).restarted = true ∧ ((turning c).kernel 0).live = false ∧ ((turning c).ctx 0).turn = true
      ∧ ((turning { c with expired := true }).ctx 0).expired = true ∧ (turning { c with expired := true }).atPreemption 0 = true
      ∧ (turning c).kernelReady 0 = false ∧ (turning c).atPreemption 0 = true
      ∧ (turning c).betweenKernels 0 = true
      ∧ ({ turning c with kernels := [(0, { Kernel.reset with paused := true })] } : State).betweenKernels 0 = false
      ∧ ((turning { c with uTurn := true, uExpired := true }).ctx 0).uTurn = true ∧ (turning { c with uTurn := true }).unitReady 0 = false
      ∧ ((turning c).ctx 0).uTurn = false ∧ ((turning c).ctx 31).turn = false ∧ ((turning c).ctx 31).stopped = false := by decide +kernel

/-- A teardown to report. -/
def stoppedCtx : CtxCfg :=
  { CtxCfg.reset with
    enable := true, stopped := true,
    teardown := some { status := 3, core := 0, tag := 0, descs := 1, tags := 0, tagsHeld := 0, slots := 0, sems := 0, amt := 0, pages := 0,
                       windows := 0, coll := 0 } }

theorem test_hyp_teardown :
    let s : State := { turning stoppedCtx with parts := [(0, { PartCfg.reset with enable := true, fl := 4, fbase := 0x600000 })] }
    let far : State := { s with parts := [(0, { PartCfg.reset with enable := true, fl := 4, fbase := 2 ^ 57 - 128 })] }
    let bad : State := { s with ports := [(11, { FPort.reset with req := 1 })] }
    (running0 []).loops = [] ∧ (running0 []).descs.all (fun x => x.views == []) = true ∧ bad.reportable 0 = true ∧ bad.auditFault 0 = some (1, 11)
      ∧ tableWf Kernel.reset (running0 []).kernels = true ∧ s.auditFault 0 = none ∧ s.reportable 0 = true
      ∧ pastEnd (s.part 0).fbase (ringSpan (s.part 0).fl 32) = false ∧ pastEnd (s.part 0).fmsg 4 = false ∧ far.auditFault 0 = none
      ∧ far.reportable 0 = true ∧ pastEnd (far.part 0).fbase (ringSpan (far.part 0).fl 32) = true
      ∧ (turning { stoppedCtx with teardown := none }).reportable 0 = false := by decide +kernel

/-! ### Codes, rounding, the mirror -/

theorem test_hyp_codes :
    intWidth 8 = some 4 ∧ (ffmtOf 1).isSome = true ∧ (decodeCode 1 0x3C00).isNan = false ∧ (decodeCode 5 0x20).isNan = false
      ∧ (f32Value 0x7F7FFFFF).isNan = false ∧ fmtOk 5 = true ∧ (3 : Int) < 4 ∧ 5 % 2 ^ (4 - 3 : Int).toNat ≠ 0
      ∧ bitsOf (byteOf (fill 32 [(24, 1, 0x1F)]) 24) 0 6 + 1 = 32 ∧ 6 ≤ (crcDesc (fill 64 [(48, 1, 6)])).named := by decide +kernel

theorem test_hyp_mirror :
    (ent 0).base < 2 ^ 64 ∧ (ent 0).tier < 4 ∧ (ent 0).part < 8 ∧ (ent 0).st = .valid ∧ (ent 0).was = .invalid ∧ (ent 0).held = false
      ∧ Memory.wf blankByte [] = true := by decide +kernel

/-! ### The manual's worked examples -/

/-- Chapter 2's Z8a block: 1000.0, −3.3 and 0.001 of a block whose largest magnitude is 1000.0. -/
theorem test_z8a_block_example :
    let r := convRow { convOf 0 with dst := 3, dscale := 1 } false 0 0 [0x447A0000, 0xC0533333, 0x3A83126F] none []
    (r.codes, r.scales, r.flags) = ([0x78, 0xB5, 0x00], [3], 3) ∧ histBin (.fin true 13 (-2)) = some 49 ∧ histBin (valueOfInt 1000) = some 57 := by
  decide +kernel

/-- Chapter 2's stochastic rounding to BF16 with seed 1. -/
theorem test_stochastic_rounding_example :
    let r := convRow { convOf 0 with dst := 2, rnd := 2 } false 1 0 [0x3F808000, 0x4049FC00, 0xC2F67000] none []
    (r.codes, r.flags) = ([0x3F80, 0x404A, 0xC2F7], 1) ∧ rowDraws 2 1 0 3 = [0x00042021, 0x04080601, 0x9DCCA8C5] := by decide +kernel

/-- Chapter 4's tie created by truncation. -/
theorem test_truncation_tie_example :
    dotFloat { sr := false, seed := 0, core := 0, mvp := false, iovf := false } 0 0 0 none (valuesOf 2 [0x3F80, 0x3FC0, 0xBFC0] none)
      (valuesOf 2 [0x3F80, 0x3400, 0x2780] none) = (some 0x3F800002, 1) := by decide +kernel

/-- Chapter 4's overflowing group beside a NaN: INV, OVF and INX. -/
theorem test_overflow_beside_nan_example :
    dotFloat { sr := false, seed := 0, core := 0, mvp := false, iovf := false } 0 0 0 none
      (valuesOf 1 (List.replicate 32 0x3C00 ++ 0x7C00 :: List.replicate 31 0x3C00) none)
      (valuesOf 4 (0x7F :: List.replicate 31 0 ++ 0 :: List.replicate 31 0x40) (some [0x7F, 0x00])) = (some 0x7FC00000, 13) := by decide +kernel

/-- Chapter 5's epilogue: the sum is rounded before the scale is applied. -/
theorem test_epilogue_example :
    let p := fun frnd => ({ env := { frnd := frnd, table := [], flush := 64 }, act := 1, bias := some [0x3F800000],
                            scale := some [0x3F000000], image := [] } : Epilogue)
    (p 0).apply 0 0x4B800000 = (0x4B000000, 1) ∧ (p 3).apply 0 0x4B800000 = (0x4B000001, 1) ∧ (p 0).apply 0 0xC0400000 = (0, 0) := by
  decide +kernel

/-- Chapter 5's LayerNorm of 1, 5, 1, 5: mean 3, reciprocal deviation 0.5, no flag. -/
theorem test_statistics_example :
    finishStat plainEnv false 0 [0x3F800000, 0x40A00000, 0x3F800000, 0x40A00000] = ((0x40400000, 0x3F000000), 0) := by decide +kernel

/-- Chapter 6's row split over two chips, folded and finished: O is 2.5 and LSE2 is 4.0. -/
theorem test_fold_example :
    let r := foldParts plainEnv [{ m := 0x40000000, l := 0x3FA00000, o := [0x40C00000] }, { m := 0x40400000, l := 0x3FB00000, o := [0x40000000] }]
    r = ({ m := 0x40400000, l := 0x40000000, o := [0x40A00000] }, 0)
      ∧ (finishRow plainEnv true r.1).1 = { o := [0x40200000], lse := 0x40800000, flags := 0 } := by decide +kernel

/-- Chapter 8's four logits: probabilities, order, sums, and the greedy token. -/
theorem test_sampling_example :
    let xs := [0x40000000, 0, 0x40400000, 0x3F800000]
    rowProbs plainEnv 0x3FB8AA3B xs = [0x3F000000, 0x3E000000, 0x3F800000, 0x3E800000] ∧ sampleOrder 3 xs = [2, 0, 3]
      ∧ runningSums [0x3F800000, 0x3F000000, 0x3E800000] = [0x3F800000, 0x3FC00000, 0x3FE00000]
      ∧ (mulF .rne 0x3F4CCCCD 0x3FE00000).1 = 0x3FB33333 ∧ (mulF .rne (drawFraction 0xC0000000) 0x3FC00000).1 = 0x3F900000
      ∧ sampleRow plainEnv { temp := 0, topk := 3, topp := 0x3F4CCCCD, seed := 0 } 0 xs = some 2 := by decide +kernel

/-- Chapter 12's reference: its handle, its offset, its address and its port. -/
theorem test_reference_example :
    let t := transOf 0x0123 { RangeEnt.reset with start := 0x400, lenM1 := 1023, base := 0x601234500000 }
    refHandle 0x8012300000401200 = 0x0123 ∧ refOffset 0x8012300000401200 = 0x401200 ∧ t.phys 0x401200 = 0x601234501200
      ∧ portOf 0x601234501200 = 1 ∧ t.covers 0x400000 1 = true ∧ t.covers 0x7FFFFF 1 = true ∧ t.covers 0x800000 1 = false := by decide +kernel

/-- Rows of R562's table, in sequence mode and in table mode. -/
theorem test_function_values :
    [[], builtinCodes].all (fun tab =>
      let f := fun frnd code a => builtin { frnd := frnd, table := tab, flush := 64 } code a 0
      f 0 0x10 0x40400000 == (0x3EAAAAAB, 1) && f 2 0x10 0x40400000 == (0x3EAAAAAA, 1) && f 0 0x10 0x7F000000 == (0x00400000, 0)
        && f 0 0x13 0xBF800000 == (0x3F000000, 0) && f 0 0x13 0x43000000 == (0x7F800000, 5) && f 0 0x14 0x41000000 == (0x40400000, 0)
        && f 0 0x14 1 == (0xC3150000, 0) && f 0 0x17 0x41200000 == (0x3F800000, 1)) = true := by decide +kernel

end Sys2Proof.Tests
end

section
/-!
SUPPORT. Every step keeps the frame of `State.Good`: the rest of the queue, the part manufacture fixed, and canonical memories. O3 is its
short consequence.
-/

namespace Sys2Proof.Machine

variable {Q : List Instr} {P : Part} {s t : State}

/-- Each command keeps the frame, by the law of its own effect in Laws/Keep*.lean. -/
theorem good_exec (hs : s.Good Q P) : ∀ i : Instr, exec i s = .next t → t.Good Q P
  | .powerOn => good_execPowerOn s hs
  | .blockReset => good_execBlockReset s hs
  | .wakeFromP3 => good_execWakeFromP3 s hs
  | .startupPllLock locked => good_execStartupPllLock locked s hs
  | .sfdpDiscoveryDone found => good_execSfdpDiscoveryDone found s hs
  | .factoryRecordRead => good_execFactoryRecordRead s hs
  | .userRecordsRead => good_execUserRecordsRead s hs
  | .calibrationApplied => good_execCalibrationApplied s hs
  | .sramSelftestDone faults => good_execSramSelftestDone faults s hs
  | .sfuSeedCheckDone seedFails segFails => good_execSfuSeedCheckDone seedFails segFails s hs
  | .fwsigCheckDone sigOk => good_execFwsigCheckDone sigOk s hs
  | .fwreadDone hashOk => good_execFwreadDone hashOk s hs
  | .fwloadReady => good_execFwloadReady s hs
  | .mbxStatusRequest => good_execMbxStatusRequest s hs
  | .mbxFreqLimit cluster code => good_execMbxFreqLimit cluster code s hs
  | .mbxReset => good_execMbxReset s hs
  | .mbxP3 => good_execMbxP3 s hs
  | .mbxP3Force => good_execMbxP3Force s hs
  | .mbxWake => good_execMbxWake s hs
  | .memoryStackLost loss => good_execMemoryStackLost loss s hs
  | .watchArmed watch => good_execWatchArmed watch s hs
  | .watchHit watch => good_execWatchHit watch s hs
  | .watchLost watch => good_execWatchLost watch s hs
  | .prodReadReturn ring => good_execProdReadReturn ring s hs
  | .descFetch c => good_execDescFetch c s hs
  | .descDequeue ring => good_execDescDequeue ring s hs
  | .nop d => good_execNop d s hs
  | .attnFwd c => good_execAttnFwd c s hs
  | .attnBwd c => good_execAttnBwd c s hs
  | .gemm c => good_execGemm c s hs
  | .conv c => good_execConv c s hs
  | .norm c => good_execNorm c s hs
  | .sfuMap c => good_execSfuMap c s hs
  | .mergeFold c => good_execMergeFold c s hs
  | .mergeMaxslot c => good_execMergeMaxslot c s hs
  | .mergeRescale c => good_execMergeRescale c s hs
  | .mergeFinish c => good_execMergeFinish c s hs
  | .move c => good_execMove c s hs
  | .convert c => good_execConvert c s hs
  | .turn c => good_execTurn c s hs
  | .boltStep c => good_execBoltStep c s hs
  | .boltAtomicPhase d => good_execBoltAtomicPhase d s hs
  | .boltCommit c => good_execBoltCommit c s hs
  | .boltMigrateMove c => good_execBoltMigrateMove c s hs
  | .boltMigrateExport c => good_execBoltMigrateExport c s hs
  | .boltMigrateImport c => good_execBoltMigrateImport c s hs
  | .boltMigrateCheck c => good_execBoltMigrateCheck c s hs
  | .boltPoolCreate c => good_execBoltPoolCreate c s hs
  | .boltPoolDestroy c => good_execBoltPoolDestroy c s hs
  | .boltPoolReset c => good_execBoltPoolReset c s hs
  | .boltPoolQuery c => good_execBoltPoolQuery c s hs
  | .boltPoolSeqtab c => good_execBoltPoolSeqtab c s hs
  | .boltPoolSync c => good_execBoltPoolSync c s hs
  | .leaveReferenceDrop seq => good_execLeaveReferenceDrop seq s hs
  | .pageRetirePush pool isIndex number => good_execPageRetirePush pool isIndex number s hs
  | .seqCacheFill seq firstOk => good_execSeqCacheFill seq firstOk s hs
  | .collReduce c => good_execCollReduce c s hs
  | .collCreate c => good_execCollCreate c s hs
  | .collDestroy c => good_execCollDestroy c s hs
  | .collRound group => good_execCollRound group s hs
  | .collPollReturn group peer => good_execCollPollReturn group peer s hs
  | .collRetransmit group peer => good_execCollRetransmit group peer s hs
  | .collLocalComplete group => good_execCollLocalComplete group s hs
  | .collVote group => good_execCollVote group s hs
  | .collVerdict group => good_execCollVerdict group s hs
  | .collTimeout p => good_execCollTimeout p s hs
  | .crcScan d run => good_execCrcScan d run s hs
  | .crcScanResume d run => good_execCrcScanResume d run s hs
  | .rangeSyncUpdate d => good_execRangeSyncUpdate d s hs
  | .rangeSyncNew d => good_execRangeSyncNew d s hs
  | .rangeRetire d => good_execRangeRetire d s hs
  | .retireDrainPhase d => good_execRetireDrainPhase d s hs
  | .adviseReside d => good_execAdviseReside d s hs
  | .adviseDemote d => good_execAdviseDemote d s hs
  | .advisePrefetch d => good_execAdvisePrefetch d s hs
  | .prefetchOldGenDrained d => good_execPrefetchOldGenDrained d s hs
  | .adviseReplyResume d => good_execAdviseReplyResume d s hs
  | .adviseReplyFail d => good_execAdviseReplyFail d s hs
  | .semOpPost d => good_execSemOpPost d s hs
  | .semOpWait d => good_execSemOpWait d s hs
  | .loop d => good_execLoop d s hs
  | .loopStep loop => good_execLoopStep loop s hs
  | .loopResume loop => good_execLoopResume loop s hs
  | .tableLoad d => good_execTableLoad d s hs
  | .tableSwap d => good_execTableSwap d s hs
  | .tableSwapFlip d => good_execTableSwapFlip d s hs
  | .seedTableReload core fn => good_execSeedTableReload core fn s hs
  | .fence d => good_execFence d s hs
  | .abortOne d => good_execAbortOne d s hs
  | .abortContext d => good_execAbortContext d s hs
  | .completionRecordWrite cring => good_execCompletionRecordWrite cring s hs
  | .coalesceTimeout cring => good_execCoalesceTimeout cring s hs
  | .kernelStart d plan => good_execKernelStart d plan s hs
  | .kernelEnd ctx => good_execKernelEnd ctx s hs
  | .pisteHead cluster ctx firstOk => good_execPisteHead cluster ctx firstOk s hs
  | .pisteNop core st => good_execPisteNop core st s hs
  | .pisteEnd core st => good_execPisteEnd core st s hs
  | .pisteLoop cluster ctx st => good_execPisteLoop cluster ctx st s hs
  | .pisteSkein cluster ctx st => good_execPisteSkein cluster ctx st s hs
  | .skeinStart core slot => good_execSkeinStart core slot s hs
  | .skeinDispatch core => good_execSkeinDispatch core s hs
  | .skeinFinish core slot => good_execSkeinFinish core slot s hs
  | .pass core st => good_execPass core st s hs
  | .swap core st => good_execSwap core st s hs
  | .shload core st => good_execShload core st s hs
  | .tclr core st => good_execTclr core st s hs
  | .mvec core st => good_execMvec core st s hs
  | .mvmat core st => good_execMvmat core st s hs
  | .sfu core st => good_execSfu core st s hs
  | .epi core st => good_execEpi core st s hs
  | .dmain core st => good_execDmain core st s hs
  | .dmaout core st => good_execDmaout core st s hs
  | .semw core st => good_execSemw core st s hs
  | .semp core st => good_execSemp core st s hs
  | .semaphorePostArrive core => good_execSemaphorePostArrive core s hs
  | .rtake core st => good_execRtake core st s hs
  | .rrel core st => good_execRrel core st s hs
  | .wopen core st => good_execWopen core st s hs
  | .wclose core st => good_execWclose core st s hs
  | .teardownDrained ctx => good_execTeardownDrained ctx s hs
  | .holdTimeout core => good_execHoldTimeout core s hs
  | .dmaRequestIssue req => good_execDmaRequestIssue req s hs
  | .rangeFaultRecord part => good_execRangeFaultRecord part s hs
  | .regulatorRefill part => good_execRegulatorRefill part s hs
  | .fabricReadBeat port tag => good_execFabricReadBeat port tag s hs
  | .fabricWriteOk port tag => good_execFabricWriteOk port tag s hs
  | .fabricPoison port tag => good_execFabricPoison port tag s hs
  | .fabricDecode port tag => good_execFabricDecode port tag s hs
  | .fabricAbort port tag => good_execFabricAbort port tag s hs
  | .fenceOk port tag => good_execFenceOk port tag s hs
  | .creditReturn port chan n => good_execCreditReturn port chan n s hs
  | .requestTimeout port tag => good_execRequestTimeout port tag s hs
  | .loomWriteAck core => good_execLoomWriteAck core s hs
  | .remoteWriteArrive acc rows => good_execRemoteWriteArrive acc rows s hs
  | .remoteReadArrive acc nrows => good_execRemoteReadArrive acc nrows s hs
  | .ssRequest acc row => good_execSsRequest acc row s hs
  | .eccWriteback place idle => good_execEccWriteback place idle s hs
  | .ssScrubTick found => good_execSsScrubTick found s hs
  | .areaClearDone core ctx => good_execAreaClearDone core ctx s hs
  | .bankClassClearDone core bank => good_execBankClassClearDone core bank s hs
  | .bankIsolate core bank => good_execBankIsolate core bank s hs
  | .bankOff core bank => good_execBankOff core bank s hs
  | .bankWakeDone core bank => good_execBankWakeDone core bank s hs
  | .bankClearDone core bank => good_execBankClearDone core bank s hs
  | .watchdogExpiry ccore e => good_execWatchdogExpiry ccore e s hs
  | .controlCoreTakeback ctx => good_execControlCoreTakeback ctx s hs
  | .budgetExpiry t => good_execBudgetExpiry t s hs
  | .turnEnd t overrun => good_execTurnEnd t overrun s hs
  | .mirrorSweep r => good_execMirrorSweep r s hs
  | .pllRelockDone cluster => good_execPllRelockDone cluster s hs
  | .powerGood cluster => good_execPowerGood cluster s hs
  | .clusterP2Entry cluster => good_execClusterP2Entry cluster s hs
  | .clusterRampStart cluster => good_execClusterRampStart cluster s hs
  | .clusterWakeDone cluster => good_execClusterWakeDone cluster s hs
  | .thermalSample sensor raw => good_execThermalSample sensor raw s hs
  | .throttleStep cluster => good_execThrottleStep cluster s hs
  | .demandReport halfAmps => good_execDemandReport halfAmps s hs
  | .ztVerSelWrite value => good_execZtVerSelWrite value s hs
  | .ztRangeTblBaseWrite init upper => good_execZtRangeTblBaseWrite init upper s hs
  | .partitionEnable n value => good_execPartitionEnable n value s hs
  | .partitionDisable n value => good_execPartitionDisable n value s hs
  | .contextEnable n value => good_execContextEnable n value s hs
  | .contextDisable n value => good_execContextDisable n value s hs
  | .submissionRingEnable n value => good_execSubmissionRingEnable n value s hs
  | .submissionRingDisable n value => good_execSubmissionRingDisable n value s hs
  | .completionRingEnable n value => good_execCompletionRingEnable n value s hs
  | .completionRingDisable n value => good_execCompletionRingDisable n value s hs
  | .ztCoreFlagsClear core value raised => good_execZtCoreFlagsClear core value raised s hs
  | .ztClkReqWrite cluster value => good_execZtClkReqWrite cluster value s hs
  | .ztPwrFlimWrite cluster value => good_execZtPwrFlimWrite cluster value s hs
  | .pwrCmdBlockReset key => good_execPwrCmdBlockReset key s hs
  | .pwrCmdEnterP3 key => good_execPwrCmdEnterP3 key s hs
  | .clusterP0Request cluster => good_execClusterP0Request cluster s hs
  | .clusterP1Request cluster => good_execClusterP1Request cluster s hs
  | .clusterP2Request cluster => good_execClusterP2Request cluster s hs
  | .ztTelThrottleWrite value => good_execZtTelThrottleWrite value s hs
  | .spiRead len => good_execSpiRead len s hs
  | .spiProgram len => good_execSpiProgram len s hs
  | .spiErase4k => good_execSpiErase4k s hs
  | .spiErase64k => good_execSpiErase64k s hs
  | .spiReadSfdp len => good_execSpiReadSfdp len s hs
  | .spiOpDone deviceError => good_execSpiOpDone deviceError s hs
  | .errLogEntryLatch init entry => good_execErrLogEntryLatch init entry s hs
  | .regPairLowerRead init offset => good_execRegPairLowerRead init offset s hs
  | .regPairLowerWrite init offset value => good_execRegPairLowerWrite init offset value s hs
  | .regWrite init offset size value => good_execRegWrite init offset size value s hs
  | .tapIdcode => good_execTapIdcode s hs
  | .tapBypass bit => good_execTapBypass bit s hs
  | .tapRegisterBridge isWrite offset value => good_execTapRegisterBridge isWrite offset value s hs
  | .tapSramSelftest run faults => good_execTapSramSelftest run faults s hs
  | .tapSpiDirect isWrite addr data => good_execTapSpiDirect isWrite addr data s hs
  | .fabricLinkUp port req wdat rsp => good_execFabricLinkUp port req wdat rsp s hs
  | .registerPortReady => good_execRegisterPortReady s hs
  | .mailboxStatusReady => good_execMailboxStatusReady s hs

/-- On an empty queue the step is the clock's tick (log 1). -/
theorem step_of_pending_nil (h : s.pending = []) : step s = .next s.tick := by
  simp only [step, h]

/-- On any other queue the step performs the command at its front on the state with the rest. -/
theorem step_of_pending_cons {c : Instr} {rest : List Instr} (h : s.pending = c :: rest) :
    step s = exec c { s with pending := rest } := by
  simp only [step, h]

/-- A state whose memories are in canonical form meets the frame once its queue is set: neither the part nor a memory is touched. -/
theorem State.MemOk.good_withPending (hs : s.MemOk) (q : List Instr) : State.Good q s.mgmt.part { s with pending := q } :=
  ⟨rfl, rfl, hs⟩

/-- The step lemma of the frame: the queue loses its front command, and the part and the memories' form stay. -/
theorem good_step (hs : s.MemOk) (e : step s = .next t) : t.Good s.pending.tail s.mgmt.part := by
  cases hq : s.pending with
  | nil =>
    rw [step_of_pending_nil hq] at e
    obtain rfl := Host.Outcome.next.inj e
    exact good_tick s ⟨hq, rfl, hs⟩
  | cons c rest =>
    rw [step_of_pending_cons hq] at e
    exact good_exec (hs.good_withPending rest) c e

/-- Settles O3: the frame `State.Good` that every command keeps, taken at the front of the queue (R1, R24). -/
theorem stepKeepsCanonicalMemoriesAndPart : Obligations.StepKeepsCanonicalMemoriesAndPart := by
  unfold Obligations.StepKeepsCanonicalMemoriesAndPart
  intro s t hs e
  obtain ⟨hqueue, hpart, hmem⟩ := good_step hs e
  exact ⟨hmem, hpart, hqueue⟩

end Sys2Proof.Machine
end

section
/-!
SUPPORT. The skein scheduler of a core (R18, R336, R471): when a skein starts, which one is dispatched, and when one frees its slot. O44
is their short consequence.
-/

namespace Sys2Proof.Machine

variable {s : State} {c n m t ctx q : Nat} {k : Core}

/-- The scan of `Core.nextSkein`: the ready skein that started earlier is kept, of equals the first one met. -/
def olderSkein (best : Option (Nat × Skein)) (p : Nat × Skein) : Option (Nat × Skein) :=
  match best with
  | some b => if p.2.since < b.2.since then some p else some b
  | none => some p

/-- The next skein is what the scan of the ready ones ends with. -/
theorem Core.nextSkein_eq_foldl_olderSkein (k : Core) :
    k.nextSkein = ((k.skeins.filter (fun p => p.2.st == .ready)).foldl olderSkein none).map Prod.fst := by
  unfold Core.nextSkein
  refine congrArg (Option.map Prod.fst) (congrArg (fun f => List.foldl f none _) (funext₂ fun best p => ?_))
  cases best <;> rfl

/-- The scan from a skein in hand ends with it or with one of the list, and none of them has waited longer. -/
theorem foldl_olderSkein_some {l : List (Nat × Skein)} {b r : Nat × Skein} (h : l.foldl olderSkein (some b) = some r) :
    (r = b ∨ r ∈ l) ∧ r.2.since ≤ b.2.since ∧ ∀ p ∈ l, r.2.since ≤ p.2.since := by
  induction l generalizing b with
  | nil =>
    obtain rfl : b = r := by simpa using h
    simp
  | cons p l ih =>
    by_cases hp : p.2.since < b.2.since
    · obtain ⟨hmem, hle, hall⟩ := ih (b := p) (by simpa [olderSkein, hp] using h)
      exact ⟨.inr (by simpa using hmem), by omega, List.forall_mem_cons.mpr ⟨hle, hall⟩⟩
    · obtain ⟨hmem, hle, hall⟩ := ih (b := b) (by simpa [olderSkein, hp] using h)
      refine ⟨hmem.imp_right (List.mem_cons_of_mem p), hle, ?_⟩
      rintro p' (_ | ⟨_, hp'⟩)
      · omega
      · exact hall p' hp'

/-- The scan from nothing ends with a skein of the list than which none has waited longer. -/
theorem foldl_olderSkein_none {l : List (Nat × Skein)} {r : Nat × Skein} (h : l.foldl olderSkein none = some r) :
    r ∈ l ∧ ∀ p ∈ l, r.2.since ≤ p.2.since := by
  cases l with
  | nil => simp at h
  | cons p l =>
    obtain ⟨hmem, hle, hall⟩ := foldl_olderSkein_some (b := p) h
    exact ⟨by simpa using hmem, List.forall_mem_cons.mpr ⟨hle, hall⟩⟩

/-- The next skein is a ready one than which no ready one has waited longer (R18). -/
theorem Core.nextSkein_oldest (h : k.nextSkein = some m) :
    ∃ w, (m, w) ∈ k.skeins ∧ w.st = .ready ∧ ∀ p ∈ k.skeins, p.2.st = .ready → w.since ≤ p.2.since := by
  rw [Core.nextSkein_eq_foldl_olderSkein, Option.map_eq_some_iff] at h
  obtain ⟨⟨m', w⟩, hscan, rfl⟩ := h
  obtain ⟨hmem, hall⟩ := foldl_olderSkein_none hscan
  rw [List.mem_filter] at hmem
  exact ⟨w, hmem.1, by simpa using hmem.2, fun p hp hready => hall p (List.mem_filter.mpr ⟨hp, by simp [hready]⟩)⟩

/-- SKEIN_START of the lowest unstarted skein, its tiles free and the budget not expired, starts it on those tiles. -/
theorem State.skeinStart_starts (hb : s.skeinBody c = some (ctx, q)) (ht : (s.core c).freeTiles ((s.core c).skein n).tiles = some t)
    (hu : ((s.core c).skein n).st = .unstarted) (hl : ∀ p ∈ (s.core c).skeins, p.1 < n → p.2.st ≠ .unstarted)
    (he : (s.ctx ctx).expired = false) :
    s.skeinStart c n = s.setCore c ((s.core c).startSkein n t q ((s.pisteAt (c / 4) ctx).firstTake (c % 4) q)) := by
  have hlow : (s.core c).skeins.any (fun p => p.1 < n && p.2.st == .unstarted) = false := by
    simpa [List.any_eq_false] using fun a v hp hlt => hl (a, v) hp hlt
  simp [State.skeinStart, hb, ht, hu, hlow, he]

/-- No skein starts once the budget of the context has expired (R471). -/
theorem State.skeinStart_expired (hb : s.skeinBody c = some (ctx, q)) (he : (s.ctx ctx).expired = true) : s.skeinStart c n = s := by
  cases ht : (s.core c).freeTiles ((s.core c).skein n).tiles <;> simp [State.skeinStart, hb, ht, he]

/-- A skein that takes no slot starts ready. -/
theorem Core.startSkein_none : k.startSkein n t q none =
    { k.setSkein n { k.skein n with since := k.stamp, tile := t, cur := { pc := q + 1, frames := [] }, rep := 0, stats := [], st := .ready }
      with stamp := k.stamp + 1 } := rfl

/-- A skein whose first slot is full starts ready. -/
theorem Core.startSkein_full {r : Nat} (h : ((getAt Region.reset k.regions r).toTake (some n)).isSome = true) :
    k.startSkein n t q (some r) = k.startSkein n t q none := by
  simp [Core.startSkein, h]

/-- A skein whose first slot is not full starts parked on that region. -/
theorem Core.startSkein_parked {r : Nat} (h : ((getAt Region.reset k.regions r).toTake (some n)).isSome = false) :
    k.startSkein n t q (some r) =
    { k.setSkein n { k.skein n with since := k.stamp, tile := t, cur := { pc := q + 1, frames := [] }, rep := 0, stats := [], st := .parked,
                                    wait := some r }
      with stamp := k.stamp + 1 } := by
  simp [Core.startSkein, h]

/-- SKEIN_DISPATCH lets the next skein run where none runs. -/
theorem State.skeinDispatch_next (hb : s.skeinBody c = some (ctx, q)) (hn : (s.core c).nextSkein = some m)
    (hr : (s.core c).runningSkein = none) :
    s.skeinDispatch c = s.setCore c ((s.core c).setSkein m { (s.core c).skein m with st := .running }) := by
  simp [State.skeinDispatch, hb, hn, hr]

/-- SKEIN_DISPATCH waits while a skein runs. -/
theorem State.skeinDispatch_running (hb : s.skeinBody c = some (ctx, q)) (hr : (s.core c).runningSkein ≠ none) : s.skeinDispatch c = s := by
  have hr' : (s.core c).runningSkein.isNone = false := by simpa [Option.isSome_iff_ne_none] using hr
  cases hn : (s.core c).nextSkein <;> simp [State.skeinDispatch, hb, hn, hr']

/-- SKEIN_FINISH of a running skein that has issued its body, holds nothing and has no stream parked frees its slot. -/
theorem State.skeinFinish_frees (hb : s.skeinBody c = some (ctx, q)) (hst : ((s.core c).skein n).st = .running)
    (hh : (s.core c).hold = none) (hs : ∀ t ∈ (s.core c).streams, t.skein ≠ some n)
    (hd : (s.pisteAt (c / 4) ctx).bodyDone (c % 4) q ((s.core c).skein n) = true) :
    s.skeinFinish c n = s.setCore c ((s.core c).setSkein n Skein.reset) := by
  have hnone : (s.core c).streams.any (fun t => t.skein == some n) = false := by
    simpa [List.any_eq_false] using hs
  simp [State.skeinFinish, hb, hst, hh, hnone, hd]

/-- Settles O44: each clause is what one command of the scheduler does (R18, R336, R471), the last what `Core.nextSkein` picks. -/
theorem skeinsStartRunAndFinish : Obligations.SkeinsStartRunAndFinish := by
  unfold Obligations.SkeinsStartRunAndFinish
  intro s c n ctx q hb k v e
  refine ⟨?starts, ?expired, ?dispatches, ?waits, ?finishes, fun m => Core.nextSkein_oldest⟩
  case starts =>
    intro t ht hu hl he w
    have hstart := State.skeinStart_starts hb ht hu hl he
    refine ⟨fun hf => ?_, fun r hf => ⟨fun hfull => ?_, fun hfull => ?_⟩⟩
    · exact congrArg _ (hstart.trans (by rw [hf]; rfl))
    · exact congrArg _ (hstart.trans (by rw [hf, Core.startSkein_full hfull]; rfl))
    · exact congrArg _ (hstart.trans (by rw [hf, Core.startSkein_parked hfull]))
  case expired => exact fun he => congrArg _ (State.skeinStart_expired hb he)
  case dispatches => exact fun m hn hr => congrArg _ (State.skeinDispatch_next hb hn hr)
  case waits => exact fun hr => congrArg _ (State.skeinDispatch_running hb hr)
  case finishes =>
    exact fun hst hh hs hd => congrArg _ (State.skeinFinish_frees hb hst hh hs (decide_eq_true hd))

end Sys2Proof.Machine
end

section
/-!
SUPPORT. The management mailbox (R505, R522), the declared fatal state (R488, R563) and the losses that lead to it (R381). O8 is their
short consequence.
-/

namespace Sys2Proof.Machine

variable {s : State}

/-! ### Requests of the mailbox -/

/-- After READY a request is performed. -/
theorem State.mbxRequest_ready {act : State → State} (hp : s.mgmt.power = .on) (hm : s.mgmt.mbxReady = true) (hr : s.mgmt.phase = .ready) :
    s.mbxRequest act = act s := by
  simp [State.mbxRequest, hp, hm, hr]

/-- Before READY every request but a status request is answered BUSY. -/
theorem State.mbxRequest_busy {act : State → State} (hp : s.mgmt.power = .on) (hm : s.mgmt.mbxReady = true) (hr : s.mgmt.phase ≠ .ready) :
    s.mbxRequest act = s.mbxSay .busy := by
  simp [State.mbxRequest, hp, hm, hr]

/-- With power the register port's mark is raised. -/
theorem exec_registerPortReady (hp : s.mgmt.power = .on) :
    exec .registerPortReady s = .next { s with mgmt := { s.mgmt with portReady := true } } := by
  simp [exec, execRegisterPortReady, hp]

/-- With power the mailbox's mark is raised. -/
theorem exec_mailboxStatusReady (hp : s.mgmt.power = .on) :
    exec .mailboxStatusReady s = .next { s with mgmt := { s.mgmt with mbxReady := true } } := by
  simp [exec, execMailboxStatusReady, hp]

/-- A status request is answered in every phase. -/
theorem exec_mbxStatusRequest (hp : s.mgmt.power = .on) (hm : s.mgmt.mbxReady = true) :
    exec .mbxStatusRequest s = .next (s.mbxSay (.status s.mgmt.phase s.mgmt.cause)) := by
  simp [exec, execMbxStatusRequest, hp, hm]

/-- A frequency limit within bounds is stored and answered DONE (R34). -/
theorem exec_mbxFreqLimit {n code : Nat} (hp : s.mgmt.power = .on) (hm : s.mgmt.mbxReady = true) (hr : s.mgmt.phase = .ready) (hn : n < 8)
    (hc : code ≤ 24) : exec (.mbxFreqLimit n code) s = .next ((s.setCluster n { s.cluster n with mbxLim := code }).mbxSay .done) := by
  simp [exec, execMbxFreqLimit, State.mbxRequest_ready hp hm hr, hn, hc]

/-- P3 is refused while the block is not quiet (R522). -/
theorem exec_mbxP3_unquiet (hp : s.mgmt.power = .on) (hm : s.mgmt.mbxReady = true) (hr : s.mgmt.phase = .ready) (hq : s.quiet = false) :
    exec .mbxP3 s = .next (s.mbxSay .busy) := by
  simp [exec, execMbxP3, State.mbxRequest_ready hp hm hr, hq]

/-! ### The declared fatal state -/

/-- An event of class Fatal is added to the log and reported through the mailbox, and nothing else changes. -/
theorem State.logEvent_fatal {event unit index place ctx : Nat} {tag : Word} :
    s.logEvent event 3 unit index place ctx tag =
      { s with
          log := s.log.add s.clkCtl event 3 unit index place ctx tag,
          mgmt := { s.mgmt with mbxReports := s.mgmt.mbxReports ++ [256 * event + place % 256] } } := rfl

/-- The fatal state is entered with its cause, logged and reported. -/
theorem State.enterFatal_eq {cause : Nat} (hf : s.mgmt.fatal = false) :
    s.enterFatal cause =
      { s with
          log := s.log.add s.clkCtl 0x14 3 0xFF 0 cause 0xFFFF 0,
          mgmt := { s.mgmt with
            fatal := true, cause := cause, mbxReports := s.mgmt.mbxReports ++ [256 * 0x14 + cause % 256] } } := by
  simp [State.enterFatal, hf, State.logEvent_fatal]

/-- A block in the fatal state runs no work. -/
theorem State.serving_of_fatal (hf : s.mgmt.fatal = true) : s.serving = false := by simp [State.serving, hf]

/-- The loss of a memory stack is logged and reported, and is the fatal state with cause 8 (R381, R488). -/
theorem State.sharedLost_stack {n : Nat} (hf : s.mgmt.fatal = false) :
    s.sharedLost (.stack n) =
      { s with
          log := (s.log.add s.clkCtl 0x12 3 0xFF 0 (n % 256) 0xFFFF 0).add s.clkCtl 0x14 3 0xFF 0 8 0xFFFF 0,
          mgmt := { s.mgmt with
            fatal := true, cause := 8, mbxReports := s.mgmt.mbxReports ++ [256 * 0x12 + n % 256, 256 * 0x14 + 8] } } := by
  rw [State.sharedLost, State.logEvent_fatal, State.enterFatal_eq (by exact hf)]
  simp

/-- The loss of shared state without a retained copy is the fatal state with cause 10 (R563). -/
theorem State.sharedLost_unretained {loss : SharedLoss} (hl : loss = .tagTable ∨ loss = .credits ∨ loss = .loomRouting)
    (hf : s.mgmt.fatal = false) :
    s.sharedLost loss =
      { s with
          log := s.log.add s.clkCtl 0x14 3 0xFF 0 10 0xFFFF 0,
          mgmt := { s.mgmt with fatal := true, cause := 10, mbxReports := s.mgmt.mbxReports ++ [256 * 0x14 + 10] } } := by
  rcases hl with rfl | rfl | rfl <;> exact State.enterFatal_eq hf

/-- With power MEMORY_STACK_LOST tells of the loss. -/
theorem exec_memoryStackLost {loss : SharedLoss} (hp : s.mgmt.power = .on) : exec (.memoryStackLost loss) s = .next (s.sharedLost loss) := by
  simp [exec, execMemoryStackLost, hp]

/-- Settles O8: the mailbox's requests one by one (R505, R522), then the two kinds of loss (R381, R488, R563). -/
theorem mailboxAndStackLoss : Obligations.MailboxAndStackLoss := by
  unfold Obligations.MailboxAndStackLoss
  refine ⟨fun s hp => ⟨exec_registerPortReady hp, exec_mailboxStatusReady hp, fun hm => ⟨?status, ?limit, ?p3, ?early⟩⟩, ?loss⟩
  case status => exact exec_mbxStatusRequest hp hm
  case limit => exact fun hr n code hn hc => exec_mbxFreqLimit hp hm hr hn hc
  case p3 => exact fun hr hq => exec_mbxP3_unquiet hp hm hr hq
  case early =>
    intro hr n code
    have busy : ∀ act, s.mbxRequest act = s.mbxSay .busy := fun act => State.mbxRequest_busy hp hm hr
    exact ⟨congrArg _ (busy _), congrArg _ (busy _), congrArg _ (busy _), congrArg _ (busy _)⟩
  case loss =>
    intro s loss hp hf
    refine ⟨s.sharedLost loss, exec_memoryStackLost hp, ?_⟩
    cases loss with
    | stack n =>
      rw [State.sharedLost_stack hf]
      refine ⟨rfl, State.serving_of_fatal rfl, ?_, ?_, rfl⟩
      · rintro _ ⟨⟩
        exact ⟨rfl, rfl⟩
      · simp
    | _ =>
      rw [State.sharedLost_unretained (by simp) hf]
      exact ⟨rfl, State.serving_of_fatal rfl, by simp, fun _ => ⟨rfl, rfl⟩, rfl⟩

end Sys2Proof.Machine
end

section
/-!
SUPPORT. A cluster's change of frequency (R33, R34, R519, R541 to R543): how it begins, ends and is asked for. O9 is their short
consequence.
-/

namespace Sys2Proof.Machine

variable {s : State} {n k : Nat} {v : Word}

/-- A cluster on the part takes up its new target when its limits change (R519). -/
theorem State.relimit_fitted {c : Cluster} (h : s.clusterFitted n = true) : s.relimit n c = s.setCluster n c.startChange := by
  simp [State.relimit, h]

/-- A relock that is done switches to the code it was for, and a new target is taken up. -/
theorem exec_pllRelockDone_switches (h : s.clusterFitted n = true) (hc : (s.cluster n).change = .relock k) :
    exec (.pllRelockDone n) s = .next (s.setCluster n ({ s.cluster n with cur := k, change := .none } : Cluster).startChange) := by
  simp [exec, execPllRelockDone, hc, h, State.switchClock, State.relimit_fitted h]

/-- Power-good switches to the code it was for, and a new target is taken up. -/
theorem exec_powerGood_switches (h : s.clusterFitted n = true) (hc : (s.cluster n).change = .awaitPower k) :
    exec (.powerGood n) s = .next (s.setCluster n ({ s.cluster n with cur := k, change := .none } : Cluster).startChange) := by
  simp [exec, execPowerGood, hc, h, State.switchClock, State.relimit_fitted h]

/-- The clock of a cluster fused off is stopped: no relock of it is done (R3). -/
theorem exec_pllRelockDone_unfitted (h : s.clusterFitted n = false) : exec (.pllRelockDone n) s = .next s := by
  cases hc : (s.cluster n).change <;> simp [exec, execPllRelockDone, hc, h]

/-- The clock of a cluster fused off is stopped: no power-good reaches it (R3). -/
theorem exec_powerGood_unfitted (h : s.clusterFitted n = false) : exec (.powerGood n) s = .next s := by
  cases hc : (s.cluster n).change <;> simp [exec, execPowerGood, hc, h]

/-- The written code is the low five bits; one above 24 is ignored and logged with its offset (R541). -/
theorem State.freqWrite_eq {offset : Nat} :
    s.freqWrite offset n v =
      if v.toNat % 32 ≤ 24 then s.setCluster n { s.cluster n with req := v.toNat % 32 } else s.cfgIgnored offset := rfl

/-- ZT_PWR_FLIM is written in every phase (R505, R542). -/
theorem exec_ztPwrFlimWrite (hp : s.portOk = true) (hn : n < 8) :
    exec (.ztPwrFlimWrite n v) s = .next (s.freqWrite (0xD80 + 4 * n) n v) := by
  simp [exec, execZtPwrFlimWrite, hp, hn]

/-- After READY ZT_CLK_REQ is written (R541). -/
theorem exec_ztClkReqWrite_ready (hp : s.portOk = true) (hn : n < 8) (hr : s.mgmt.phase = .ready) :
    exec (.ztClkReqWrite n v) s = .next (s.freqWrite (0xC00 + 8 * n) n v) := by
  simp [exec, execZtClkReqWrite, hp, hn, hr]

/-- Before READY a write of ZT_CLK_REQ is ignored and logged (R541). -/
theorem exec_ztClkReqWrite_early (hp : s.portOk = true) (hn : n < 8) (hr : s.mgmt.phase ≠ .ready) :
    exec (.ztClkReqWrite n v) s = .next (s.cfgIgnored (0xC00 + 8 * n)) := by
  simp [exec, execZtClkReqWrite, hp, hn, hr]

/-- A change begins only when none is in progress, downward by a relock and upward through power-good (R519). -/
theorem Cluster.startChange_eq (c : Cluster) :
    c.startChange =
      if c.change ≠ .none then c
      else if c.goal < c.cur then { c with change := .relock c.goal }
      else if c.cur < c.goal then { c with change := .awaitPower c.goal }
      else c := by
  by_cases hc : c.change = .none <;> simp [Cluster.startChange, hc]

/-- Settles O9: the ends of a change, the writes of the request, and the beginning of a change (R519, R541 to R543). -/
theorem clusterFrequencyFollowsItsLimits : Obligations.ClusterFrequencyFollowsItsLimits := by
  unfold Obligations.ClusterFrequencyFollowsItsLimits
  refine ⟨fun s n k v => ⟨fun hfit => ⟨?relock, ?power⟩, fun hfused => ⟨?noRelock, ?noPower⟩, fun hport hn => ⟨?flim, ?ready, ?early⟩⟩, ?begins⟩
  case relock => exact exec_pllRelockDone_switches hfit
  case power => exact exec_powerGood_switches hfit
  case noRelock => exact exec_pllRelockDone_unfitted hfused
  case noPower => exact exec_powerGood_unfitted hfused
  case flim => rw [exec_ztPwrFlimWrite hport hn, State.freqWrite_eq]
  case ready => exact fun hr => by rw [exec_ztClkReqWrite_ready hport hn hr, State.freqWrite_eq]
  case early => exact exec_ztClkReqWrite_early hport hn
  case begins => exact Cluster.startChange_eq

end Sys2Proof.Machine
end

section
/-!
SUPPORT. Remote accesses at their target (R22, R23, R313 to R327): a window admits an access or refuses it, and an admitted one finds its
banks ready, held or without power. O53 is their short consequence.
-/

namespace Sys2Proof.Machine

variable {s : State} {a : RemoteAccess} {rows : List Byte} {w : LoomWrite} {x : Desc} {n r : Nat}

/-! ### The window -/

/-- A window admits an access only while it is open, with the direction, generation, source and rows it allows (R314). -/
theorem State.windowRow_eq_some_iff {src target win off : Nat} {gen : BitVec 16} {rd : Bool} :
    s.windowRow src target win gen rd off n = some r ↔
      ((s.core target).rwin win).isOpen = true ∧ (rd = true → ((s.core target).rwin win).rd = true)
        ∧ gen = ((s.core target).rwin win).gen ∧ ((s.core target).rwin win).wmask.getLsbD src = true
        ∧ (s.core src).ctx = some ((s.core target).rwin win).ctx ∧ off + n ≤ ((s.core target).rwin win).bound
        ∧ ((s.core target).rwin win).base + off + n ≤ ((s.core target).area ((s.core target).rwin win).ctx).bound
        ∧ r = ((s.core target).area ((s.core target).rwin win).ctx).base + ((s.core target).rwin win).base + off := by
  have hdir : (!rd || ((s.core target).rwin win).rd) = true ↔ (rd = true → ((s.core target).rwin win).rd = true) := by
    cases rd <;> simp
  simp only [State.windowRow, Option.ite_none_right_eq_some, Bool.and_eq_true, beq_iff_eq, decide_eq_true_eq, Option.some.injEq, hdir, and_assoc,
    eq_comm (a := r)]

/-! ### Writes -/

/-- The oldest write in flight of a pair arrives (R22). -/
theorem exec_remoteWriteArrive_counted (hv : s.serving = true) (hs : a.src < 32) (ht : a.target < 32) (hc : a.counted = true)
    (ho : s.oldestWrite a.src a.target = some w) : exec (.remoteWriteArrive a rows) s = .next (s.arriveWrite w) := by
  simp [exec, execRemoteWriteArrive, hv, hs, ht, hc, ho]

/-- A write that no counter saw leave arrives (R327). -/
theorem exec_remoteWriteArrive_uncounted (hv : s.serving = true) (hs : a.src < 32) (ht : a.target < 32) (hc : a.counted = false) (hw : a.win < 4)
    (hl : 512 ≤ rows.length) (hm : rows.length % 512 = 0) : exec (.remoteWriteArrive a rows) s = .next (s.remoteWrite a rows) := by
  simp [exec, execRemoteWriteArrive, hv, hs, ht, hc, hw, hl, hm]

/-- A write in flight that the window refuses is taken and its writer's context torn down. -/
theorem State.arriveWrite_refused (h : s.windowRow w.src w.target w.win w.gen false w.offset (w.rows.length / 512) = none) :
    s.arriveWrite w = (s.takeWrite w).refuseWrite w := by
  simp [State.arriveWrite, h]

section
variable (h : s.windowRow w.src w.target w.win w.gen false w.offset (w.rows.length / 512) = some r)
include h

/-- An admitted write in flight lands where its banks are ready. -/
theorem State.arriveWrite_ready
    (hb : (s.core w.target).bankMeet ((s.core w.target).rwin w.win).ctx r (w.rows.length / 512) = .ready) :
    s.arriveWrite w = (s.takeWrite w).writeRowsAt w.target r w.rows := by
  simp [State.arriveWrite, h, hb]

/-- It waits where they wake or clear (R302, R326). -/
theorem State.arriveWrite_held
    (hb : (s.core w.target).bankMeet ((s.core w.target).rwin w.win).ctx r (w.rows.length / 512) = .held) : s.arriveWrite w = s := by
  simp [State.arriveWrite, h, hb]

/-- One that its banks counted waits in a bank without power (R324). -/
theorem State.arriveWrite_dark_counted
    (hb : (s.core w.target).bankMeet ((s.core w.target).rwin w.win).ctx r (w.rows.length / 512) = .dark) (hc : w.counted.isSome = true) :
    s.arriveWrite w = s := by
  simp [State.arriveWrite, h, hb, hc]

/-- One that no bank counted is dropped there (R327). -/
theorem State.arriveWrite_dark_uncounted
    (hb : (s.core w.target).bankMeet ((s.core w.target).rwin w.win).ctx r (w.rows.length / 512) = .dark) (hc : w.counted = none) :
    s.arriveWrite w = (s.takeWrite w).bankDrop w.src w.target r (w.rows.length / 512) 3 := by
  simp [State.arriveWrite, h, hb, hc]

end

/-- A write that no counter saw leave and the window refuses ends its writer's context with PERMISSION (R314). -/
theorem State.remoteWrite_refused (h : s.remoteRow a false (rows.length / 512) = none) : s.remoteWrite a rows = s.coreFault a.src 0x25 := by
  simp [State.remoteWrite, h]

section
variable (h : s.remoteRow a false (rows.length / 512) = some r)
include h

/-- Admitted, it lands where its banks are ready, and is acknowledged later. -/
theorem State.remoteWrite_ready (hb : (s.core a.target).bankMeet ((s.core a.target).rwin a.win).ctx r (rows.length / 512) = .ready) :
    s.remoteWrite a rows =
      (s.writeRowsAt a.target r rows).setCore a.src { (s.writeRowsAt a.target r rows).core a.src with
        loomDue := ((s.writeRowsAt a.target r rows).core a.src).loomDue ++ [a.target] } := by
  simp [State.remoteWrite, h, hb]

/-- It waits where they wake or clear. -/
theorem State.remoteWrite_held (hb : (s.core a.target).bankMeet ((s.core a.target).rwin a.win).ctx r (rows.length / 512) = .held) :
    s.remoteWrite a rows = s := by
  simp [State.remoteWrite, h, hb]

/-- It is dropped in a bank without power (R327). -/
theorem State.remoteWrite_dark (hb : (s.core a.target).bankMeet ((s.core a.target).rwin a.win).ctx r (rows.length / 512) = .dark) :
    s.remoteWrite a rows = s.bankDrop a.src a.target r (rows.length / 512) 3 := by
  simp [State.remoteWrite, h, hb]

end

/-! ### Reads -/

/-- A read of at least one row arrives. -/
theorem exec_remoteReadArrive (hv : s.serving = true) (hs : a.src < 32) (ht : a.target < 32) (hw : a.win < 4) (hn : 1 ≤ n) :
    exec (.remoteReadArrive a n) s = .next (s.remoteRead a n) := by
  have hne : n ≠ 0 := by omega
  simp [exec, execRemoteReadArrive, hv, hs, ht, hw, hne]

/-- A read that the window refuses ends its reader's context with PERMISSION (R314). -/
theorem State.remoteRead_refused (h : s.remoteRow a true n = none) : s.remoteRead a n = s.coreFault a.src 0x25 := by
  simp [State.remoteRead, h]

/-- Rows none of which is poisoned and whose codes check clean deliver their data. -/
theorem State.checkRows_clean {c : Nat} {rs : List ReadAt} (h : s.poisonedRow c rs = none) : s.checkRows c x .clean rs = (true, s) := by
  simp [State.checkRows, h]

/-- A poisoned row ends the read whatever its code check met (R322). -/
theorem State.checkRows_poisoned {c : Nat} {rs : List ReadAt} {ecc : EccOutcome} {p : ReadAt} (h : s.poisonedRow c rs = some p) :
    s.checkRows c x ecc rs = (false, s.readLasting c x p) := by
  simp [State.checkRows, h]

section
variable (h : s.remoteRow a true n = some r)
  (hx : (s.core a.src).ctx.bind (fun ctx => s.desc? (s.kernel ctx).d) = some x)
include h hx

/-- An admitted read of clean rows brings them to its source (R23). -/
theorem State.remoteRead_clean (hb : (s.core a.target).bankMeet ((s.core a.target).rwin a.win).ctx r n = .ready)
    (hp : s.poisonedRow a.target ((upTo n).map (fun i => ReadAt.osp (r + i))) = none) (he : a.ecc = .clean) :
    s.remoteRead a n = s.setCore a.src { s.core a.src with inbox := (s.core a.target).rows r n } := by
  simp [State.remoteRead, h, hx, hb, he, State.checkRows_clean hp, State.bringRows]

/-- An admitted read of a poisoned row ends its reader's context (R322). -/
theorem State.remoteRead_poisoned {p : ReadAt} (hb : (s.core a.target).bankMeet ((s.core a.target).rwin a.win).ctx r n = .ready)
    (hp : s.poisonedRow a.target ((upTo n).map (fun i => ReadAt.osp (r + i))) = some p) :
    s.remoteRead a n = s.readLasting a.target x p := by
  simp [State.remoteRead, h, hx, hb, State.checkRows_poisoned hp]

/-- An admitted read waits where its banks are not ready (R320, R326). -/
theorem State.remoteRead_waits (hb : (s.core a.target).bankMeet ((s.core a.target).rwin a.win).ctx r n ≠ .ready) : s.remoteRead a n = s := by
  cases hm : (s.core a.target).bankMeet ((s.core a.target).rwin a.win).ctx r n with
  | ready => exact absurd hm hb
  | held => simp [State.remoteRead, h, hx, hm]
  | dark => simp [State.remoteRead, h, hx, hm]

end

/-! ### Acknowledgements -/

/-- An acknowledged write lets the posts of its core go (R22). -/
theorem exec_loomWriteAck {c node : Nat} (hv : s.serving = true) (hc : c < 32) (hf : (s.core c).loomDue.find? (s.ackDue c) = some node) :
    exec (.loomWriteAck c) s = .next ((s.setCore c { s.core c with loomDue := (s.core c).loomDue.erase node }).sendPosts c) := by
  simp [exec, execLoomWriteAck, hv, hc, hf]

/-- Settles O53: writes in flight, writes that no counter saw leave, reads and acknowledgements, each by what its window and its banks say
(R22, R23, R314, R320 to R327). -/
theorem remoteAccessesAreCheckedAtTheTarget : Obligations.RemoteAccessesAreCheckedAtTheTarget := by
  unfold Obligations.RemoteAccessesAreCheckedAtTheTarget
  refine ⟨fun s a rows n hv hs ht => ⟨?counted, ?uncounted, ?read, ?ack⟩, ?window⟩
  case counted =>
    intro hc w ho len
    rw [exec_remoteWriteArrive_counted hv hs ht hc ho]
    refine ⟨fun h => ?_, fun r h => ⟨fun hb => ?_, fun hb => ?_, fun hb hw => ?_, fun hb hw => ?_⟩⟩
    · rw [State.arriveWrite_refused h]
    · rw [State.arriveWrite_ready h hb]
    · rw [State.arriveWrite_held h hb]
    · rw [State.arriveWrite_dark_counted h hb hw]
    · rw [State.arriveWrite_dark_uncounted h hb hw]
  case uncounted =>
    intro hc hw hl hm
    rw [exec_remoteWriteArrive_uncounted hv hs ht hc hw hl hm]
    refine ⟨fun r h => ⟨fun hb => ?_, fun hb => ?_, fun hb => ?_⟩, fun h => ?_⟩
    · rw [State.remoteWrite_ready h hb]
    · rw [State.remoteWrite_held h hb]
    · rw [State.remoteWrite_dark h hb]
    · rw [State.remoteWrite_refused h]
  case read =>
    intro hn hw
    rw [exec_remoteReadArrive hv hs ht hw hn]
    refine ⟨fun h => ?_, fun r x h hx => ⟨fun hb hp he => ?_, fun p hb hp => ?_, fun hb => ?_⟩⟩
    · rw [State.remoteRead_refused h]
    · rw [State.remoteRead_clean h hx hb hp he]
    · rw [State.remoteRead_poisoned h hx hb hp]
    · rw [State.remoteRead_waits h hx hb]
  case ack => exact fun node hf => exec_loomWriteAck hv hs hf
  case window => exact fun s src target win off n r gen rd => State.windowRow_eq_some_iff

end Sys2Proof.Machine
end

section
/-!
SUPPORT. Control cores and turns (R29 to R32, R470 to R473): what strikes a control core, the take-back of a context, and how a budget
expires and a turn ends. O56 is their short consequence.
-/

namespace Sys2Proof.Machine

variable {s : State} {n ctx overrun : Nat}

/-! ### Control cores -/

/-- The log and the mailbox's reports play no part in whether the block runs work. -/
@[simp] theorem State.logEvent_serving {event cls unit index place k : Nat} {tag : Word} :
    (s.logEvent event cls unit index place k tag).serving = s.serving := by
  unfold State.logEvent
  dsimp only
  split <;> rfl

/-- The log leaves the control cores alone. -/
@[simp] theorem State.logEvent_ccore {event cls unit index place k m : Nat} {tag : Word} :
    (s.logEvent event cls unit index place k tag).ccore m = s.ccore m := by
  unfold State.logEvent
  dsimp only
  split <;> rfl

/-- What strikes a control core in service of a block that runs work. -/
theorem exec_watchdogExpiry {e : CcoreEvent} (hv : s.serving = true) (hn : n < 4) (hc : (s.ccore n).inService = true) :
    exec (.watchdogExpiry n e) s = .next (s.ccoreStruck n e) := by
  simp [exec, execWatchdogExpiry, hv, hn, hc]

/-- A word that is lost is an expiry of the watchdog, once logged (R29, R481). -/
theorem exec_watchdogExpiry_lost {word : Nat} {ok : Bool} (hv : s.serving = true) (hn : n < 4) (hc : (s.ccore n).inService = true) :
    exec (.watchdogExpiry n (.lost word ok)) s = exec (.watchdogExpiry n (.watchdog ok)) (s.logEvent 0x02 2 2 n (word % 2 ^ 18)) := by
  rw [exec_watchdogExpiry hv hn hc, exec_watchdogExpiry (by simpa using hv) hn (by simpa using hc)]
  rfl

/-- A control core that its watchdog finds idle, logged: it restarts, or leaves service where its memory fails too (R29, R480). -/
def State.ccoreReset (s : State) (n : Nat) (ok : Bool) : State :=
  let v := s.logEvent 0x0C (if ok then 1 else 2) 2 n (n + if ok then 0 else 2 ^ 63)
  (if ok then v.noteRepeat 0x0C 2 n n else v).setCcore n { inService := ok, restarted := ok }

/-- With no control core left in service the engine is fatal with cause 4 (R32). -/
theorem State.ccoreExpiry_fatal {ok : Bool} (h : ∀ k, k < 4 → ((s.ccoreReset n ok).ccore k).inService = false) :
    s.ccoreExpiry n ok = (s.ccoreReset n ok).enterFatal 4 := by
  have hall : (upTo 4).all (fun k => !((s.ccoreReset n ok).ccore k).inService) = true := by
    simpa [upTo] using h
  exact if_pos hall

/-- Else its contexts pass to the next core in service, one after the other, and what they were doing is done again; one that finds no
other core in service stays (R30, R31; log 50). -/
theorem State.ccoreExpiry_passes {ok : Bool} (h : ∃ k, k < 4 ∧ ((s.ccoreReset n ok).ccore k).inService = true) :
    s.ccoreExpiry n ok =
      ((upTo 32).filter (fun c => (s.ctx c).enable && (s.ctx c).owner == n)).foldl (fun t c =>
        (t.setCtx c { t.ctx c with owner := (([1, 2, 3].map (fun i => (n + i) % 4)).find? (fun k => (t.ccore k).inService)).getD n,
                                   uTurn := false, uExpired := false }).redoContext c) (s.ccoreReset n ok) := by
  have hall : ¬ (upTo 4).all (fun k => !((s.ccoreReset n ok).ccore k).inService) = true := by
    simpa [upTo] using h
  exact if_neg hall

/-! ### The take-back -/

/-- A context is between its kernels where none runs, has yielded or is halted, and no loop of it is within a step (R30, R375, R471). -/
theorem State.betweenKernels_iff :
    s.betweenKernels ctx = true ↔ (s.kernel ctx).live = false ∧ (s.kernel ctx).paused = false
      ∧ (∀ x ∈ s.descs, x.ctx = ctx → x.st = .halted → isKernelOp x.opcode = false)
      ∧ ∀ k ∈ s.ctxLoops ctx, (s.loopAt k).inStep = false := by
  simp [State.betweenKernels, and_assoc]

/-- A restarted core takes a context back between its kernels, and waits else (R30). -/
theorem exec_controlCoreTakeback (hv : s.serving = true) (hctx : ctx < 32) (he : (s.ctx ctx).enable = true)
    (hs : (s.ccore (ctx % 4)).inService = true) (hr : (s.ccore (ctx % 4)).restarted = true) :
    exec (.controlCoreTakeback ctx) s =
      .next (if s.betweenKernels ctx = true then s.setCtx ctx { s.ctx ctx with owner := ctx % 4, uTurn := false, uExpired := false } else s) := by
  simp [exec, execControlCoreTakeback, ownCcore, hv, hctx, he, hs, hr]

/-! ### Budgets and turns -/

/-- The budget of a turn on the cluster set that expires is noted (R470). -/
theorem exec_budgetExpiry_set (hv : s.serving = true) (hctx : ctx < 32) (ht : (s.ctx ctx).turn = true) :
    exec (.budgetExpiry ⟨ctx, false⟩) s = .next (s.setCtx ctx { s.ctx ctx with expired := true }) := by
  simp [exec, execBudgetExpiry, hv, hctx, ht]

/-- The budget of a turn on the control core that expires is noted (R472). -/
theorem exec_budgetExpiry_unit (hv : s.serving = true) (hctx : ctx < 32) (ht : (s.ctx ctx).uTurn = true) :
    exec (.budgetExpiry ⟨ctx, true⟩) s = .next (s.setCtx ctx { s.ctx ctx with uExpired := true }) := by
  simp [exec, execBudgetExpiry, hv, hctx, ht]

/-- A context without a turn on the cluster set has none whose budget expires. -/
theorem exec_budgetExpiry_set_none (ht : (s.ctx ctx).turn = false) : exec (.budgetExpiry ⟨ctx, false⟩) s = .next s := by
  simp [exec, execBudgetExpiry, ht]

/-- A context without a turn on the control core has none whose budget expires. -/
theorem exec_budgetExpiry_unit_none (ht : (s.ctx ctx).uTurn = false) : exec (.budgetExpiry ⟨ctx, true⟩) s = .next s := by
  simp [exec, execBudgetExpiry, ht]

/-- At a preemption point the turn on the cluster set ends once its budget has expired or nothing of the context is ready (R470, R471). -/
theorem exec_turnEnd_set (hv : s.serving = true) (hctx : ctx < 32) (ht : (s.ctx ctx).turn = true)
    (hover : (s.ctx ctx).expired = true ∨ (s.kernelReady ctx = false ∧ (s.kernel ctx).live = false)) (hp : s.atPreemption ctx = true) :
    exec (.turnEnd ⟨ctx, false⟩ overrun) s = .next ((s.yieldKernel ctx).passTurn ctx overrun) := by
  have hover' : ((s.ctx ctx).expired || (!s.kernelReady ctx && !(s.kernel ctx).live)) = true := by simpa using hover
  simp [exec, execTurnEnd, State.endSetTurn, hv, hctx, ht, hover', hp]

/-- The turn on the control core ends likewise and frees the check-value units (R444, R472). -/
theorem exec_turnEnd_unit (hv : s.serving = true) (hctx : ctx < 32) (ht : (s.ctx ctx).uTurn = true)
    (hover : (s.ctx ctx).uExpired = true ∨ s.unitReady ctx = false) :
    exec (.turnEnd ⟨ctx, true⟩ overrun) s = .next ((s.leaveCvus ctx).passTurnOf true ctx overrun) := by
  have hover' : ((s.ctx ctx).uExpired || !s.unitReady ctx) = true := by simpa using hover
  simp [exec, execTurnEnd, State.endUnitTurn, hv, hctx, ht, hover']

/-- A context without a turn on the cluster set ends none. -/
theorem exec_turnEnd_set_none (ht : (s.ctx ctx).turn = false) : exec (.turnEnd ⟨ctx, false⟩ overrun) s = .next s := by
  simp [exec, execTurnEnd, State.endSetTurn, ht]

/-- A context without a turn on the control core ends none. -/
theorem exec_turnEnd_unit_none (ht : (s.ctx ctx).uTurn = false) : exec (.turnEnd ⟨ctx, true⟩ overrun) s = .next s := by
  simp [exec, execTurnEnd, State.endUnitTurn, ht]

/-- Settles O56: what strikes a control core, the take-back of a context, and the ends of budgets and turns (R29 to R32, R470 to R473). -/
theorem turnsAndControlCores : Obligations.TurnsAndControlCores := by
  unfold Obligations.TurnsAndControlCores
  intro s n ctx overrun hv c
  refine ⟨?struck, ?takeback, exec_budgetExpiry_set hv, exec_budgetExpiry_unit hv, exec_turnEnd_set hv, exec_turnEnd_unit hv, ?noTurn, ?noUnitTurn⟩
  case struck =>
    intro hn hc ok mine v u
    refine ⟨fun word => ⟨exec_watchdogExpiry hv hn hc, exec_watchdogExpiry_lost hv hn hc⟩, fun hnone => ?_, fun hsome => ?_⟩
    · exact (exec_watchdogExpiry hv hn hc).trans (congrArg _ (State.ccoreExpiry_fatal hnone))
    · exact (exec_watchdogExpiry hv hn hc).trans (congrArg _ (State.ccoreExpiry_passes hsome))
  case takeback =>
    intro hctx he hs hr
    rw [exec_controlCoreTakeback hv hctx he hs hr]
    exact ⟨fun hb => by rw [if_pos hb], fun hb => by rw [hb]; rfl, State.betweenKernels_iff⟩
  case noTurn => exact fun ht => ⟨exec_budgetExpiry_set_none ht, exec_turnEnd_set_none ht⟩
  case noUnitTurn => exact fun ht => ⟨exec_budgetExpiry_unit_none ht, exec_turnEnd_unit_none ht⟩

end Sys2Proof.Machine
end

section
/-!
SUPPORT. Kernels on their cores (R298 to R304, R330 to R338, R375): KERNEL_START and KERNEL_END, the words that the Piste sequencer
evaluates itself, and the issue queues that it feeds. O43 is their short consequence.
-/

namespace Sys2Proof.Machine

variable {s : State} {d : Did} {x : Desc} {plan p : Plan} {cluster ctx c n : Nat} {st : Step} {w : Work}

/-! ### KERNEL_START -/

/-- What a put of an entry that is not the default leaves at its key, in any table. -/
theorem getAt_putAt_of_ne {α : Type} [DecidableEq α] {d v : α} {t : Table α} {k : Nat} (hv : v ≠ d) : getAt d (putAt d t k v) k = v := by
  induction t with
  | nil => simp [putAt, getAt, hv]
  | cons e t ih =>
    obtain ⟨k₁, u⟩ := e
    rcases Nat.lt_trichotomy k k₁ with hlt | rfl | hgt
    · simp [putAt, getAt, hlt, hv]
    · simp [putAt, getAt, hv]
    · simp [putAt, getAt, show ¬ k < k₁ by omega, show k ≠ k₁ by omega, ih]

/-- A turn taken leaves the kernels alone. -/
@[simp] theorem State.takeTurn_kernel {k m : Nat} : (s.takeTurn k).kernel m = s.kernel m := by
  unfold State.takeTurn
  split <;> rfl

/-- A boundary of a cluster's clock and power leaves the kernels alone. -/
theorem State.boundary_kernels {m : Nat} {busy : Bool} : ((s.clockBoundary m).powerBoundary m busy).kernels = s.kernels := by
  unfold State.powerBoundary
  dsimp only
  split_ifs <;> rfl

/-- A kernel boundary leaves the kernels alone. -/
@[simp] theorem State.kernelBoundary_kernel {k m : Nat} {busy : Bool} : (s.kernelBoundary k busy).kernel m = s.kernel m := by
  have hfold : ∀ (l : List Nat) (u : State), (l.foldl (fun s n => (s.clockBoundary n).powerBoundary n busy) u).kernels = u.kernels := by
    intro l
    induction l with
    | nil => exact fun u => rfl
    | cons n l ih => exact fun u => (ih _).trans State.boundary_kernels
  exact congrArg (getAt Kernel.reset · m) (hfold _ s)

/-- A kernel that resumes does so after its boundary too. -/
theorem State.resuming_boundary {k : Nat} {busy : Bool} : ((s.takeTurn k).kernelBoundary k busy).resuming x = s.resuming x := by
  simp [State.resuming]

/-- A plan on a cluster that is fused off ends the kernel BAD_DESC (R3). -/
theorem exec_kernelStart_absent (hx : s.running? d [0x01, 0x02, 0x03, 0x04, 0x05, 0x06, 0x07] = some x) (ht : s.kernelTurn x = true)
    (hl : (s.kernel x.ctx).live = false) (ha : s.planAbsent (s.startPlan x plan) = true) :
    exec (.kernelStart d plan) s = .next (s.retire x 0x03 0xFFFF) := by
  simp [exec, execKernelStart, hx, ht, hl, ha]

/-- A kernel that is ready on a plan that its loader allows is started. -/
theorem exec_kernelStart_ready (hx : s.running? d [0x01, 0x02, 0x03, 0x04, 0x05, 0x06, 0x07] = some x)
    (ha : s.planAbsent (s.startPlan x plan) = false) (ho : planOk (s.startPlan x plan) (s.ctxCores x.ctx) = true)
    (ht : s.slotsTaken x.ctx (s.startPlan x plan) = false) (hr : s.startReady x (s.startPlan x plan) = true) :
    exec (.kernelStart d plan) s = .next (s.startKernel x (s.startPlan x plan)) := by
  simp [exec, execKernelStart, hx, ha, ho, ht, hr]

/-- A parameter block that is refused ends a kernel that does not resume. -/
theorem State.startKernel_blockRefused (hr : s.resuming x = false) (hb : s.blockRefused x = some w) :
    s.startKernel x p = s.conclude x w := by
  simp [State.startKernel, hr, hb]

/-- What a start refuses of a kernel's parameter block: nothing where the kernel resumes. -/
theorem startBlock_none (hb : s.resuming x = false → s.blockRefused x = none) : (if s.resuming x then none else s.blockRefused x) = none := by
  cases hr : s.resuming x <;> simp [hr, hb]

section
variable (hb : s.resuming x = false → s.blockRefused x = none)
include hb

/-- An SS range that is refused ends it (R311). -/
theorem State.startKernel_ssRefused (hs : s.ssRefused x p = some w) : s.startKernel x p = s.conclude x w := by
  simp only [State.startKernel, startBlock_none hb, hs]

variable (hs : s.ssRefused x p = none)
include hs

/-- A bank map or a region that does not fit its area ends it BAD_DESC (R299, R304). -/
theorem State.startKernel_unfit (hf : p.cores.all (s.planFits x.ctx) = false) : s.startKernel x p = s.retire x 0x03 0xFFFF := by
  simp [State.startKernel, startBlock_none hb, hs, hf]

variable (hf : p.cores.all (s.planFits x.ctx) = true)
include hf

/-- A map that takes a port code from a bank under an open window of the context tears the context down (R315). -/
theorem State.startKernel_clash {k : CorePlan} (hc : p.cores.find? (fun k => (s.core k.core).mapClash x.ctx k) = some k) :
    s.startKernel x p = s.tearDown x.ctx 0x24 k.core k.core (some x.did) := by
  simp [State.startKernel, startBlock_none hb, hs, hf, hc]

variable (hc : p.cores.find? (fun k => (s.core k.core).mapClash x.ctx k) = none)
include hc

/-- A kernel that fits takes the turn, passes a boundary of its clusters and is placed; the SEM_OPs that wait on its cores are its own then
(R370, R375). -/
theorem State.startKernel_places (hr : s.resuming x = false) :
    s.startKernel x p =
      (((s.takeTurn x.ctx).kernelBoundary x.ctx true).placeKernel x p).bindSems x.ctx (p.cores.map CorePlan.core) x.did := by
  simp [State.startKernel, hb, hs, hf, hc, hr, State.resuming_boundary]

omit hb in
/-- A paused kernel is taken up again (R471). -/
theorem State.startKernel_resumes (hr : s.resuming x = true) :
    s.startKernel x p =
      (((s.takeTurn x.ctx).kernelBoundary x.ctx true).resumeKernel x).bindSems x.ctx (p.cores.map CorePlan.core) x.did := by
  simp [State.startKernel, hs, hf, hc, hr, State.resuming_boundary]

end

/-- A kernel that is set reads back where it is not the reset one. -/
theorem State.kernel_setKernel_of_ne {k : Kernel} (h : k ≠ Kernel.reset) : (s.setKernel n k).kernel n = k := getAt_putAt_of_ne h

/-- A live kernel is not the reset one. -/
theorem Kernel.ne_reset_of_live {k : Kernel} (h : k.live = true) : k ≠ Kernel.reset := by
  rintro rfl
  exact Bool.false_ne_true h

/-- A placed kernel is live, the descriptor's own, on its plan. -/
theorem State.kernel_placeKernel :
    ((s.placeKernel x p).kernel x.ctx).live = true ∧ ((s.placeKernel x p).kernel x.ctx).d = x.did
      ∧ ((s.placeKernel x p).kernel x.ctx).plan = p := by
  unfold State.placeKernel
  dsimp only
  rw [State.kernel_setKernel_of_ne (Kernel.ne_reset_of_live rfl)]
  exact ⟨rfl, rfl, rfl⟩

/-! ### KERNEL_END -/

/-- A kernel that is not over does not end. -/
theorem exec_kernelEnd_waits (ho : s.kernelOver ctx = false) : exec (.kernelEnd ctx) s = .next s := by
  simp [exec, execKernelEnd, ho]

/-- A kernel that is over stores its histogram, releases what it held and retires its descriptor (R338, R460). -/
theorem exec_kernelEnd_ends (hctx : ctx < 32) (hv : s.serving = true) (ho : s.kernelOver ctx = true) (hh : s.histBad ctx = none) :
    exec (.kernelEnd ctx) s = .next (s.endKernel ctx) := by
  simp [exec, execKernelEnd, hctx, hv, ho, hh]

/-- A histogram that does not resolve ends it with what the store meets. -/
theorem exec_kernelEnd_histBad {r : Run} {a : Acc} (hctx : ctx < 32) (hv : s.serving = true) (ho : s.kernelOver ctx = true)
    (hh : s.histBad ctx = some (x, r, a)) : exec (.kernelEnd ctx) s = .next (s.conclude x (workOfAcc r a)) := by
  simp [exec, execKernelEnd, hctx, hv, ho, hh]

/-! ### Words that the sequencer evaluates -/

section
variable (hx : s.pisteDesc cluster ctx = some x)
include hx

section
variable (hn : (s.pisteAt cluster ctx).checked = false)
include hn

/-- A table whose check failed twice is an expiry of its control core (R28, R29). -/
theorem exec_pisteHead_failed {ok : Bool} : exec (.pisteHead cluster ctx (.failed ok)) s = .next (s.ccoreExpiry (s.ctx ctx).owner ok) := by
  simp [exec, execPisteHead, hx, hn, cmdFails, cmdImemOk]

/-- So is one whose words have another CRC than its HEAD's (R330). -/
theorem exec_pisteHead_badCrc {b : CmdCheck} (hc : (s.pisteAt cluster ctx).crcOk = false) (hb : ∀ ok, b ≠ .failed ok) :
    exec (.pisteHead cluster ctx b) s = .next (s.ccoreExpiry (s.ctx ctx).owner true) := by
  cases b with
  | failed ok => exact absurd rfl (hb ok)
  | matched => simp [exec, execPisteHead, hx, hn, hc, cmdImemOk]
  | again => simp [exec, execPisteHead, hx, hn, hc, cmdImemOk]

variable (hc : (s.pisteAt cluster ctx).crcOk = true)
include hc

/-- A HEAD that breaks its rules stops the table (R331, R332). -/
theorem exec_pisteHead_badHead {b : CmdCheck} (hh : (s.pisteAt cluster ctx).headOk = false) (hb : ∀ ok, b ≠ .failed ok) :
    exec (.pisteHead cluster ctx b) s = .next (s.pisteStop x) := by
  cases b with
  | failed ok => exact absurd rfl (hb ok)
  | matched => simp [exec, execPisteHead, hx, hn, hc, hh, cmdFails]
  | again => simp [exec, execPisteHead, hx, hn, hc, hh, cmdFails]

variable (hh : (s.pisteAt cluster ctx).headOk = true)
include hh

/-- After a HEAD that is right the sequencer goes on from the first step (R330). -/
theorem exec_pisteHead_matched :
    exec (.pisteHead cluster ctx .matched) s = .next ((s.setPiste cluster ctx { s.pisteAt cluster ctx with
      checked := true, cur := { pc := (s.pisteAt cluster ctx).nstr + 1, frames := [] } }).feed cluster ctx feedFuel) := by
  simp [exec, execPisteHead, hx, hn, hc, hh, cmdFails]

/-- So it does where the table was regenerated once, which is noted (R28, R480). -/
theorem exec_pisteHead_again :
    exec (.pisteHead cluster ctx .again) s = .next (((s.tableRetried x).setPiste cluster ctx { s.pisteAt cluster ctx with
      checked := true, cur := { pc := (s.pisteAt cluster ctx).nstr + 1, frames := [] } }).feed cluster ctx feedFuel) := by
  simp [exec, execPisteHead, hx, hn, hc, hh, cmdFails]

end

/-- A LOOP word that keeps its rules is entered (R335). -/
theorem exec_pisteLoop_enters (hs : (s.pisteAt cluster ctx).standsAt st 0x02 = true)
    (ho : (s.pisteAt cluster ctx).loopOk (s.pisteAt cluster ctx).cur.pc (s.pisteAt cluster ctx).cur.frames.length = true) :
    exec (.pisteLoop cluster ctx st) s = .next ((s.setPiste cluster ctx { s.pisteAt cluster ctx with
      cur := (s.pisteAt cluster ctx).cur.enter }).feed cluster ctx feedFuel) := by
  simp [exec, execPisteLoop, hx, hs, ho]

/-- One that breaks them stops the table (R331). -/
theorem exec_pisteLoop_stops (hs : (s.pisteAt cluster ctx).standsAt st 0x02 = true)
    (ho : (s.pisteAt cluster ctx).loopOk (s.pisteAt cluster ctx).cur.pc (s.pisteAt cluster ctx).cur.frames.length = false) :
    exec (.pisteLoop cluster ctx st) s = .next (s.pisteStop x) := by
  simp [exec, execPisteLoop, hx, hs, ho]

/-- A SKEIN word that keeps its rules gives its body to the skeins, and the sequencer goes on after it (R336, R337). -/
theorem exec_pisteSkein_passes (hs : (s.pisteAt cluster ctx).standsAt st 0x03 = true)
    (ho : (s.pisteAt cluster ctx).skeinOk (s.pisteAt cluster ctx).cur.pc = true) :
    exec (.pisteSkein cluster ctx st) s = .next ((s.setPiste cluster ctx { s.pisteAt cluster ctx with
      skein := some (s.pisteAt cluster ctx).cur.pc,
      cur := { pc := (s.pisteAt cluster ctx).cur.pc + bodyLen ((s.pisteAt cluster ctx).word (s.pisteAt cluster ctx).cur.pc) + 1, frames := [] } }).feed
        cluster ctx feedFuel) := by
  simp [exec, execPisteSkein, hx, hs, ho]

/-- One that breaks them stops the table (R331). -/
theorem exec_pisteSkein_stops (hs : (s.pisteAt cluster ctx).standsAt st 0x03 = true)
    (ho : (s.pisteAt cluster ctx).skeinOk (s.pisteAt cluster ctx).cur.pc = false) :
    exec (.pisteSkein cluster ctx st) s = .next (s.pisteStop x) := by
  simp [exec, execPisteSkein, hx, hs, ho]

end

/-! ### Steps at the head of a queue -/

/-- A step of the right opcode, its reserved bits zero, that is performed is done at the head of its queue. -/
theorem State.issue_done {op width : Nat} {act : State → Desc → StepRes} {u : State} (hi : s.issuing c st = some x) (ho : stepOp st.word = op)
    (hr : stepReserved st.word width = true) (ha : act s x = .done u) : s.issue c st op width act = (u.arrayCycles c op).stepDone c := by
  simp [State.issue, hi, ho, hr, ha]

/-- A step that is no step of the array has no array cycles. -/
theorem State.arrayCycles_of_lt {op : Nat} (h : op < 0x10) : s.arrayCycles c op = s := if_neg (by simp; omega)

/-- A NOP at the head of a queue is done (R333). -/
theorem exec_pisteNop_done (hi : s.issuing c st = some x) (ho : stepOp st.word = 0x00) (hr : stepReserved st.word 0 = true) :
    exec (.pisteNop c st) s = .next (s.stepDone c) := by
  have hop : stepOp st.word ∈ stepOps := by rw [ho]; decide
  have hdone := State.issue_done (act := fun s _ => .done s) hi ho hr rfl
  rw [State.arrayCycles_of_lt (by decide)] at hdone
  simp [exec, execPisteNop, hi, hop, hdone]

/-- A reserved opcode at the head of a queue stops the table (R331). -/
theorem exec_pisteNop_reserved (hi : s.issuing c st = some x) (ho : stepOps.contains (stepOp st.word) = false) :
    exec (.pisteNop c st) s = .next (s.pisteStop x) := by
  have hop : stepOp st.word ∉ stepOps := by simpa using ho
  simp [exec, execPisteNop, hi, hop]

/-- An END at the head of a queue is the core's last step (R332, R338). -/
theorem exec_pisteEnd_done (hi : s.issuing c st = some x) (ho : stepOp st.word = 0x01) (hr : stepReserved st.word 0 = true) :
    exec (.pisteEnd c st) s = .next ((s.setCore c { s.core c with endIssued := true }).stepDone c) := by
  have hdone := State.issue_done (act := fun s _ => .done (s.setCore c { s.core c with endIssued := true })) hi ho hr rfl
  rw [State.arrayCycles_of_lt (by decide)] at hdone
  exact congrArg _ hdone

/-! ### The issue queues -/

section
variable (hx : s.pisteDesc cluster ctx = some x)
include hx

/-- A step that breaks its rules stops the table (R331). -/
theorem State.feed_stops (ha : (s.pisteAt cluster ctx).act cluster = .stop) : s.feed cluster ctx (n + 1) = s.pisteStop x := by
  simp [State.feed, hx, ha]

/-- The sequencer waits at a word that waits for its command, and at the end (R337). -/
theorem State.feed_waits (ha : (s.pisteAt cluster ctx).act cluster = .wait) : s.feed cluster ctx (n + 1) = s := by
  simp [State.feed, hx, ha]

variable {cs : List Nat} {last : Bool} (ha : (s.pisteAt cluster ctx).act cluster = .write cs last)
include ha

/-- The step goes into the queues of the cores it names once each has room, and the sequencer goes on to the next (R337). -/
theorem State.feed_writes (hq : ∀ i ∈ cs, (s.core i).queue.length < 16) :
    s.feed cluster ctx (n + 1) =
      ((s.enqueue cs { word := (s.pisteAt cluster ctx).cur.pc, loops := (s.pisteAt cluster ctx).cur.loops,
                       after := (s.pisteAt cluster ctx).skein.isSome }).setPiste cluster ctx
        { s.pisteAt cluster ctx with cur := (s.pisteAt cluster ctx).next (s.pisteAt cluster ctx).cur, done := last }).feed cluster ctx n := by
  have hroom : cs.all (fun i => decide ((s.core i).queue.length < queueDepth)) = true := 
    List.all_eq_true.mpr (fun i hi => decide_eq_true (hq i hi))
  simp only [State.feed, hx, ha, hroom, if_true]

/-- It waits while one of them is full. -/
theorem State.feed_full (hq : ∃ i ∈ cs, 16 ≤ (s.core i).queue.length) : s.feed cluster ctx (n + 1) = s := by
  obtain ⟨i, hi, hfull⟩ := hq
  have hroom : cs.all (fun i => decide ((s.core i).queue.length < queueDepth)) = false :=
    List.all_eq_false.mpr ⟨i, hi, Bool.eq_false_iff.mp (decide_eq_false (Nat.not_lt.mpr hfull))⟩
  simp only [State.feed, hx, ha, hroom, Bool.false_eq_true, if_false]

end

/-- The step at the front of a queue is at its head before the SKEIN body, or once the core's skeins are over (R336, R337). -/
theorem Core.queueHead_cons {k : Core} {e : QStep} {es : List QStep} (hq : k.queue = e :: es)
    (ha : e.after = false ∨ ∀ v ∈ k.skeins, v.2.st = .none) : k.queueHead = some e := by
  rcases ha with ha | ha
  · simp [Core.queueHead, hq, ha]
  · have hover : k.skeinsOver = true := by simpa [Core.skeinsOver] using fun i v hv => ha (i, v) hv
    simp [Core.queueHead, hq, hover]

section
variable {e : QStep} {es : List QStep} (hc : (s.core c).ctx = some ctx) (hq : (s.core c).queue = e :: es)
  (ha : e.after = false ∨ ∀ v ∈ (s.core c).skeins, v.2.st = .none)
include hc hq ha

/-- A step done at the head of a queue is repeated while repeats of it are left; else it leaves the queue, and the sequencer goes on
(R331, R337). -/
theorem State.stepDone_head :
    s.stepDone c =
      if (s.core c).rep < stepRpt ((s.pisteAt (c / 4) ctx).word e.word) then
        s.setCore c { s.core c with hold := none, streamAt := 0, rep := (s.core c).rep + 1 }
      else (s.setCore c { s.core c with hold := none, streamAt := 0, queue := es, rep := 0 }).feed (c / 4) ctx feedFuel := by
  have hhead : ({ s.core c with hold := none, streamAt := 0 } : Core).queueHead = some e := Core.queueHead_cons hq ha
  have hdrop : (s.core c).queue.drop 1 = es := by rw [hq]; rfl
  unfold State.stepDone
  dsimp only
  split
  case h_1 hnone => exact absurd (hnone.symm.trans hc) nofun
  case h_2 ctx' hsome =>
    obtain rfl : ctx' = ctx := Option.some.inj (hsome.symm.trans hc)
    split
    case h_1 e' he =>
      obtain rfl : e' = e := Option.some.inj (he.symm.trans hhead)
      rw [hdrop]
    case h_2 hnone _ _ => exact absurd (hnone.symm.trans hhead) nofun
    case h_3 hnone _ => exact absurd (hnone.symm.trans hhead) nofun

end

/-- Settles O43: KERNEL_START and KERNEL_END, then the words that the sequencer evaluates itself, then its queues (R298 to R304, R330 to R338,
R375, R471). -/
theorem kernelsStartAndTheSequencerRuns : Obligations.KernelsStartAndTheSequencerRuns := by
  unfold Obligations.KernelsStartAndTheSequencerRuns
  refine ⟨fun s d x plan => ⟨?start, ?kend⟩, fun s cluster ctx c st x => ⟨?pisteHead, ?pisteLoop, ?pisteSkein, ?pisteStep⟩,
    fun s cluster ctx n c x => ⟨?feed, ?stepDone⟩⟩
  case start =>
    intro hx p u
    refine ⟨fun ht hl ha => exec_kernelStart_absent hx ht hl ha, fun ha ho ht hr => ?_⟩
    rw [exec_kernelStart_ready hx ha ho ht hr]
    refine ⟨fun w hn hb => ?_, fun hb => ⟨fun w hs => ?_, fun hs => ⟨fun hf => ?_, fun hf => ⟨fun k hc => ?_, fun hc => ?_⟩⟩⟩⟩
    · rw [State.startKernel_blockRefused hn hb]
    · rw [State.startKernel_ssRefused hb hs]
    · rw [State.startKernel_unfit hb hs hf]
    · rw [State.startKernel_clash hb hs hf hc]
    · exact ⟨fun hn => ⟨by rw [State.startKernel_places hb hs hf hc hn], State.kernel_placeKernel⟩,
        fun hn => by rw [State.startKernel_resumes hs hf hc hn]⟩
  case kend =>
    exact fun k hk hv => ⟨exec_kernelEnd_ends hk hv, fun y r a => exec_kernelEnd_histBad hk hv, exec_kernelEnd_waits⟩
  case pisteHead =>
    intro hx hn
    exact ⟨fun hc hh => ⟨exec_pisteHead_matched hx hn hc hh, exec_pisteHead_again hx hn hc hh⟩, fun ok => exec_pisteHead_failed hx hn,
      fun hc b hb => exec_pisteHead_badCrc hx hn hc hb, fun hc hh b hb => exec_pisteHead_badHead hx hn hc hh hb⟩
  case pisteLoop => exact fun hx hs => ⟨exec_pisteLoop_enters hx hs, exec_pisteLoop_stops hx hs⟩
  case pisteSkein => exact fun hx hs => ⟨exec_pisteSkein_passes hx hs, exec_pisteSkein_stops hx hs⟩
  case pisteStep => exact fun hi => ⟨exec_pisteNop_done hi, exec_pisteNop_reserved hi, exec_pisteEnd_done hi⟩
  case feed =>
    exact fun hx => ⟨State.feed_stops hx, State.feed_waits hx, fun cs last ha => ⟨State.feed_writes hx ha, State.feed_full hx ha⟩⟩
  case stepDone =>
    intro hc e es hq ha k w
    rw [State.stepDone_head hc hq ha]
    exact ⟨fun hr => if_pos hr, fun hr => if_neg (Nat.not_lt.mpr hr)⟩

end Sys2Proof.Machine
end

section
/-!
SUPPORT. Commands to the Bolt manager and the collective engine (R28, R246, R247, R260 to R265): their checks, BOLT_STEP, BOLT_COMMIT and
the pages of BOLT_MIGRATE. O27 is their short consequence.
-/

namespace Sys2Proof.Machine

variable {s v : State} {d : Did} {x : Desc}

/-! ### The check of a command -/

/-- Each command to the Bolt manager or the collective engine is checked before it is performed (R28). -/
theorem exec_eq_checkedCommand {c : SentCommand → Instr}
    (hc : c ∈ [Instr.boltStep, .boltCommit, .boltMigrateMove, .boltMigrateExport, .boltMigrateImport, .boltMigrateCheck,
      .boltPoolCreate, .boltPoolDestroy, .boltPoolReset, .boltPoolQuery, .boltPoolSeqtab, .boltPoolSync, .collReduce,
      .collCreate, .collDestroy]) :
    ∃ cmd : State → Did → State, ∀ k s, exec (c k) s = .next (s.checkedCommand k (fun u => cmd u k.d)) := by
  simp only [List.mem_cons, List.not_mem_nil, or_false] at hc
  rcases hc with rfl | rfl | rfl | rfl | rfl | rfl | rfl | rfl | rfl | rfl | rfl | rfl | rfl | rfl | rfl
  exacts [⟨State.boltStepCmd, fun _ _ => rfl⟩, ⟨State.boltCommitCmd, fun _ _ => rfl⟩, ⟨State.boltMigrateMoveCmd, fun _ _ => rfl⟩,
    ⟨State.boltMigrateExportCmd, fun _ _ => rfl⟩, ⟨State.boltMigrateImportCmd, fun _ _ => rfl⟩, ⟨State.boltMigrateCheckCmd, fun _ _ => rfl⟩,
    ⟨State.boltPoolCreateCmd, fun _ _ => rfl⟩, ⟨State.boltPoolDestroyCmd, fun _ _ => rfl⟩, ⟨State.boltPoolResetCmd, fun _ _ => rfl⟩,
    ⟨State.boltPoolQueryCmd, fun _ _ => rfl⟩, ⟨State.boltPoolSeqtabCmd, fun _ _ => rfl⟩, ⟨State.boltPoolSyncCmd, fun _ _ => rfl⟩,
    ⟨State.collReduceCmd, fun _ _ => rfl⟩, ⟨State.collCreateCmd, fun _ _ => rfl⟩, ⟨State.collDestroyCmd, fun _ _ => rfl⟩]

section
variable {act : State → State}

/-- A command that matches, and whose reads are clean, is performed. -/
theorem State.checkedCommand_clean : s.checkedCommand ⟨d, .matched, .clean⟩ act = act s := by
  cases hx : s.running? d [0x20, 0x21, 0x22, 0x23, 0x30] <;> simp [State.checkedCommand, hx, State.readsMet]

variable (hx : s.running? d [0x20, 0x21, 0x22, 0x23, 0x30] = some x)
include hx

/-- One that fails is made again once, which is noted (R28, R480). -/
theorem State.checkedCommand_again : s.checkedCommand ⟨d, .again, .clean⟩ act = act (s.tableRetried x) := by
  simp [State.checkedCommand, hx, State.readsMet]

/-- One that fails twice is an expiry of its control core (R28, R29). -/
theorem State.checkedCommand_failed {ok : Bool} {q : ReadCheck} :
    s.checkedCommand ⟨d, .failed ok, q⟩ act = s.ccoreExpiry (s.ctx x.ctx).owner ok := by
  simp [State.checkedCommand, hx]

/-- What the checks of its reads come to is settled before the command is performed: their data arrive. -/
theorem State.checkedCommand_reads_ok {q : ReadCheck} (hq : (s.readsMet x q).1 = true) :
    s.checkedCommand ⟨d, .matched, q⟩ act = act (s.readsMet x q).2 := by
  obtain ⟨t, ht⟩ : ∃ t, s.readsMet x q = (true, t) := ⟨_, Prod.ext hq rfl⟩
  simp [State.checkedCommand, hx, ht]

/-- Or they do not, and the command is not performed. -/
theorem State.checkedCommand_reads_lost {q : ReadCheck} (hq : (s.readsMet x q).1 = false) :
    s.checkedCommand ⟨d, .matched, q⟩ act = (s.readsMet x q).2 := by
  obtain ⟨t, ht⟩ : ∃ t, s.readsMet x q = (false, t) := ⟨_, Prod.ext hq rfl⟩
  simp [State.checkedCommand, hx, ht]

end

/-! ### BOLT_STEP -/

/-- The request list of a BOLT_STEP as memory holds it (R243). -/
def State.stepList (s : State) (x : Desc) : List Byte := s.fetchRun s.store x (rdRun (x.field 8 8) 0 (16 * x.field 32 4))

/-- Its requests. -/
def State.stepReqs (s : State) (x : Desc) : List Req := (pieces 16 (s.stepList x)).map reqOf

/-- The run of each request's tree. -/
def State.stepTreeRuns (s : State) (x : Desc) : List Run := (s.stepReqs x).map (treeRun (x.field 24 8))

/-- The 64 bytes of each request's tree. -/
def State.stepTrees (s : State) (x : Desc) : List (List Byte) :=
  ((s.stepReqs x).zip (s.stepTreeRuns x)).map (fun p => blockBytes (if p.1.spec then s.fetchRun s.store x p.2 else []) 0 64)

/-- What a prepared BOLT_STEP keeps of its list and its trees. -/
def State.stepKept (s : State) (x : Desc) : List Byte := s.stepList x ++ (s.stepTrees x).flatten

/-- Entries of the sequence cache that a BOLT_STEP needs (R246, R266). -/
def State.stepNeed (s : State) (x : Desc) : Nat :=
  (namedSeqs (s.stepReqs x)).length + ((s.stepReqs x).filter (fun r => r.kind == 2)).length

/-- The request list and the trees of a BOLT_STEP are reached and have the form that R243 and R245 ask. -/
structure StepReads (s : State) (x : Desc) : Prop where
  listReached : s.firstBad x [rdRun (x.field 8 8) 0 (16 * x.field 32 4), wrRun (x.field 16 8) 0 (16 * x.field 32 4)] = none
  formOk : (pieces 16 (s.stepList x)).all reqFormOk = true
  treesGiven : (s.stepReqs x).any Req.spec = (x.field 24 8 != 0)
  treesReached : s.firstBad x (s.stepTreeRuns x) = none
  treesOk : ((s.stepReqs x).zip (s.stepTrees x)).all (fun p => !p.1.spec || treeOk p.1.ndraft p.2) = true

/-- The rest of a preparation, once list and trees are read: the cache's room, the entries, and the step's own rules (R245, R246, R266). -/
def State.stepAdmit (s : State) (x : Desc) : State :=
  if Config.seqCacheEntries < s.stepNeed x then s.retire x 0x03 0xFFFF
  else if s.stepBusy x.did (namedSeqs (s.stepReqs x)) || !(s.cacheRoom (s.stepNeed x)) then s
  else
    let u := s.cacheSeqs (namedSeqs (s.stepReqs x))
    match u.stepRefused (u.partOf x) false (some x.did) (keptReqs (x.field 32 4) (s.stepKept x)) with
      | some (st, det) => u.retire x st det
      | none => ({ u with order := u.order + 1 } : State).setDesc { x with st := .prepared, kept := s.stepKept x, prep := u.order }

/-- A preparation whose reads are right goes on with its admission. -/
theorem State.stepPrepare_eq_stepAdmit (h : StepReads s x) : s.stepPrepare x = s.stepAdmit x := by
  obtain ⟨hl, hf, hg, ht, hk⟩ := h
  unfold State.stepTrees State.stepTreeRuns State.stepReqs State.stepList at *
  simp only [State.stepPrepare, hl, hf, hg, ht, hk, bne_self_eq_false, Bool.not_true, Bool.false_eq_true, if_false]
  rfl

/-- A step that needs more entries than the cache has is refused (R266). -/
theorem State.stepAdmit_tooMany (h : Config.seqCacheEntries < s.stepNeed x) : s.stepAdmit x = s.retire x 0x03 0xFFFF := if_pos h

section
variable (h : s.stepNeed x ≤ Config.seqCacheEntries)
include h

/-- One whose sequences are busy, or whose entries the cache cannot hold now, waits (R240, R246). -/
theorem State.stepAdmit_waits (hw : s.stepBusy x.did (namedSeqs (s.stepReqs x)) = true ∨ s.cacheRoom (s.stepNeed x) = false) :
    s.stepAdmit x = s := by
  have hwait : (s.stepBusy x.did (namedSeqs (s.stepReqs x)) || !(s.cacheRoom (s.stepNeed x))) = true := by simpa using hw
  rw [State.stepAdmit, if_neg (Nat.not_lt.mpr h), if_pos hwait]

variable (hb : s.stepBusy x.did (namedSeqs (s.stepReqs x)) = false) (hr : s.cacheRoom (s.stepNeed x) = true)
include hb hr

/-- One that its own rules allow is prepared (R246). -/
theorem State.stepAdmit_prepared {u : State} (hu : u = s.cacheSeqs (namedSeqs (s.stepReqs x)))
    (ho : u.stepRefused (u.partOf x) false (some x.did) (keptReqs (x.field 32 4) (s.stepKept x)) = none) :
    s.stepAdmit x =
      ({ u with order := u.order + 1 } : State).setDesc { x with st := .prepared, kept := s.stepKept x, prep := u.order } := by
  subst hu
  simp [State.stepAdmit, Nat.not_lt.mpr h, hb, hr, ho]

/-- One that they refuse ends with what they say (R245). -/
theorem State.stepAdmit_refused {u : State} {e : Nat × Nat} (hu : u = s.cacheSeqs (namedSeqs (s.stepReqs x)))
    (ho : u.stepRefused (u.partOf x) false (some x.did) (keptReqs (x.field 32 4) (s.stepKept x)) = some e) :
    s.stepAdmit x = u.retire x e.1 e.2 := by
  subst hu
  simp [State.stepAdmit, Nat.not_lt.mpr h, hb, hr, ho]

end

/-- A BOLT_STEP that matches is prepared or refused by its admission, once its reads are right. -/
theorem exec_boltStep (hx : s.running? d [0x20] = some x) (h : StepReads s x) :
    exec (.boltStep ⟨d, .matched, .clean⟩) s = .next (s.stepAdmit x) := by
  rw [← State.stepPrepare_eq_stepAdmit h]
  have hcmd : s.boltStepCmd d = s.stepPrepare x := by simp [State.boltStepCmd, hx]
  exact congrArg _ (State.checkedCommand_clean.trans hcmd)

/-- The atomic phase of a prepared step runs when no other that was prepared earlier waits (R246, R247). -/
theorem exec_boltAtomicPhase (hx : s.desc? d = some x) (hp : x.st = .prepared) (ho : x.opcode = 0x20) (hv : s.serving = true)
    (hf : ∀ y ∈ s.descs, y.st = .prepared → y.opcode = 0x20 → x.prep ≤ y.prep) :
    exec (.boltAtomicPhase d) s = .next (s.stepAtomic x) := by
  have hfirst : s.descs.all (fun y => !(y.st == .prepared && y.opcode == 0x20) || x.prep ≤ y.prep) = true := by
    simpa [imp_iff_not_or, or_assoc] using hf
  simp only [exec, execBoltAtomicPhase, hx, hp, ho, hv, hfirst, beq_self_eq_true, Bool.and_self, if_true]

/-- It writes one result per request and retires with the worst of them (R247, R249). -/
theorem State.stepAtomic_done {r : State × List Decided} (hr : s.decideReqs (s.partOf x) (some x.did) (keptReqs (x.field 32 4) x.kept) = r)
    (hb : r.2.flatMap Decided.bad = []) :
    s.stepAtomic x = (r.1.withStore (r.1.storeRun r.1.store x (wrRun (x.field 16 8) 0 (16 * x.field 32 4))
      (r.2.flatMap Decided.bytes))).retire { x with kept := [] } (worstOf r.2) 0 := by
  simp [State.stepAtomic, hr, hb]

/-- A page that lastingly fails its check ends it, and nothing else changes (R230). -/
theorem State.stepAtomic_mismatch {r : State × List Decided} {q : PageRef} {qs : List PageRef}
    (hr : s.decideReqs (s.partOf x) (some x.did) (keptReqs (x.field 32 4) x.kept) = r) (hb : r.2.flatMap Decided.bad = q :: qs) :
    s.stepAtomic x = (s.pageMismatch x q).descFault { x with kept := [] } 0x30 := by
  simp [State.stepAtomic, hr, hb]

/-! ### BOLT_COMMIT -/

/-- The entries of a BOLT_COMMIT as memory holds them (R260). -/
def State.commitList (s : State) (x : Desc) : List (Nat × Nat × Nat) :=
  commitEnts (s.fetchRun s.store x (rdRun (x.field 8 8) 0 (4 * x.field 24 4)))

/-- The state in which a BOLT_COMMIT acts: its sequences' entries in the cache (R240). -/
def State.commitCached (s : State) (x : Desc) : State := s.cacheSeqs ((s.commitList x).map Prod.fst)

/-- A BOLT_COMMIT's list and results are reached, nothing of its sequences is busy, the cache can hold them, and R260 allows it. -/
structure CommitAllowed (s : State) (x : Desc) : Prop where
  reached : s.firstBad x [rdRun (x.field 8 8) 0 (4 * x.field 24 4), wrRun (x.field 16 8) 0 (16 * x.field 24 4)] = none
  free : s.stepBusy x.did ((s.commitList x).map Prod.fst) = false
  room : s.cacheRoom (s.commitList x).length = true
  allowed : (s.commitCached x).commitRefused ((s.commitCached x).partOf x) false (s.commitList x) = none

/-- A BOLT_COMMIT that matches is performed. -/
theorem exec_boltCommit (hx : s.running? d [0x21] = some x) : exec (.boltCommit ⟨d, .matched, .clean⟩) s = .next (s.commitWork x) := by
  have hcmd : s.boltCommitCmd d = s.commitWork x := by simp [State.boltCommitCmd, hx]
  exact congrArg _ (State.checkedCommand_clean.trans hcmd)

/-- It acts on the named sequences, writes their results and retires with the worst of them (R260, R261). -/
theorem State.commitWork_done {r : State × List Decided} (h : CommitAllowed s x)
    (hr : (s.commitCached x).commitAll (some x.did) (s.commitList x) = r) (hb : (s.commitCached x).badCommit (s.commitList x) = none) :
    s.commitWork x = (r.1.withStore (r.1.storeRun r.1.store x (wrRun (x.field 16 8) 0 (16 * x.field 24 4))
      (r.2.flatMap Decided.bytes))).retire x (worstOf r.2) 0 := by
  obtain ⟨hreach, hfree, hroom, hallowed⟩ := h
  unfold State.commitCached State.commitList at *
  simp [State.commitWork, hreach, hfree, hroom, hallowed, hr, hb]

/-- A page that lastingly fails its check ends it (R230, R262). -/
theorem State.commitWork_mismatch {q : PageRef} (h : CommitAllowed s x) (hb : (s.commitCached x).badCommit (s.commitList x) = some q) :
    s.commitWork x = ((s.commitCached x).pageMismatch x q).descFault x 0x30 := by
  obtain ⟨hreach, hfree, hroom, hallowed⟩ := h
  unfold State.commitCached State.commitList at *
  simp [State.commitWork, hreach, hfree, hroom, hallowed, hb]

/-! ### BOLT_MIGRATE -/

/-- Each mode of BOLT_MIGRATE, where it matches, is the migration of a descriptor of that mode. -/
theorem exec_boltMigrate {mode : Nat} {i : SentCommand → Instr}
    (hi : (mode, i) ∈ [(0, Instr.boltMigrateMove), (1, .boltMigrateExport), (2, .boltMigrateImport), (3, .boltMigrateCheck)])
    (hx : s.running? d [0x22] = some x) (hm : bitsOf (x.field 8 1) 0 2 = mode) :
    exec (i ⟨d, .matched, .clean⟩) s = .next (s.migrate x) := by
  have hcmd : s.migrateMode d mode = s.migrate x := by simp [State.migrateMode, hx, hm]
  simp only [List.mem_cons, Prod.mk.injEq, List.not_mem_nil, or_false] at hi
  rcases hi with ⟨rfl, rfl⟩ | ⟨rfl, rfl⟩ | ⟨rfl, rfl⟩ | ⟨rfl, rfl⟩ <;> exact congrArg _ (State.checkedCommand_clean.trans hcmd)

/-- The pages that a migration's descriptor covers where its sequence's entry is cached. -/
def State.migrationPages (u : State) (x : Desc) : List (Nat × Nat) := x.migratePages (u.seqn (x.field 10 2))

/-- The pages of the host's side of a migration: written by an EXPORT, read by an IMPORT (R265). -/
def State.migrationHost (u : State) (x : Desc) (mode : Nat) : List Run :=
  let len := (u.migrationPages x).length * (u.pool (u.seqn (x.field 10 2)).pool).psize
  if mode = 1 then [wrRun (x.field 24 8) 0 len] else if mode = 2 then [rdRun (x.field 24 8) 0 len] else []

/-- The next page of a migration may be processed: nothing of its sequence is busy, the cache can hold its entry, its rules allow it, what
it touches is reached, and the regulator admits the page's units, all at once (R240, R264, R265, R469; log 34). -/
structure MigrateAllowed (s u : State) (x : Desc) (mode : Nat) : Prop where
  free : s.stepBusy x.did [x.field 10 2] = false
  room : s.cacheRoom 1 = true
  allowed : x.prog = 0 → u.migrateRefused x = none
  reached : u.firstBad x (u.migrationHost x mode ++ [wrRun (x.field 32 8) 0 16]) = none
  pageReached : u.nextPageBad x = none
  admitted : u.regulated (u.partOf x) (u.pageUnits x) = true

/-- Units taken from a regulator leave the sequences alone. -/
@[simp] theorem State.takeUnits_seqn {part n m : Nat} : (s.takeUnits part n).seqn m = s.seqn m := rfl

/-- A page that may be processed takes its units and is processed: one page a command (log 58). -/
theorem State.migrate_next {u : State} {mode : Nat} (hu : u = s.cacheSeq (x.field 10 2)) (hm : bitsOf (x.field 8 1) 0 2 = mode)
    (h : MigrateAllowed s u x mode) :
    s.migrate x = (u.takeUnits (u.partOf x) (u.pageUnits x)).migrateNext x := by
  subst hu
  obtain ⟨hfree, hroom, hallowed, hreach, hpage, hadm⟩ := h
  have hrule : (if x.prog = 0 then (s.cacheSeq (x.field 10 2)).migrateRefused x else none) = none := ite_eq_right_iff.mpr hallowed
  unfold State.migrationHost State.migrationPages at *
  simp [State.migrate, hfree, hroom, hrule, hm, hreach, hpage, hadm]

/-- The result entry of a migration written (R265). -/
def State.migrateResult (v : State) (x : Desc) (k st : Nat) : State :=
  v.withStore (v.storeRun v.store x (wrRun (x.field 32 8) 0 16)
    (v.decided st (x.field 10 2) (v.seqn (x.field 10 2)).pool k true).bytes)

/-- A migration that ends writes its result entry and retires. -/
theorem State.migrateEnd_retires {k st : Nat} :
    s.migrateEnd x k st false = (s.migrateResult x k st).retire x st (if st = 0x03 then 0xFFFF else 0) := rfl

/-- One whose page does not hold its identity writes its result entry and its context ends (R230). -/
theorem State.migrateEnd_faults {k st : Nat} : s.migrateEnd x k st true = (s.migrateResult x k st).descFault x 0x30 := rfl

/-- A migration with no page left ends. -/
theorem State.migrateNext_none (h : (s.migrationPages x)[x.prog]? = none) : s.migrateNext x = s.migrateEnd x x.prog 0 false := by
  unfold State.migrationPages at h
  simp [State.migrateNext, h]

section
variable {l k : Nat} (h : (s.migrationPages x)[x.prog]? = some (l, k))
include h

/-- A page done moves the migration's place on; the last one ends it. -/
theorem State.migrateNext_ok (hp : s.migratePage x (x.field 10 2) l k x.prog = .ok v) :
    s.migrateNext x =
      if x.prog + 1 < (s.migrationPages x).length then v.setDesc { x with prog := x.prog + 1 } else v.migrateEnd x (x.prog + 1) 0 false := by
  unfold State.migrationPages at *
  simp [State.migrateNext, h, hp]

/-- A page that stops it ends it with that status. -/
theorem State.migrateNext_stop {st : Nat} (hp : s.migratePage x (x.field 10 2) l k x.prog = .stop v st) :
    s.migrateNext x = v.migrateEnd x x.prog st false := by
  unfold State.migrationPages at h
  simp [State.migrateNext, h, hp]

/-- A page whose identity does not hold ends its context. -/
theorem State.migrateNext_mismatch (hp : s.migratePage x (x.field 10 2) l k x.prog = .mismatch v) :
    s.migrateNext x = v.migrateEnd x x.prog 0x30 true := by
  unfold State.migrationPages at h
  simp [State.migrateNext, h, hp]

end

/-- Settles O27: the check of a command, then BOLT_STEP and its atomic phase, BOLT_COMMIT, and the pages of BOLT_MIGRATE (R28, R246, R247, R260
to R265). -/
theorem boltCommandsComplete : Obligations.BoltCommandsComplete := by
  unfold Obligations.BoltCommandsComplete
  refine ⟨fun s d x c hx hc => ?check, fun s d x => ⟨?step, ?atomic⟩, fun s d x => ⟨?commit, ?migrate⟩⟩
  case check =>
    intro r
    obtain ⟨cmd, hcmd⟩ := exec_eq_checkedCommand hc
    have hclean : ∀ t : State, t.checkedCommand ⟨d, .matched, .clean⟩ (fun u => cmd u d) = cmd t d := fun t => State.checkedCommand_clean
    simp only [hcmd]
    exact ⟨congrArg _ ((State.checkedCommand_again hx).trans (hclean (s.tableRetried x)).symm),
      fun ok q => congrArg _ (State.checkedCommand_failed hx),
      fun q hq => congrArg _ ((State.checkedCommand_reads_ok hx hq).trans (hclean (s.readsMet x q).2).symm),
      fun q hq => congrArg _ (State.checkedCommand_reads_lost hx hq)⟩
  case step =>
    intro hx n rr bs reqs runs tb kept u need hl hf hg ht hk
    rw [exec_boltStep hx ⟨hl, hf, hg, ht, hk⟩]
    exact ⟨fun h => congrArg _ (State.stepAdmit_tooMany h), fun h hw => congrArg _ (State.stepAdmit_waits h hw),
      fun h hb hr => ⟨fun ho => congrArg _ (State.stepAdmit_prepared h hb hr rfl ho),
        fun e ho => congrArg _ (State.stepAdmit_refused h hb hr rfl ho)⟩⟩
  case atomic =>
    intro hx hp ho hv hf r u
    rw [exec_boltAtomicPhase hx hp ho hv hf]
    exact ⟨fun hb => congrArg _ (State.stepAtomic_done rfl hb), fun q qs hb => congrArg _ (State.stepAtomic_mismatch rfl hb)⟩
  case commit =>
    intro hx n rr wr es u hl hb hr ho r
    have hallowed : CommitAllowed s x := ⟨hl, hb, hr, ho⟩
    rw [exec_boltCommit hx]
    exact ⟨fun hp => congrArg _ (State.commitWork_done hallowed rfl hp), fun q hp => congrArg _ (State.commitWork_mismatch hallowed hp)⟩
  case migrate =>
    intro mode i hi hx hm n u ps len io res written ended hb hr ho hf hp ha w
    have hallowed : MigrateAllowed s u x mode := ⟨hb, hr, ho, hf, hp, ha⟩
    rw [exec_boltMigrate hi hx hm, State.migrate_next rfl hm hallowed]
    have hpages : w.migrationPages x = ps := rfl
    refine ⟨fun hend => ?_, fun l k hpage => ⟨fun v hv => ?_, fun v st hv => ?_, fun v hv => ?_⟩⟩
    · rw [State.migrateNext_none (hpages ▸ hend), State.migrateEnd_retires]
      rfl
    · rw [State.migrateNext_ok (hpages ▸ hpage) hv, State.migrateEnd_retires, hpages]
      rfl
    · rw [State.migrateNext_stop (hpages ▸ hpage) hv, State.migrateEnd_retires]
      rfl
    · rw [State.migrateNext_mismatch (hpages ▸ hpage) hv, State.migrateEnd_faults]
      rfl

end Sys2Proof.Machine
end

section
/-!
SUPPORT. Rounding of a magnitude (R43, R57, R58, R65, R141): what `roundAt` keeps, discards and carries. O59 is its short consequence.
-/

namespace Sys2Proof.Machine

set_option Elab.async false

variable {mode : Rounding} {neg : Bool} {m q r s p : Nat} {e g lo : Int}

/-! ### Which way a discarded part rounds -/

/-- Nothing discarded rounds nowhere. -/
@[simp] theorem roundsAway_zero : roundsAway mode neg q 0 s = false := by simp [roundsAway]

/-- To nearest, ties to even. -/
theorem roundsAway_rne_iff : roundsAway .rne neg q r s = true ↔ 2 ^ s < 2 * r ∨ (2 * r = 2 ^ s ∧ q % 2 = 1) := by
  have hs : 0 < 2 ^ s := Nat.two_pow_pos s
  by_cases hr : r = 0 <;> simp [roundsAway, hr]
  omega

/-- To nearest, ties away. -/
theorem roundsAway_rna_iff : roundsAway .rna neg q r s = true ↔ 2 ^ s ≤ 2 * r := by
  have hs : 0 < 2 ^ s := Nat.two_pow_pos s
  by_cases hr : r = 0 <;> simp [roundsAway, hr]

/-- Toward zero. -/
@[simp] theorem roundsAway_rtz : roundsAway .rtz neg q r s = false := by simp [roundsAway]

/-- Up: away from zero for a positive magnitude. -/
theorem roundsAway_rup (hr : r ≠ 0) : roundsAway .rup neg q r s = !neg := by simp [roundsAway, hr]

/-- Down: away from zero for a negative magnitude. -/
theorem roundsAway_rdn (hr : r ≠ 0) : roundsAway .rdn neg q r s = neg := by simp [roundsAway, hr]

/-- Stochastic: away where the discarded fraction and the draw carry (R65). -/
theorem roundsAway_sr_iff {draw : Nat} (hr : r ≠ 0) :
    roundsAway (.sr draw) neg q r s = true ↔ 2 ^ 32 ≤ r * 2 ^ 32 / 2 ^ s + draw := by
  simp [roundsAway, hr]

/-! ### A magnitude at a unit -/

/-- At its own unit a magnitude is kept exactly. -/
@[simp] theorem roundAt_self : roundAt mode neg m e e = (m, false) := by simp [roundAt]

/-- At a coarser unit the quotient is kept, or its successor where the remainder rounds away. -/
theorem roundAt_of_lt (h : e < g) :
    roundAt mode neg m e g =
      (if roundsAway mode neg (m / 2 ^ (g - e).toNat) (m % 2 ^ (g - e).toNat) (g - e).toNat = true then m / 2 ^ (g - e).toNat + 1
        else m / 2 ^ (g - e).toNat,
       m % 2 ^ (g - e).toNat != 0) := by
  have hmod : m - m / 2 ^ (g - e).toNat * 2 ^ (g - e).toNat = m % 2 ^ (g - e).toNat := by
    rw [Nat.mod_eq_sub_mul_div, Nat.mul_comm]
  simp only [roundAt, if_neg (not_le.mpr h), Nat.shiftRight_eq_div_pow, Nat.shiftLeft_eq, hmod]

/-- Either the remainder rounds away and the successor of the quotient is kept, or it does not and the quotient is. -/
theorem roundAt_cases (mode : Rounding) (neg : Bool) (m : Nat) (h : e < g) {d : Nat} (hd : 2 ^ (g - e).toNat = d) :
    (roundsAway mode neg (m / d) (m % d) (g - e).toNat = true ∧ (roundAt mode neg m e g).1 = m / d + 1) ∨
      (¬ roundsAway mode neg (m / d) (m % d) (g - e).toNat = true ∧ (roundAt mode neg m e g).1 = m / d) := by
  subst hd
  rw [roundAt_of_lt h]
  split
  · next haway => exact .inl ⟨haway, rfl⟩
  · next hkept => exact .inr ⟨hkept, rfl⟩

/-- Settles O59: quotient and remainder of the coarser unit, then one direction after the other. -/
theorem roundingGivesTheNeighbour : Obligations.RoundingGivesTheNeighbour := by
  unfold Obligations.RoundingGivesTheNeighbour
  intro neg m e g h d
  have hpow : 2 ^ (g - e).toNat = d := rfl
  have hd : 2 ≤ d := Nat.le_self_pow (n := (g - e).toNat) (by omega) 2
  have hround := fun mode : Rounding => roundAt_of_lt (mode := mode) (neg := neg) (m := m) h
  have hdiv : d * (m / d) + m % d = m := Nat.div_add_mod m d
  have hlt : m % d < d := Nat.mod_lt m (by omega)
  have hcomm : m / d * d = d * (m / d) := Nat.mul_comm _ _
  have hsucc : (m / d + 1) * d = d * (m / d) + d := by rw [Nat.add_mul, one_mul, hcomm]
  refine ⟨fun mode => ?inexact, fun mode hm => ?exact, ?nearestEven, ?nearestAway, ?towardZero, fun hm => ⟨?up, ?down⟩,
    fun draw hm => ?stochastic⟩
  case inexact => simp [hround, d]
  case exact => simp [hround, d, show m % 2 ^ (g - e).toNat = 0 from hm]
  case nearestEven =>
    intro q
    obtain ⟨haway, hq⟩ | ⟨hkept, hq⟩ := roundAt_cases .rne neg m h hpow
    · have := roundsAway_rne_iff.mp haway
      simp only [q, hq, hsucc]
      omega
    · have := mt roundsAway_rne_iff.mpr hkept
      simp only [q, hq, hcomm]
      omega
  case nearestAway =>
    intro q
    obtain ⟨haway, hq⟩ | ⟨hkept, hq⟩ := roundAt_cases .rna neg m h hpow
    · have := roundsAway_rna_iff.mp haway
      simp only [q, hq, hsucc]
      omega
    · have := mt roundsAway_rna_iff.mpr hkept
      simp only [q, hq, hcomm]
      omega
  case towardZero => simp [hround, d]
  case up => cases neg <;> simp [hround, roundsAway_rup (show m % 2 ^ (g - e).toNat ≠ 0 from hm), d]
  case down => cases neg <;> simp [hround, roundsAway_rdn (show m % 2 ^ (g - e).toNat ≠ 0 from hm), d]
  case stochastic => simp only [hround, roundsAway_sr_iff (show m % 2 ^ (g - e).toNat ≠ 0 from hm), d]

end Sys2Proof.Machine
end

section
/-!
SUPPORT. The codes of the number formats (R36, R38 to R40, R42, R44, R57 to R59) and their packing: what a code decodes to is rounded back
without a loss. O58 is their short consequence.
-/

namespace Sys2Proof.Machine

set_option Elab.async false

variable {mode : Rounding} {neg : Bool} {f : FFmt} {fmt c m mag p w k n : Nat} {e lo : Int}

/-! ### Magnitudes that a format holds are rounded to themselves -/

/-- A magnitude below `2 ^ p` has at most `p` bits. -/
theorem bitLen_le (h : m < 2 ^ p) : bitLen m ≤ p := by
  unfold bitLen
  split
  · omega
  · next hm => exact (Nat.log2_lt hm).mpr h

/-- One of at least `2 ^ (p - 1)` has exactly `p`. -/
theorem bitLen_eq (hp : 1 ≤ p) (hlo : 2 ^ (p - 1) ≤ m) (h : m < 2 ^ p) : bitLen m = p := by
  have hm : m ≠ 0 := by have := Nat.two_pow_pos (p - 1); omega
  have hlog : m.log2 = p - 1 := (Nat.log2_eq_iff hm).mpr ⟨hlo, by rwa [Nat.sub_add_cancel hp]⟩
  rw [bitLen, if_neg hm, hlog, Nat.sub_add_cancel hp]

/-- A magnitude whose unit is the one that `p` significant bits ask for is kept. -/
theorem roundTo_exact (h : max ((bitLen m : Int) + e - p) lo = e) : roundTo mode neg p lo m e = (m, e, false) := by
  simp [roundTo, h]

/-- The largest exponent field that names a finite value: the IEEE formats keep the one above it for infinities and NaNs (R40, R44). -/
def FFmt.top (f : FFmt) : Nat := 2 ^ (f.width - f.prec) - (if f.ieee then 2 else 1)

/-- A format's parameters are those of its exponent field and fraction. -/
structure FFmt.Regular (f : FFmt) : Prop where
  prec_pos : 2 ≤ f.prec
  prec_lt : f.prec < f.width
  maxM_eq : f.maxM + 1 = 2 ^ f.prec
  top_pos : 1 ≤ f.top
  maxE_eq : f.maxE = f.lo + f.top - 1

/-- Every format of R36 is regular. -/
theorem regular_of_ffmtOf (h : ffmtOf fmt = some f) : f.Regular := by
  unfold ffmtOf at h
  split at h
  case h_8 => cases h
  all_goals
    obtain rfl := Option.some.inj h
    exact ⟨by decide, by decide, by decide, by decide, by decide⟩

/-- FP32 is regular. -/
theorem fp32_regular : fp32.Regular := regular_of_ffmtOf (fmt := 0) rfl

/-- The magnitude and unit that the bits below the sign name: a subnormal where the exponent field is zero (R40, R44). -/
def FFmt.magValue (f : FFmt) (mag : Nat) : Nat × Int :=
  if mag / 2 ^ (f.prec - 1) = 0 then (mag % 2 ^ (f.prec - 1), f.lo)
  else (2 ^ (f.prec - 1) + mag % 2 ^ (f.prec - 1), f.lo + (mag / 2 ^ (f.prec - 1) : Nat) - 1)

/-- They name zero only where they are zero. -/
theorem magValue_fst_eq_zero : (f.magValue mag).1 = 0 ↔ mag = 0 := by
  have hmod := Nat.div_add_mod mag (2 ^ (f.prec - 1))
  have hpos := Nat.two_pow_pos (f.prec - 1)
  unfold FFmt.magValue
  split
  · next h => rw [h] at hmod; simp only; omega
  · next h => exact ⟨fun h' => by simp only at h'; omega, fun h' => absurd (by simp [h']) h⟩

/-- The magnitude code of the value is the bits that named it. -/
theorem magCode_magValue : magCode f (f.magValue mag).1 (f.magValue mag).2 = mag := by
  have hmod := Nat.div_add_mod' mag (2 ^ (f.prec - 1))
  unfold FFmt.magValue magCode
  split
  · next h => rw [h] at hmod; simpa using hmod
  · next h =>
    obtain ⟨x, hx⟩ := Nat.exists_eq_succ_of_ne_zero h
    have hfield : (f.lo + ((mag / 2 ^ (f.prec - 1) : Nat) : Int) - 1 - f.lo).toNat = x := by omega
    rw [hx, Nat.succ_mul] at hmod
    simp only [hfield, Nat.shiftLeft_eq]
    omega

/-- No direction changes it, and it does not overflow. -/
theorem roundFmt_magValue (hf : f.Regular) (h : mag / 2 ^ (f.prec - 1) ≤ f.top) :
    roundFmt f mode neg (f.magValue mag).1 (f.magValue mag).2 = ((f.magValue mag).1, (f.magValue mag).2, false, false) := by
  obtain ⟨hp, hw, hM, htop, hE⟩ := hf
  have hfr : mag % 2 ^ (f.prec - 1) < 2 ^ (f.prec - 1) := Nat.mod_lt _ (Nat.two_pow_pos _)
  have hdouble := Nat.two_pow_pred_mul_two (w := f.prec) (by omega)
  have hunit : max ((bitLen (f.magValue mag).1 : Int) + (f.magValue mag).2 - f.prec) f.lo = (f.magValue mag).2 := by
    unfold FFmt.magValue
    split
    · have := bitLen_le hfr
      simp only; omega
    · next hx =>
      have hx := Nat.pos_of_ne_zero hx
      have := bitLen_eq (p := f.prec) (m := 2 ^ (f.prec - 1) + mag % 2 ^ (f.prec - 1)) (by omega) (by omega) (by omega)
      simp only [this]; omega
  have hmag : (f.magValue mag).1 ≤ f.maxM ∧ (f.magValue mag).2 ≤ f.maxE := by
    unfold FFmt.magValue
    split <;> simp only <;> omega
  have hmin : min f.maxE (f.magValue mag).2 = (f.magValue mag).2 := min_eq_right hmag.2
  have hlt : magLt f.maxM f.maxE (f.magValue mag).1 (f.magValue mag).2 = false := by
    have := Nat.le_mul_of_pos_right f.maxM (Nat.two_pow_pos (f.maxE - (f.magValue mag).2).toNat)
    simp only [magLt, hmin, sub_self, Int.toNat_zero, Nat.shiftLeft_eq, pow_zero, mul_one, decide_eq_false_iff_not, not_lt]
    omega
  simp only [roundFmt, roundTo_exact hunit, hlt]

/-- The sign over the bits below it is the code. -/
theorem signCode_testBit (hw : 1 ≤ w) (h : c < 2 ^ w) : signCode w (c.testBit (w - 1)) (c % 2 ^ (w - 1)) = c := by
  have hdouble := Nat.two_pow_pred_mul_two hw
  have hmod := Nat.div_add_mod c (2 ^ (w - 1))
  have hlt : c / 2 ^ (w - 1) < 2 := Nat.div_lt_of_lt_mul (by omega)
  rw [Nat.testBit_eq_decide_div_mod_eq, Nat.mod_eq_of_lt hlt, signCode]
  generalize c / 2 ^ (w - 1) = x at *
  interval_cases x
  · simpa using hmod
  · simpa [add_comm] using hmod

/-! ### What a code decodes to -/

/-- The exponent field is the top of the bits below the sign. -/
theorem bitsOf_exponent (hf : f.Regular) :
    bitsOf c (f.prec - 1) (f.width - f.prec) = c % 2 ^ (f.width - 1) / 2 ^ (f.prec - 1) := by
  obtain ⟨hp, hw, -, -, -⟩ := hf
  rw [bitsOf, Nat.shiftRight_eq_div_pow, show f.width - 1 = (f.prec - 1) + (f.width - f.prec) by omega, pow_add, Nat.mod_mul_right_div_self]

/-- An exponent field fits its bits. -/
theorem exponent_lt (hf : f.Regular) : c % 2 ^ (f.width - 1) / 2 ^ (f.prec - 1) < 2 ^ (f.width - f.prec) :=
  bitsOf_exponent hf ▸ Nat.mod_lt _ (Nat.two_pow_pos _)

/-- The fraction is the rest of them. -/
theorem bitsOf_fraction (hf : f.Regular) : bitsOf c 0 (f.prec - 1) = c % 2 ^ (f.width - 1) % 2 ^ (f.prec - 1) := by
  obtain ⟨hp, hw, -, -, -⟩ := hf
  rw [bitsOf, Nat.shiftRight_zero, Nat.mod_mod_of_dvd _ (pow_dvd_pow 2 (by omega))]

/-- The bits below the sign of an infinity of an IEEE format are one past the largest finite ones (R40). -/
theorem maxCode_succ (hf : f.Regular) : maxCode f + 1 = (f.top + 1) * 2 ^ (f.prec - 1) := by
  obtain ⟨hp, hw, hM, htop, hE⟩ := hf
  have hdouble := Nat.two_pow_pred_mul_two (w := f.prec) (by omega)
  obtain ⟨x, hx⟩ := Nat.exists_eq_add_of_le' htop
  have hfield : (f.maxE - f.lo).toNat = x := by omega
  rw [maxCode, magCode, hfield, Nat.shiftLeft_eq, hx, add_assoc, hM, ← hdouble]
  ring

/-- A code of an IEEE format that is not a NaN is an infinity or names a finite value (R40). -/
theorem decodeIeee_cases (hf : f.Regular) (hi : f.ieee = true) (hn : (decodeIeee f c).isNan = false) :
    (decodeIeee f c = .inf (c.testBit (f.width - 1)) ∧ c % 2 ^ (f.width - 1) = maxCode f + 1) ∨
      (decodeIeee f c = .fin (c.testBit (f.width - 1)) (f.magValue (c % 2 ^ (f.width - 1))).1 (f.magValue (c % 2 ^ (f.width - 1))).2
        ∧ c % 2 ^ (f.width - 1) / 2 ^ (f.prec - 1) ≤ f.top) := by
  have hsucc := maxCode_succ hf
  have hmod := Nat.div_add_mod' (c % 2 ^ (f.width - 1)) (2 ^ (f.prec - 1))
  have htop : f.top + 1 = 2 ^ (f.width - f.prec) - 1 := by
    have := hf.top_pos
    simp only [FFmt.top, hi, if_true] at this ⊢
    omega
  have hfield := exponent_lt (c := c) hf
  unfold decodeIeee at hn ⊢
  simp only [bitsOf_exponent hf, bitsOf_fraction hf, ← htop] at hn ⊢
  by_cases hex : c % 2 ^ (f.width - 1) / 2 ^ (f.prec - 1) = f.top + 1
  · by_cases hfr : c % 2 ^ (f.width - 1) % 2 ^ (f.prec - 1) = 0
    · rw [hex, hfr] at hmod
      exact .inl ⟨by simp [hex, hfr], by omega⟩
    · simp [hex, hfr, Value.isNan] at hn
  · refine .inr ⟨?_, by omega⟩
    rw [if_neg hex, FFmt.magValue]
    split <;> rfl

/-- A code of a Z format that is neither the NaN nor the +0 that a sign alone is names a finite value (R44, R46, R47). -/
theorem decodeZ_cases (hf : f.Regular) (hz : f.ieee = false) (hc : c < 2 ^ f.width) (hn : (decodeZ fmt f c).isNan = false)
    (h6 : fmt = 5 → c ≠ 2 ^ (f.width - 1)) :
    (c.testBit (f.width - 1) = true → c % 2 ^ (f.width - 1) ≠ 0) ∧
      decodeZ fmt f c = .fin (c.testBit (f.width - 1)) (f.magValue (c % 2 ^ (f.width - 1))).1 (f.magValue (c % 2 ^ (f.width - 1))).2
        ∧ c % 2 ^ (f.width - 1) / 2 ^ (f.prec - 1) ≤ f.top := by
  have hsign := signCode_testBit (by have := hf.prec_lt; omega) hc
  have hfield := exponent_lt (c := c) hf
  have hmag : bitsOf c 0 (f.width - 1) = c % 2 ^ (f.width - 1) := by simp [bitsOf]
  have hpos : c.testBit (f.width - 1) = true → c % 2 ^ (f.width - 1) ≠ 0 := by
    intro hs h0
    rw [hs, h0, signCode, if_pos rfl, zero_add] at hsign
    have hf5 : fmt ≠ 5 := fun h5 => h6 h5 hsign.symm
    simp [decodeZ, Nat.mod_eq_of_lt hc, hmag, hs, h0, hf5, Value.isNan] at hn
  refine ⟨hpos, ?_, by simp only [FFmt.top, hz, Bool.false_eq_true, if_false]; omega⟩
  have hguard : (c.testBit (f.width - 1) && c % 2 ^ (f.width - 1) = 0) = false := by simpa using hpos
  unfold decodeZ
  simp only [Nat.mod_eq_of_lt hc, hmag, hguard, Bool.false_eq_true, if_false, Nat.shiftRight_eq_div_pow, FFmt.magValue]
  split <;> rfl

/-! ### Codes converted back -/

/-- A finite value that an IEEE format holds, converted into it, is its code without a flag (R57). -/
theorem convIeee_magValue (hf : f.Regular) (h : mag / 2 ^ (f.prec - 1) ≤ f.top) :
    convIeee fmt f mode (.fin neg (f.magValue mag).1 (f.magValue mag).2) = (signCode f.width neg mag, 0) := by
  by_cases h0 : mag = 0
  · simp [convIeee, magValue_fst_eq_zero, h0]
  · simp [convIeee, magValue_fst_eq_zero, h0, roundFmt_magValue hf h, magCode_magValue, roundFlags]

/-- So is one of FP32 by an FP32 operation's rounding (R67). -/
theorem finToF32_magValue (h : mag / 2 ^ (fp32.prec - 1) ≤ fp32.top) :
    finToF32 mode neg (fp32.magValue mag).1 (fp32.magValue mag).2 = (signCode 32 neg mag, 0) := by
  by_cases h0 : mag = 0
  · simp [finToF32, magValue_fst_eq_zero, h0]
  · simp [finToF32, magValue_fst_eq_zero, h0, roundFmt_magValue fp32_regular h, magCode_magValue, roundFlags]

/-- So is one of a Z format; a zero is +0 (R57, R60). -/
theorem convZ_magValue (hf : f.Regular) (h : mag / 2 ^ (f.prec - 1) ≤ f.top) {zovf : Bool} {dscale : Nat} (h0 : neg = true → mag ≠ 0) :
    convZ fmt f zovf dscale mode (.fin neg (f.magValue mag).1 (f.magValue mag).2) = (signCode f.width neg mag, 0) := by
  by_cases hm : mag = 0
  · have hneg : neg = false := by simpa [hm] using h0
    simp [convZ, magValue_fst_eq_zero, hm, hneg, signCode]
  · simp [convZ, magValue_fst_eq_zero, hm, roundFmt_magValue hf h, magCode_magValue, roundFlags]

/-- Division by 2^0 changes nothing. -/
@[simp] theorem unscale_zero (v : Value) : unscale 0 v = v := by cases v <;> simp [unscale]

/-- A code of an IEEE format converts back to itself (R40, R57). -/
theorem convIeee_decodeIeee (hf : f.Regular) (hi : f.ieee = true) (hc : c < 2 ^ f.width) (hn : (decodeIeee f c).isNan = false) :
    convIeee fmt f mode (decodeIeee f c) = (c, 0) := by
  have hsign := signCode_testBit (by have := hf.prec_lt; omega) hc
  obtain ⟨hinf, hmag⟩ | ⟨hfin, htop⟩ := decodeIeee_cases hf hi hn
  · rw [hinf, convIeee, ← hmag, hsign]
  · rw [hfin, convIeee_magValue hf htop, hsign]

/-- A pattern of FP32 converts back to itself (R40, R67). -/
theorem valueToF32_f32Value (hc : c < 2 ^ 32) (hn : (f32Value c).isNan = false) : valueToF32 mode (f32Value c) = (c, 0) := by
  have hsign := signCode_testBit (w := 32) (by omega) hc
  obtain ⟨hinf, hmag⟩ | ⟨hfin, htop⟩ := decodeIeee_cases fp32_regular rfl hn
  · rw [f32Value, hinf, valueToF32, show 0x7F800000 = c % 2 ^ (32 - 1) from hmag.symm]
    exact congrArg (·, 0) hsign
  · rw [f32Value, hfin, valueToF32, finToF32_magValue htop]
    exact congrArg (·, 0) hsign

/-- A code of a Z format converts back to itself (R44, R57). -/
theorem convZ_decodeZ (hf : f.Regular) (hz : f.ieee = false) (hc : c < 2 ^ f.width) (hn : (decodeZ fmt f c).isNan = false)
    (h6 : fmt = 5 → c ≠ 2 ^ (f.width - 1)) {zovf : Bool} {dscale : Nat} :
    convZ fmt f zovf dscale mode (decodeZ fmt f c) = (c, 0) := by
  obtain ⟨hpos, hfin, htop⟩ := decodeZ_cases hf hz hc hn h6
  rw [hfin, convZ_magValue hf htop hpos, signCode_testBit (by have := hf.prec_lt; omega) hc]

/-- The signed value of a code lies in its format's range, and its low bits are the code. -/
theorem signedOf_range (hw : 1 ≤ w) (hc : c < 2 ^ w) :
    -(2 ^ (w - 1) : Int) ≤ signedOf c w ∧ signedOf c w ≤ 2 ^ (w - 1) - 1 ∧ wrapOf (signedOf c w) w = c := by
  have hdouble : (2 ^ w : Int) = 2 * 2 ^ (w - 1) := by rw [← pow_succ', Nat.sub_add_cancel hw]
  have hcast : ((2 ^ (w - 1) : Nat) : Int) = 2 ^ (w - 1) := by push_cast; rfl
  have hc' : (c : Int) < 2 ^ w := by exact_mod_cast hc
  simp only [signedOf, Nat.mod_eq_of_lt hc, wrapOf]
  split
  · refine ⟨by omega, by omega, ?_⟩
    rw [Int.emod_eq_of_lt (by omega) hc', Int.toNat_natCast]
  · refine ⟨by omega, by omega, ?_⟩
    rw [Int.sub_emod_right, Int.emod_eq_of_lt (by omega) hc', Int.toNat_natCast]

/-- A code of an integer format converts back to itself (R58). -/
theorem convInt_valueOfInt {iovf : Bool} (hw : 1 ≤ w) (hc : c < 2 ^ w) : convInt w iovf mode (valueOfInt (signedOf c w)) = (c, 0) := by
  obtain ⟨hlo, hhi, hwrap⟩ := signedOf_range hw hc
  have hsign : (if signedOf c w < 0 then -((signedOf c w).natAbs : Int) else (signedOf c w).natAbs) = signedOf c w := by
    split <;> omega
  have hfit : fitInt w iovf (signedOf c w) = (c, 0) := by simp [fitInt, hlo, hhi, hwrap]
  simp only [convInt, valueOfInt, roundAt_self, decide_eq_true_eq, hsign, hfit, Bool.false_eq_true, if_false]

/-- An integer format is no floating-point one (R36). -/
theorem ffmtOf_of_intWidth (h : intWidth fmt = some w) : ffmtOf fmt = none ∧ 1 ≤ w := by
  unfold intWidth at h
  split at h
  case h_5 => cases h
  all_goals
    obtain rfl := Option.some.inj h
    exact ⟨rfl, by decide⟩

/-- Z6, whose code of a sign alone reads +0, is the format with that sign in bit 5 (R39, R44). -/
theorem two_pow_width_of_z6 (h : ffmtOf fmt = some f) (h5 : fmt = 5) : 2 ^ (f.width - 1) = 0x20 := by
  subst h5
  obtain rfl := Option.some.inj h
  rfl

/-- A code of a floating-point format that is not a NaN, nor Z6's other zero, converts back to itself. -/
theorem convElem_decodeCode_float {cw : ConvWord} {iovf : Bool} (hcw : cw.dst = fmt) (hf : ffmtOf fmt = some f) (hc : c < 2 ^ f.width)
    (hn : (decodeCode fmt c).isNan = false) (h6 : fmt = 5 → c ≠ 0x20) : convElem cw iovf mode 0 (decodeCode fmt c) = (c, 0) := by
  have hreg := regular_of_ffmtOf hf
  simp only [decodeCode, hf] at hn ⊢
  simp only [convElem, hcw, hf, unscale_zero]
  cases hi : f.ieee with
  | true =>
    simp only [hi, if_true] at hn ⊢
    exact convIeee_decodeIeee hreg hi hc hn
  | false =>
    simp only [hi, Bool.false_eq_true, if_false] at hn ⊢
    exact convZ_decodeZ hreg hi hc hn (fun h5 => two_pow_width_of_z6 hf h5 ▸ h6 h5)

/-- A code of an integer format converts back to itself. -/
theorem convElem_decodeCode_int {cw : ConvWord} {iovf : Bool} (hcw : cw.dst = fmt) (hw : intWidth fmt = some w) (hc : c < 2 ^ w) :
    convElem cw iovf mode 0 (decodeCode fmt c) = (c, 0) := by
  obtain ⟨hf, hpos⟩ := ffmtOf_of_intWidth hw
  simp only [decodeCode, convElem, hcw, hf, hw, convInt_valueOfInt hpos hc]

/-! ### Packing -/

/-- A number that fits `k` bytes is read back from them. -/
theorem leNat_natLe (h : c < 2 ^ (8 * k)) : leNat (natLe k c) = c := by
  induction k generalizing c with
  | zero => simp only [mul_zero, pow_zero, Nat.lt_one_iff] at h; simp [natLe, leNat, h]
  | succ k ih =>
    have hdiv : c / 256 < 2 ^ (8 * k) := Nat.div_lt_of_lt_mul (by rwa [Nat.mul_succ, pow_add, mul_comm] at h)
    simp only [natLe, leNat, ih hdiv, BitVec.toNat_ofNat]
    omega

/-- `k` bytes are `k`. -/
@[simp] theorem length_natLe : (natLe k c).length = k := by
  induction k generalizing c with
  | zero => rfl
  | succ k ih => simp [natLe, ih]

/-- All of a block's bytes are the block. -/
theorem blockBytes_all {bs : List Byte} (h : bs.length = n) : blockBytes bs 0 n = bs := by
  subst h
  simp [blockBytes]

/-- Chunks of `k` elements laid end to end are its pieces. -/
theorem piecesOf_flatMap {α β : Type} {g : α → List β} {l : List α} (hk : 1 ≤ k) (hg : ∀ a, (g a).length = k) (hn : l.length ≤ n) :
    piecesOf k n (l.flatMap g) = l.map g := by
  induction l generalizing n with
  | nil => cases n <;> rfl
  | cons a l ih =>
    obtain ⟨n, rfl⟩ := Nat.exists_eq_add_of_le' (Nat.one_le_of_lt hn)
    obtain ⟨b, bs, hb⟩ := List.exists_cons_of_length_pos (l := g a) (by have := hg a; omega)
    have htail : piecesOf k n (l.flatMap g) = l.map g := ih (by simpa using hn)
    rw [List.flatMap_cons, List.map_cons, ← htail, hb, List.cons_append, piecesOf, ← List.cons_append, ← hb,
      List.take_left' (hg a), List.drop_left' (hg a)]
    · simp

/-- Codes of whole bytes unpack to themselves (R38). -/
theorem map_leNat_pieces {codes : List Nat} (hk : 1 ≤ k) (h : ∀ c ∈ codes, c < 2 ^ (8 * k)) :
    (pieces k (codes.flatMap (natLe k))).map leNat = codes := by
  have hlen : codes.length ≤ (codes.flatMap (natLe k)).length := by
    rw [List.length_flatMap]
    simpa using Nat.le_mul_of_pos_right codes.length hk
  rw [pieces, piecesOf_flatMap hk (fun _ => length_natLe) hlen, List.map_map]
  exact (List.map_congr_left fun c hc => leNat_natLe (h c hc)).trans (List.map_id' _)

/-- Two codes a byte, the last alone where their number is odd (R38, R39). -/
theorem length_packNibbles (codes : List Nat) : (packNibbles codes).length = ceilDiv codes.length 2 := by
  induction codes using packNibbles.induct with
  | case1 => rfl
  | case2 a => simp [packNibbles, ceilDiv]
  | case3 a b t ih => simp only [packNibbles, List.length_cons, ih, ceilDiv]; omega

/-- Codes of four bits unpack to themselves (R38, R39). -/
theorem take_flatMap_packNibbles {codes : List Nat} (h : ∀ c ∈ codes, c < 2 ^ 4) :
    ((packNibbles codes).flatMap (fun b => [b.toNat % 16, b.toNat / 16])).take codes.length = codes := by
  induction codes using packNibbles.induct with
  | case1 => rfl
  | case2 a =>
    have ha : a < 16 := h a (by simp)
    simp only [packNibbles, List.flatMap_cons, List.length_singleton, List.cons_append, List.take_succ_cons, List.take_zero,
      BitVec.toNat_ofNat, List.cons.injEq, and_true]
    omega
  | case3 a b t ih =>
    have ha : a < 16 := h a (by simp)
    have hb : b < 16 := h b (by simp)
    have ht := ih (fun c hc => h c (by simp [hc]))
    simp only [packNibbles, List.flatMap_cons, List.length_cons, List.cons_append, List.nil_append, List.take_succ_cons, ht,
      BitVec.toNat_ofNat, List.cons.injEq, and_true]
    omega

/-- An element's container is half a byte or whole bytes (R36). -/
theorem containerBits_cases (fmt : Nat) : containerBits fmt = 4 ∨ ∃ k, 1 ≤ k ∧ containerBits fmt = 8 * k := by
  have h : containerBits fmt ∈ [4, 8, 16, 32] := by
    unfold containerBits
    split <;> decide
  simp only [List.mem_cons, List.not_mem_nil, or_false] at h
  obtain h | h | h | h := h
  · exact .inl h
  · exact .inr ⟨1, by omega, h⟩
  · exact .inr ⟨2, by omega, h⟩
  · exact .inr ⟨4, by omega, h⟩

/-- Packed elements unpack to themselves (R38, R39). -/
theorem unpack_pack {codes : List Nat} (h : ∀ c ∈ codes, c < 2 ^ containerBits fmt) : unpack fmt codes.length (pack fmt codes) = codes := by
  obtain h4 | ⟨k, hk, h8⟩ := containerBits_cases fmt
  · rw [h4] at h
    rw [unpack, pack, if_pos h4, if_pos h4, blockBytes_all (length_packNibbles codes), take_flatMap_packNibbles h]
  · have hne : containerBits fmt ≠ 4 := by omega
    have hdiv : containerBits fmt / 8 = k := by omega
    have hlen : (codes.flatMap (natLe k)).length = codes.length * k := by simp [List.length_flatMap]
    rw [h8] at h
    rw [unpack, pack, if_neg hne, if_neg hne, hdiv]
    simp only [blockBytes_all hlen, map_leNat_pieces hk h]

/-- Settles O58: the codes of each kind of format, the patterns of FP32, and packing. -/
theorem codesAndRowsRoundTrip : Obligations.CodesAndRowsRoundTrip := by
  unfold Obligations.CodesAndRowsRoundTrip
  refine ⟨fun fmt code iovf mode w hfmt hc hn h6 => ?_, fun c mode => valueToF32_f32Value, fun fmt codes _ => unpack_pack⟩
  obtain ⟨f, hf, rfl⟩ | hw := hfmt
  · exact convElem_decodeCode_float rfl hf hc hn h6
  · exact convElem_decodeCode_int rfl hw hc

end Sys2Proof.Machine
end

section
/-!
SUPPORT. The retire point (R69, R240, R453, R464, R465, R474): what a descriptor's going changes. O20 is its short consequence.
-/

namespace Sys2Proof.Machine

set_option Elab.async false

variable {s t u : State} {x : Desc} {d : Did} {n st det : Nat}

/-! ### What the sequences and the cache of their entries may change -/

/-- `s` with the sequences and the submission rings of `t`. -/
def State.withSeqsOf (s t : State) : State := { s with seqs := t.seqs, subs := t.subs }

/-- `s` with all that a use of the sequence cache may change as `t` has it: entries are read, marked and written back, and a bad one is
logged (R240, R241). -/
def State.withCacheOf (s t : State) : State :=
  { s with seqs := t.seqs, seqDirty := t.seqDirty, subs := t.subs, seqCache := t.seqCache, log := t.log, mem := t.mem, ss := t.ss,
           ssPoison := t.ssPoison, wback := t.wback }

/-- Only sequences and submission rings differ. -/
def State.SeqsOnly (s t : State) : Prop := t = s.withSeqsOf t

/-- Only what a use of the sequence cache may change differs. -/
def State.CacheOnly (s t : State) : Prop := t = s.withCacheOf t

/-- One change of the sequences after another. -/
theorem State.SeqsOnly.trans (h : s.SeqsOnly t) (h' : t.SeqsOnly u) : s.SeqsOnly u :=
  Eq.trans h' (congrArg (fun v => State.withSeqsOf v u) (h : t = _) :)

/-- One use of the cache after another. -/
theorem State.CacheOnly.trans (h : s.CacheOnly t) (h' : t.CacheOnly u) : s.CacheOnly u :=
  Eq.trans h' (congrArg (fun v => State.withCacheOf v u) (h : t = _) :)

/-- A change of the sequences is one that a use of the cache may make. -/
theorem State.SeqsOnly.cacheOnly (h : s.SeqsOnly t) : s.CacheOnly t := by
  unfold State.CacheOnly
  rw [h]
  rfl

/-- LEAVING sequences that end change sequences alone. -/
theorem State.seqsOnly_settleSeqs : s.SeqsOnly s.settleSeqs := by
  refine List.foldlRecOn (motive := s.SeqsOnly) _ _ rfl (fun t ht n _ => ht.trans ?_)
  dsimp only
  split <;> rfl

/-- A draining ring that reads disabled changes the rings alone. -/
theorem State.seqsOnly_drainRing : s.SeqsOnly (s.drainRing n) := by
  unfold State.drainRing
  dsimp only
  split <;> rfl

/-- An entry written back. -/
theorem State.cacheOnly_writeBack : s.CacheOnly (s.writeBack n) := by
  unfold State.writeBack
  split <;> rfl

/-- A cache trimmed. -/
theorem State.cacheOnly_trimCache : s.CacheOnly (s.trimCache n) := by
  induction n generalizing s with
  | zero => rfl
  | succ n ih =>
    unfold State.trimCache
    split
    · rfl
    · split
      · rfl
      · next k _ =>
        have hback : s.CacheOnly (if s.seqDirty.contains k then s.writeBack k else s) := by
          split
          · exact State.cacheOnly_writeBack
          · rfl
        refine State.CacheOnly.trans ?_ ih
        exact hback.trans rfl

/-- An entry brought into the cache. -/
theorem State.cacheOnly_cacheSeq : s.CacheOnly (s.cacheSeq n) := by
  unfold State.cacheSeq
  refine State.CacheOnly.trans ?_ State.cacheOnly_trimCache
  split <;> rfl

/-- Entries brought into the cache. -/
theorem State.cacheOnly_cacheSeqs {ns : List Nat} : s.CacheOnly (s.cacheSeqs ns) :=
  List.foldlRecOn (motive := s.CacheOnly) _ _ rfl (fun _ ht _ _ => ht.trans State.cacheOnly_cacheSeq)

/-- Entries marked dirty. -/
theorem State.cacheOnly_dirtySeqs {ns : List Nat} : s.CacheOnly (s.dirtySeqs ns) := rfl

/-! ### The descriptor's going -/

/-- `s` without a descriptor and its pending faults. -/
def State.without (s : State) (d : Did) : State :=
  { s with descs := s.descs.filter (fun y => y.did != d), faults := s.faults.filter (fun f => f.d != some d) }

/-- A descriptor's going takes it and its faults away, and uses the cache for the entries of its views. -/
theorem State.cacheOnly_removeDesc : (s.without d).CacheOnly (s.removeDesc d) := by
  unfold State.removeDesc
  exact ((State.cacheOnly_cacheSeqs.trans State.cacheOnly_dirtySeqs).trans State.seqsOnly_settleSeqs.cacheOnly).trans State.seqsOnly_drainRing.cacheOnly

/-- Without a view it uses the cache for none. -/
theorem State.seqsOnly_removeDesc (h : ∀ y ∈ s.descs, y.did = d → y.views = []) : (s.without d).SeqsOnly (s.removeDesc d) := by
  have hviews : (s.descs.filter (fun y => y.did == d)).flatMap (fun y => y.views.map View.seq) = [] := by
    simpa [List.flatMap_eq_nil_iff] using h
  have hremove : s.removeDesc d = (s.without d).settleSeqs.drainRing d.ring := by
    simp [State.removeDesc, hviews, State.cacheSeqs, State.dirtySeqs, State.without]
  rw [hremove]
  exact State.seqsOnly_settleSeqs.trans State.seqsOnly_drainRing

/-- The state in which a retiring descriptor's record has been queued. -/
def State.reported (s : State) (x : Desc) (st det : Nat) : State :=
  s.report x (mergeStatus x.status st) (if mergeStatus x.status st = st then det else x.detail)

/-- A report queues one record in the descriptor's completion ring, or none where QUIET suppresses it, and changes nothing else
(R450, R464, R465, R468). -/
theorem State.report_eq {m : Nat} :
    s.report x m det =
      if x.quiet = true ∧ m = 0 then s
      else s.setComp (s.sub x.ring).cring ((s.comp (s.sub x.ring).cring).take
        { bytes := s.recordFor x m det, irq := x.irq || (m != 0 && m != 0x31), stamp := false, d := some x.did }) := by
  simp [State.report, State.pushRecord]

/-- A report changes completion rings alone. -/
theorem State.report_frame {m : Nat} : s.report x m det = { s with comps := (s.report x m det).comps } := by
  rw [State.report_eq]
  split <;> rfl

/-- What is left after a retirement. -/
def State.retired (s : State) (x : Desc) (st det : Nat) : State :=
  { s.without x.did with comps := (s.reported x st det).comps }

/-- After the report the descriptor goes. -/
theorem State.reported_without : (s.reported x st det).without x.did = s.retired x st det := by
  unfold State.reported
  rw [State.report_frame]
  rfl

/-- Retirement: the record, the descriptor's going, and what the cache's use may change. -/
theorem State.cacheOnly_retire : (s.retired x st det).CacheOnly (s.retire x st det) :=
  State.reported_without ▸ State.cacheOnly_removeDesc

/-- Retirement without a view: the record, the descriptor's going, sequences that end and a ring that has drained. -/
theorem State.seqsOnly_retire (h : ∀ y ∈ s.descs, y.did = x.did → y.views = []) :
    (s.retired x st det).SeqsOnly (s.retire x st det) := by
  have hdescs : (s.reported x st det).descs = s.descs := (congrArg State.descs (State.report_frame (s := s)) :)
  exact State.reported_without ▸ State.seqsOnly_removeDesc (by rwa [hdescs])

/-- A retired descriptor is found no more. -/
theorem State.desc?_retired : (s.retired x st det).desc? x.did = none := by
  simp [State.desc?, State.retired, State.without]

/-- The rings after a retirement, field by field of the record (R464). -/
theorem State.comps_reported :
    let m := mergeStatus x.status st
    let c := s.comp (s.sub x.ring).cring
    let r : Rec := { bytes := recordBytes x.tag m x.flags x.opcode x.ring x.index (x.field 2 2) (if m = st then det else x.detail) s.clkCtl
                       (if x.dequeued then s.clkCtl - x.tDeq else 0),
                     irq := x.irq || (m != 0 && m != 0x31), stamp := false, d := some x.did }
    (s.reported x st det).comps = if x.quiet = true ∧ m = 0 then s.comps
      else (s.setComp (s.sub x.ring).cring (if c.waiting.length < Config.maxWaiting then { c with waiting := c.waiting ++ [r] }
        else { c with held := c.held ++ [r] })).comps := by
  intro m c r
  rw [State.reported, State.report_eq]
  exact apply_ite State.comps _ _ _

/-- Settles O20: the two frames of a retirement, and their fields. -/
theorem retireQueuesOneRecordAndRemoves : Obligations.RetireQueuesOneRecordAndRemoves := by
  unfold Obligations.RetireQueuesOneRecordAndRemoves
  intro s x st det t m c r
  have h : t = (s.retired x st det).withCacheOf t := State.cacheOnly_retire
  have hseqs : (∀ y ∈ s.descs, y.did = x.did → y.views = []) → t = (s.retired x st det).withSeqsOf t := State.seqsOnly_retire
  clear_value t
  have hcomps : t.comps = (s.reported x st det).comps := (congrArg State.comps h :)
  have hdescs : t.descs = s.descs.filter (fun y => y.did != x.did) := (congrArg State.descs h :)
  have hfaults : t.faults = s.faults.filter (fun f => f.d != some x.did) := (congrArg State.faults h :)
  have hgone : (s.retired x st det).desc? x.did = none := State.desc?_retired
  refine ⟨?gone, hcomps.trans State.comps_reported, hdescs, hfaults, ?frame, fun hv => ?noViews⟩
  case gone => exact ((congrArg (State.desc? · x.did) h :)).trans hgone
  case frame =>
    rw [hcomps, hdescs, hfaults]
    exact h
  case noViews =>
    rw [hcomps, hdescs, hfaults]
    exact hseqs hv

end Sys2Proof.Machine
end

section
/-!
SUPPORT. Copies and what a refusal leaves alone (R69, R367, R369, R456, R469, R481). O26 is its short consequence.
-/

namespace Sys2Proof.Machine

set_option Elab.async false

variable {s t : State} {x : Desc} {d : Did} {q : ReadCheck} {r : BadRead} {op st det : Nat} {af sf : FlagSet} {m : Store}

/-- A use of the sequence cache leaves ranges, pools and cores alone. -/
theorem State.CacheOnly.units (h : s.CacheOnly t) : t.ranges = s.ranges ∧ t.pools = s.pools ∧ t.cores = s.cores :=
  ⟨(congrArg State.ranges h :), (congrArg State.pools h :), (congrArg State.cores h :)⟩

/-- A change of the sequences leaves memory and the SS alone. -/
theorem State.SeqsOnly.memory (h : s.SeqsOnly t) : t.mem = s.mem ∧ t.ss = s.ss :=
  ⟨(congrArg State.mem h :), (congrArg State.ss h :)⟩

/-- A retirement leaves ranges, pools and cores alone. -/
theorem State.retire_units :
    (s.retire x st det).ranges = s.ranges ∧ (s.retire x st det).pools = s.pools ∧ (s.retire x st det).cores = s.cores := by
  have h := (State.cacheOnly_retire (s := s) (x := x) (st := st) (det := det)).units
  simpa only [State.retired, State.without] using h

/-- Without a view it leaves memory alone. -/
theorem State.retire_memory (hv : ∀ y ∈ s.descs, y.did = x.did → y.views = []) :
    (s.retire x st det).mem = s.mem ∧ (s.retire x st det).ss = s.ss := by
  have h := (State.seqsOnly_retire (st := st) (det := det) hv).memory
  simpa only [State.retired, State.without] using h

/-- A read that the descriptor may make and that fails again ends it in a fault of the error's status (R481). -/
theorem State.readsMet_lasting (h : s.mayRead x r = true) :
    s.readsMet x (.lasting r) = (false, (s.readLost x r).descFault x (readStatus r)) := by simp [State.readsMet, h]

/-- One that the repeat cures is noted (R480). -/
theorem State.readsMet_retried (h : s.mayRead x r = true) :
    s.readsMet x (.retried r) = (true, (s.readCured x r).noteStatus x.did 0x31 0xFFFE) := by simp [State.readsMet, h]

/-- A read that it cannot make changes nothing. -/
theorem State.readsMet_foreign (h : s.mayRead x r = false) :
    s.readsMet x (.lasting r) = (true, s) ∧ s.readsMet x (.retried r) = (true, s) := by simp [State.readsMet, h]

/-- Work that a check refuses is concluded whatever the reads met. -/
theorem State.readThen_bad {work : State → Desc → Work} {fin : State → Desc → Work → State} (h : work s x = .bad st det) :
    s.readThen x q work fin = fin s x (.bad st det) := by
  unfold State.readThen
  rw [h]
  cases q <;> rfl

/-- MOVE, CONVERT and TURN are the copy of a descriptor of their opcode. -/
theorem exec_copy {i : RunCmd → Instr} (hi : (op, i) ∈ [(0x10, Instr.move), (0x11, .convert), (0x12, .turn)])
    (hx : s.running? d [op] = some x) :
    exec (i ⟨d, q⟩) s = .next (if s.regulated (s.partOf x) (s.copyUnits x) then s.readThen x q State.copyWork State.concludeCopy else s) := by
  have hcopy : s.copyDesc ⟨d, q⟩ op =
      if s.regulated (s.partOf x) (s.copyUnits x) then s.readThen x q State.copyWork State.concludeCopy else s := by
    simp [State.copyDesc, hx]
  simp only [List.mem_cons, Prod.mk.injEq, List.not_mem_nil, or_false] at hi
  rcases hi with ⟨rfl, rfl⟩ | ⟨rfl, rfl⟩ | ⟨rfl, rfl⟩ <;> exact congrArg _ hcopy

/-- The state in which a copy that is done retires: its units taken, its memories left (R369, R469). -/
def State.copied (s : State) (x : Desc) (m : Store) : State := (s.takeUnits (s.partOf x) (s.copyUnits x)).withStore m

/-- A copy that is done retires with its flags in its own set (R68). -/
theorem State.concludeCopy_done :
    s.concludeCopy x (.done st af sf m) = (s.copied x m).retire { x with flags := x.flags ||| af ||| sf } st 0 := rfl

/-- Settles O26: a refusal is a retirement; a copy waits for the regulator, is refused, or is done. -/
theorem copiesCompleteAndRefusalsChangeNothing : Obligations.CopiesCompleteAndRefusalsChangeNothing := by
  unfold Obligations.CopiesCompleteAndRefusalsChangeNothing
  refine ⟨fun s x st det => ?refusal, fun s d x op i hi hx => ⟨fun hr q => ?waits, fun hr => ⟨fun st det hw q => ?refused, ?done⟩⟩⟩
  case refusal =>
    obtain ⟨hranges, hpools, hcores⟩ := State.retire_units (s := s) (x := x) (st := st) (det := det)
    exact ⟨rfl, rfl, hranges, hpools, hcores, State.retire_memory,
      fun r => ⟨fun h => ⟨State.readsMet_lasting h, State.readsMet_retried h⟩, State.readsMet_foreign⟩⟩
  case waits => rw [exec_copy hi hx, hr]; rfl
  case refused => rw [exec_copy hi hx, if_pos hr, State.readThen_bad hw]; rfl
  case done =>
    intro st af sf m hw
    have hdone : exec (i ⟨d, .clean⟩) s = .next ((s.copied x m).retire { x with flags := x.flags ||| af ||| sf } st 0) := by
      rw [exec_copy hi hx, if_pos hr, ← State.concludeCopy_done, ← hw]
      rfl
    refine ⟨hdone, fun t ht => ?_⟩
    obtain rfl := Host.Outcome.next.inj (hdone.symm.trans ht)
    obtain ⟨-, -, hcores⟩ := State.retire_units (s := s.copied x m) (x := { x with flags := x.flags ||| af ||| sf }) (st := st) (det := 0)
    exact ⟨hcores, fun hv => State.retire_memory hv⟩

end Sys2Proof.Machine
end

section
/-!
SUPPORT. The clear of a core's flag sets (R70, R71). The write also takes the flags that the running kernel has raised out of its held sets,
which the statement of O16 leaves as they were: O16 fails.
-/

namespace Sys2Proof.Machine

set_option Elab.async false

variable {s : State} {core : Nat} {v raised : Word}

/-- The clear of the flags of a core of an enabled cluster is performed (R70, R532). -/
theorem exec_ztCoreFlagsClear (hc : core < 32) (hp : s.portOk = true) (hr : s.mgmt.phase = .ready) (hon : s.clusterOn (core / 4) = true) :
    exec (.ztCoreFlagsClear core v raised) s = .next (s.clearFlags core v raised) := by
  have hclear : execZtCoreFlagsClear core v raised s = .next (s.clearFlags core v raised) := by
    simp [execZtCoreFlagsClear, State.setupWrite, hc, hp, hr, hon]
  exact hclear

/-- An engine that is up, whose core 0 runs a kernel that has raised INX in its array set (R71). -/
def heldInx : State :=
  { State.reset with mgmt := { Mgmt.reset with phase := .ready, portReady := true, clmask := 0xFF },
                     cores := [(0, { Core.reset with aheld := flagInx })] }

/-- Refutes O16: on `heldInx`, the write of one to INX of core 0 takes INX out of the held array set too, where the statement keeps it. -/
theorem not_flagsRaisedWhileClearedStaySet : ¬ Obligations.FlagsRaisedWhileClearedStaySet := by
  unfold Obligations.FlagsRaisedWhileClearedStaySet
  intro h
  obtain ⟨hexec, -⟩ := h heldInx 0 1 0 (by decide) rfl rfl rfl
  rw [exec_ztCoreFlagsClear (by decide) rfl rfl rfl] at hexec
  have hheld := congrArg (fun t => (State.core t 0).aheld) (Host.Outcome.next.inj hexec)
  exact absurd hheld (by decide)

end Sys2Proof.Machine
end

section
/-!
SUPPORT. The steps of the array, of the MVP and of the SFU, and the epilogue, where their banks, tiles and queues admit them and what their
checks find is clean (R80, R85, R90 to R93, R105, R133, R137, R154, R333, R343). Each step is told once by a lemma about its step function
(`State.passStep_admitted`, `State.sfuStep_done`, ...); O46 is their short consequence. It rests on choices of the model that the
assumption log names: the SFU's program store (log 15), the packing of rows in the OSP (log 14) and the free count of bubbles (log 6).
-/

namespace Sys2Proof.Machine

set_option Elab.async false

variable {s : State} {c : Nat} {st : Step} {x : Desc}

/-! ### A step at the head of a queue -/

/-- A step that must wait holds its queue (R339). -/
theorem State.issue_hold {op width : Nat} {act : State → Desc → StepRes} {h : HoldKind} (hi : s.issuing c st = some x) (ho : stepOp st.word = op)
    (hr : stepReserved st.word width = true) (ha : act s x = .hold h) :
    s.issue c st op width act = s.setCore c { s.core c with hold := some (h, st) } := by
  simp [State.issue, hi, ho, hr, ha]

/-- A step that meets a first overflow tears its context down (R348). -/
theorem State.issue_fault {op width e : Nat} {act : State → Desc → StepRes} (hi : s.issuing c st = some x) (ho : stepOp st.word = op)
    (hr : stepReserved st.word width = true) (ha : act s x = .fault e) : s.issue c st op width act = s.coreFault c e := by
  simp [State.issue, hi, ho, hr, ha]

/-! ### Reads whose checks are clean -/

/-- A read of the accumulator memory meets no poisoned row (R322). -/
theorem State.poisonedRow_amReads {k : Core} {rows : List (Nat × Nat)} : s.poisonedRow c (k.amReads rows) = none := by
  simp [State.poisonedRow, Core.amReads]

/-- Only the other rows of a read count. -/
theorem State.poisonedRow_append_amReads {ats : List ReadAt} {k : Core} {rows : List (Nat × Nat)} :
    s.poisonedRow c (ats ++ k.amReads rows) = s.poisonedRow c ats := by
  have ham := State.poisonedRow_amReads (s := s) (c := c) (k := k) (rows := rows)
  unfold State.poisonedRow at ham ⊢
  rw [List.find?_append, ham, Option.or_none]

/-- A step whose reads meet no poisoned row and no error goes on in the same state (R319 to R322). -/
theorem State.checkedRead_clean {rs : List ReadAt} {act : State → StepRes} (he : st.ecc = .clean) (hp : s.poisonedRow c rs = none) :
    s.checkedRead c x st.ecc rs act = act s := by
  rw [he, State.checkedRead, State.checkRows_clean hp]

/-- A step whose function tables meet no parity error goes on, the functions in recovery noted (R148). -/
theorem State.parityChecked_clean {uses : List Nat} {act : State → StepRes} (hp : st.parity = .clean) :
    s.parityChecked c x uses st.parity act = act (s.noteRecovery c x uses) := by rw [hp, State.parityChecked]

/-! ### Rows that a step reads only where it needs them -/

section
variable {ats : List ReadAt} {bs block : List Byte} {acc : RowAcc × List ReadAt × List Byte}

/-- An access that a step makes where `P` holds, admitted there. -/
theorem access_of_needed {P : Prop} [Decidable P] (hread : P → acc = (.ok, ats, bs)) (hnone : ¬P → ats = [] ∧ bs = []) :
    (if P then acc else (.ok, [], [])) = (RowAcc.ok, ats, bs) := by
  split
  · next h => exact hread h
  · next h => obtain ⟨rfl, rfl⟩ := hnone h; rfl

/-- An access that a step makes except where `P` holds, admitted there. -/
theorem access_of_unneeded {P : Prop} [Decidable P] (hnone : P → ats = [] ∧ bs = []) (hread : ¬P → acc = (.ok, ats, bs)) :
    (if P then (.ok, [], []) else acc) = (RowAcc.ok, ats, bs) :=
  (ite_not P _ _).symm.trans (access_of_needed hread (fun h => hnone (not_not.mp h)))

/-- The weft rows of a PASS come from the feeder queues, are none past the contraction, or come from its admitted source (R85, R139). -/
theorem access_of_weft {fed : Bool} {kk : Nat} (hfed : fed = true → ats = [] ∧ bs = block) (hnone : fed = false → kk = 0 → ats = [] ∧ bs = [])
    (hread : fed = false → kk ≠ 0 → acc = (.ok, ats, bs)) :
    (if fed then (.ok, [], block) else if kk = 0 then (.ok, [], []) else acc) = (RowAcc.ok, ats, bs) := by
  cases fed with
  | true => obtain ⟨rfl, rfl⟩ := hfed rfl; rfl
  | false => exact access_of_unneeded (hnone rfl) (hread rfl)

end

/-! ### The steps of the array -/

section
variable {ats fats : List ReadAt} {bs fs : List Byte}

/-- A PASS of a valid shape whose rows, factors and tiles are admitted waits for its feeder queues, or its results go to the accumulator
memory (R85, R120, R135, R139). -/
theorem State.passStep_admitted {p : PassCtl} {a : PassArgs} {g : Geom} {kk fed : Nat} (hp : s.stepCtl x st (s.headRole c) = p)
    (ha : s.passArgs x.ctx st = a) (hg : geomOf a.shape a.pair (max (widthClass p.wfmt) (widthClass p.sfmt)) = some g)
    (hk : s.passLive x p (a.shape == 3) g st.group = kk) (hfed : (if s.headFed c then fedPer g * a.rows else 0) = fed)
    (hblock : (if s.headFed c then (.ok, [], (s.core c).fedBlock p g kk a.rows)
      else if kk = 0 then (.ok, [], []) else s.source c x.ctx a.src a.wrow (weftRows p kk a.rows)) = (RowAcc.ok, ats, bs))
    (hfact : (if a.fact then s.source c x.ctx (.osp 4) a.frow 1 else (.ok, [], [])) = (RowAcc.ok, fats, fs))
    (he : st.ecc = .clean) (hclean : s.poisonedRow c (ats ++ fats) = none) (ht : (s.core c).tilesOk a.amt g.slices = true) :
    s.passStep c st x = if (s.core c).feed.length < fed then .hold .feed else .done ((s.passDo c st x p a g kk bs fs).takeFeed c fed) := by
  subst hp ha hk hfed
  simp only [State.passStep, hg, hblock, hfact, ht, if_true, RowAcc.worse, guardAcc]
  rw [State.checkedRead_clean he (State.poisonedRow_append_amReads.trans hclean)]

/-- An MVMAT whose lines and tiles are admitted stores its outputs (R105, R343). -/
theorem State.mvmatStep_done {p : PassCtl} {n : Nat} {t : Int} (hp : s.stepCtl x st (s.headRole c) = p) (hn : stepArg st.word 22 12 + 1 = n)
    (hf : fieldAt st true (stepArg st.word 18 4) = t)
    (hlines : s.source c x.ctx (if stepArg st.word 34 1 = 1 then .ss (s.kernelSsWin x.ctx (stepArg st.word 35 3)) else .osp 3)
      (fieldAt st false (stepArg st.word 0 18)) (blockRows (elemBytes p.sfmt ((s.core c).mvpK p.wfmt))
        (if p.sscale then (s.core c).mvpK p.wfmt / 32 else 0) n) = (.ok, ats, bs))
    (he : st.ecc = .clean) (hclean : s.poisonedRow c ats = none) (ht : (s.core c).tilesOk t (ceilDiv n 4096) = true) :
    s.mvmatStep c st x = .done (s.mvmatDo c st x p t.toNat n bs) := by
  subst hp hn hf
  simp only [State.mvmatStep, hlines, ht, if_true, RowAcc.worse, guardAcc]
  exact State.checkedRead_clean he (State.poisonedRow_append_amReads.trans hclean)

/-- The row from which an SHLOAD counts: with its slot bit the first of the slot that the core took last, else the first of its area (R91). -/
theorem Core.shloadBase_eq {k : Core} {w : BitVec 128} {r : Nat} {base : Int}
    (htaken : stepArg w 27 1 = 1 → k.takenRow x.ctx = some r ∧ base = (r : Int) - (k.area x.ctx).base)
    (harea : stepArg w 27 1 ≠ 1 → base = 0) :
    (if stepArg w 27 1 = 1 then (k.takenRow x.ctx).map (fun r => (r : Int) - (k.area x.ctx).base) else some 0) = some base := by
  split
  · next h => obtain ⟨htake, rfl⟩ := htaken h; rw [htake]; rfl
  · next h => rw [harea h]

/-- An SHLOAD into an empty shadow set whose lines and scales are admitted loads it (R80, R91, R93). -/
theorem State.shloadStep_done {base : Int} {bts : List ReadAt} {sc : List Byte}
    (hbase : (if stepArg st.word 27 1 = 1 then ((s.core c).takenRow x.ctx).map (fun r => (r : Int) - ((s.core c).area x.ctx).base)
      else some 0) = some base)
    (hlines : s.source c x.ctx (.osp 2) (base + fieldAt st false (stepArg st.word 0 13))
      (lineBytes (s.stepCtl x st (s.headRole c)).sfmt / 4) = (.ok, ats, bs))
    (hscales : (if stepArg st.word 26 1 = 1 then s.source c x.ctx (.osp 2) (fieldAt st true (stepArg st.word 13 13))
      (ceilDiv (tileScales (s.stepCtl x st (s.headRole c)).sfmt) 512) else (.ok, [], [])) = (RowAcc.ok, bts, sc))
    (he : st.ecc = .clean) (hclean : s.poisonedRow c (ats ++ bts) = none) (hempty : (s.core c).shdFull = false) :
    s.shloadStep c st x =
      .done (s.setCore c { s.core c with shd := { loaded := true, lines := bs, scales := sc }, shdFull := true }) := by
  simp only [State.shloadStep, hbase, hlines, beq_iff_eq, hscales, RowAcc.worse, guardAcc, hempty, Bool.false_eq_true, if_false]
  exact State.checkedRead_clean he hclean

/-- An MVEC whose vectors are admitted fills the vector buffer (R105). -/
theorem State.mvecStep_done {p : PassCtl} {m kk b : Nat} (hp : s.stepCtl x st (s.headRole c) = p) (hm : stepArg st.word 13 2 + 1 = m)
    (hk : 32 * (stepArg st.word 15 7 + 1) = kk) (hb : elemBytes p.wfmt kk = b)
    (hrows : s.source c x.ctx (.osp 3) (fieldAt st false (stepArg st.word 0 13)) (weftRows p kk m) = (.ok, ats, bs))
    (he : st.ecc = .clean) (hclean : s.poisonedRow c ats = none) :
    s.mvecStep c st x = .done (s.setCore c { s.core c with mvp := (upTo m).map (fun i =>
      packedRow bs b i ++ (if p.wscale then packedScales bs b (kk / 32) m i else List.replicate (kk / 32) 0)) }) := by
  subst hp hm hk hb
  simp only [State.mvecStep, hrows, guardAcc]
  exact State.checkedRead_clean he hclean

end

/-! ### The SFU -/

section
variable {g : SfuProg} {t : Int} {n : Nat} {need : SfuNeed}

/-- An SFU step of a program of the kernel's store, its rows and tiles admitted, stores what its program gives, the functions in recovery noted
(R137, R139, R148). -/
theorem State.sfuStep_done {orow : Int} {r fr : Nat} {ats : List ReadAt} {bs : List Byte}
    (hg : (s.kernel x.ctx).plan.progs[stepArg st.word 17 10]? = some g) (hn : stepArg st.word 27 7 + 1 = n)
    (ht : fieldAt st true (stepArg st.word 13 4) = t) (ho : fieldAt st false (stepArg st.word 0 13) = orow) (hneed : s.sfuNeed x g t.toNat n = need)
    (hattn : sfuAttn g.op = true → x.opcode = 0x01 ∧ (s.core c).actingSkein ≠ none)
    (hout : (if g.feeds then (.ok, 0) else (s.core c).relRows x.ctx true 2 orow need.out) = (RowAcc.ok, r))
    (hfact : (if need.factors then (s.core c).relRows x.ctx true 2 (orow + g.first) 1 else (.ok, 0)) = (RowAcc.ok, fr))
    (hosp : (if need.osp = 0 then (.ok, [], []) else s.source c x.ctx (.osp 4) (orow + g.first) need.osp) = (RowAcc.ok, ats, bs))
    (hclean : s.poisonedRow c ats = none) (htile : need.tiles = 0 ∨ (s.core c).tilesOk t need.tiles = true)
    (he : st.ecc = .clean) (hp : st.parity = .clean) :
    s.sfuStep c st x = .done ((s.noteRecovery c x need.uses).sfuStore c x g r fr ((s.noteRecovery c x need.uses).sfuOut c st x g
      (((s.core c).runningSkein.map Prod.snd).getD Skein.reset) t.toNat n bs)) := by
  subst hn ht ho hneed
  have hok : (sfuAttn g.op && (x.opcode != 0x01 || (s.core c).actingSkein.isNone)) = false := by
    cases hop : sfuAttn g.op with
    | false => rfl
    | true => obtain ⟨hx, hskein⟩ := hattn hop; simp [hx, Option.isSome_iff_ne_none.mpr hskein]
  simp only [State.sfuStep, hg, hok, hout, hfact, hosp, Bool.or_eq_true, decide_eq_true_eq, if_pos htile, RowAcc.worse, guardAcc,
    Bool.false_eq_true, if_false]
  rw [State.checkedRead_clean he (State.poisonedRow_append_amReads.trans hclean), State.parityChecked_clean hp]

/-- A step of a micro-program gives its converted rows (R139, R162), whatever its skein. -/
theorem State.sfuOut_map {v : Skein} {bs : List Byte} (hop : g.op = .map) :
    s.sfuOut c st x g v t.toNat n bs = s.sfuMap c st x g t.toNat n bs := by
  rw [State.sfuOut, hop]

end

/-! ### The epilogue -/

/-- Runs that all resolve let a step go on to its rows (R376, R392). -/
theorem State.stepRuns_reached {runs : List Run} {act : Unit → StepRes} (h : s.firstBad x runs = none) : s.stepRuns c x runs act = act () := by
  simp [State.stepRuns, State.streamRuns, State.badRow, h, State.streamMet]

/-- Rows whose runs all resolve let a step go on (R376, R392). -/
theorem State.streamRuns_reached {runs : Nat → List Run} {j m : Nat} {part : Nat → State} {stop : State → StepRes} {act : Unit → StepRes}
    (h : s.badRow x runs (m - j) j = none) : s.streamRuns c x runs j m part stop act = act () := by
  rw [State.streamRuns, h, State.streamMet]

/-- The runs of the vectors BIAS and SCALE that an EPI of an entry reads (R158, R159). -/
def State.epiVecs (s : State) (x : Desc) (st : Step) (e : Xfer) : List Run :=
  (if (s.kernelEpi x).biasv then [s.vecRun x 0 st.group e.nx] else [])
    ++ (if (s.kernelEpi x).scalev then [s.vecRun x ((s.kernelEpi x).scaleOff (s.kernelVec x)) st.group e.nx] else [])

/-- The functions of the SFU that an EPI uses: those of its activation, or of its image (R148, R154). -/
def State.epiUses (s : State) (c : Nat) (x : Desc) : List Nat :=
  actUses (ctlAct (s.kernelEpi x).ctl) ((s.core c).uprog (ctlAct (s.kernelEpi x).ctl - 0x40)).image

section
variable {e : Xfer} {t : Nat}

/-- An epilogue whose checks are clean stores the rows that it makes, with their flags (R136, R140, R154). -/
theorem State.epiDo_clean {w : ConvWord} {sup : State → Nat → List Byte} {store : State → List RowOut → State} {u : State} {rows : List RowOut}
    (hu : s.noteRecovery c x (s.epiUses c x) = u) (hrows : u.epiRows c st x e w t (sup u) = rows) (he : st.ecc = .clean) (hp : st.parity = .clean) :
    s.epiDo c st x e w t sup store = .done ((store u rows).sfuFlags c x (orFlags (rows.map RowOut.flags))) := by
  subst hu hrows
  rw [State.epiDo, State.checkedRead_clean he State.poisonedRow_amReads]
  exact State.parityChecked_clean hp

end

section
variable {xb : List Byte} {e : Xfer} {t drow : Int} {u : State}
  (hxb : (s.kernel x.ctx).plan.xfers[stepArg st.word 27 8]? = some xb) (hxe : xferOf xb = e) (ht : fieldAt st true (stepArg st.word 18 4) = t)
  (hu : s.noteRecovery c x (s.epiUses c x) = u)
  (hok : e.epiOk xb (stepArg st.word 22 2 == 2 && !s.toBolts x) = true) (hs : (s.core c).streaming = false)
  (htile : (s.core c).tilesOk t 1 = true) (hvecs : s.firstBad x (s.epiVecs x st e) = none) (he : st.ecc = .clean) (hp : st.parity = .clean)

include hxb hxe ht hu hok hs htile hvecs he hp

/-- An EPI into admitted OSP rows (R154). -/
theorem State.epiStep_osp {r : Nat} {rows : List RowOut} (hdest : stepArg st.word 22 2 = 0)
    (hd : fieldAt st false (stepArg st.word 0 18) = drow)
    (hr : (s.core c).relRows x.ctx true 2 drow (blockSpan e e.ny) = (.ok, r))
    (hrows : u.epiRows c st x e e.word t.toNat (fun i => e.word.supplied (u.scaleDraw 5) i e.nx) = rows) :
    s.epiStep c st x = .done (((u.writeRowsAt c r (rowsBlock e rows)).noteTarget x e.word.dst rows).sfuFlags c x
      (orFlags (rows.map RowOut.flags))) := by
  subst hxe ht hd
  rw [hdest] at hok
  simp only [State.epiStep, hxb, hdest, hok, hs, hr, htile, if_true, RowAcc.worse, guardAcc, Bool.not_true, Bool.false_and,
    Bool.false_eq_true, if_false]
  exact (State.stepRuns_reached hvecs).trans (State.epiDo_clean hu hrows he hp)

/-- An EPI into admitted rows of an SS window: its acknowledgement is due (R154, R310). -/
theorem State.epiStep_ss {r : Nat} {rows : List RowOut} {v : State} (hdest : stepArg st.word 22 2 = 1)
    (hd : fieldAt st false (stepArg st.word 0 18) = drow)
    (hr : s.ssRows c x.ctx (s.kernelSsWin x.ctx (stepArg st.word 24 3)) true drow (blockSpan e e.ny) = some r)
    (hrows : u.epiRows c st x e e.word t.toNat (fun i => e.word.supplied (u.scaleDraw 5) i e.nx) = rows)
    (hv : u.putSsRows r (rowsBlock e rows) = v) :
    s.epiStep c st x = .done (((v.setCore c { v.core c with loomDue := (v.core c).loomDue ++ [32] }).noteTarget x e.word.dst rows).sfuFlags c x
      (orFlags (rows.map RowOut.flags))) := by
  subst hxe ht hd hv
  rw [hdest] at hok
  simp only [State.epiStep, hxb, hdest, hok, hs, hr, htile, if_true, guardAcc, Bool.not_true, Bool.false_and, Bool.false_eq_true,
    if_false]
  exact (State.stepRuns_reached hvecs).trans (State.epiDo_clean hu hrows he hp)

/-- An EPI into the bolts of its kernel's write list (R252, R253). -/
theorem State.epiStep_bolts (hdest : stepArg st.word 22 2 = 2) (hb : s.toBolts x = true) (hgroup : st.group % 32 = 0)
    (hbad : s.badBoltRow st x e (s.core c).movedRows = none) :
    s.epiStep c st x = .done ((u.boltStore c st x e t.toNat (s.core c).movedRows e.ny).1.sfuFlags c x
      (u.boltStore c st x e t.toNat (s.core c).movedRows e.ny).2) := by
  subst hxe ht hu
  simp only [hdest, hb, beq_self_eq_true, Bool.not_true, Bool.and_false] at hok
  simp only [State.epiStep, hxb, hdest, beq_self_eq_true, Bool.and_false, hok, hs, hb, hgroup, hbad, htile,
    if_true, guardAcc, Bool.not_true, Bool.false_and, Bool.false_eq_true, if_false, bne_self_eq_false]
  refine (State.stepRuns_reached hvecs).trans ?_
  rw [State.streamMet, State.checkedRead_clean he State.poisonedRow_amReads]
  exact State.parityChecked_clean hp

/-- An EPI into plane DROW of its entry in memory: the rows not moved before are stored and counted (R73, R154, R376). -/
theorem State.epiStep_memory {all : List RowOut} {new : List (RowOut × Nat)} (hdest : stepArg st.word 22 2 = 2) (hb : s.toBolts x = false)
    (hd : fieldAt st false (stepArg st.word 0 18) = drow) (hplane : 0 ≤ drow)
    (hbad : s.badRow x (e.rowRuns drow.toNat) (e.ny - (s.core c).movedRows) (s.core c).movedRows = none)
    (hall : u.epiRows c st x e e.word t.toNat (fun y => if e.word.dscale = 2 then u.fetchRun u.store x (e.supplied drow.toNat y) else []) = all)
    (hnew : all.zipIdx.filter (fun r => (s.core c).movedRows ≤ r.2 && decide (r.2 < e.ny)) = new) :
    s.epiStep c st x = .done (((u.withStore (new.foldl (fun m r => u.putOut x e m drow.toNat r.2 r.1) u.store)).countStored x e
      (new.map Prod.fst)).sfuFlags c x (orFlags (all.map RowOut.flags))) := by
  subst hxe ht hd hnew
  simp only [hdest, hb, beq_self_eq_true, Bool.not_false, Bool.and_self] at hok
  simp only [State.epiStep, hxb, hdest, beq_self_eq_true, Bool.not_false, Bool.and_self, hok, hs, hb, htile, if_true,
    guardAcc, Bool.not_true, Bool.false_and, Bool.false_eq_true, if_false, if_neg (Int.not_lt.mpr hplane)]
  exact (State.stepRuns_reached hvecs).trans ((State.streamRuns_reached hbad).trans (State.epiDo_clean hu hall he hp))

end

/-- Settles O46: what each step function answers (R85, R90 to R93, R105, R133, R137, R154, R343) is done at the head of its queue, an array
step's with the free count of its bubbles (log 6), holds it, or is a fault. -/
theorem arrayVectorAndFunctionStepsComplete : Obligations.ArrayVectorAndFunctionStepsComplete := by
  unfold Obligations.ArrayVectorAndFunctionStepsComplete
  refine ⟨?array, ?vector⟩
  case array =>
    intro s c st x hi he k p w finished
    refine ⟨?pass, ?mvmat, ?shload, ?swap, ?tclr⟩
    case pass =>
      intro ho hr a g hg kk fed ats bs fats fs hfed hnone hsource hbare hfact hclean htiles
      have hstep := State.passStep_admitted rfl rfl hg rfl rfl (access_of_weft hfed hnone hsource)
        (access_of_needed hfact (fun h => hbare (eq_false_of_ne_true h))) he hclean htiles
      exact ⟨fun hle => congrArg _ (State.issue_done hi ho hr (hstep.trans (if_neg (Nat.not_lt.mpr hle)))),
        fun hlt => congrArg _ (State.issue_hold hi ho hr (hstep.trans (if_pos hlt)))⟩
    case mvmat =>
      intro ho hr n kk t ats bs hlines hclean htiles
      exact congrArg _ (State.issue_done hi ho hr (State.mvmatStep_done rfl rfl rfl hlines he hclean htiles))
    case shload =>
      intro ho hr hempty base r ats bs bts sc htaken harea hlines hscales hbare hclean
      exact congrArg _ (State.issue_done hi ho hr (State.shloadStep_done (Core.shloadBase_eq htaken harea) hlines
        (access_of_needed hscales hbare) he hclean hempty))
    case swap =>
      intro ho hr
      exact ⟨fun hfull => congrArg _ (State.issue_done hi ho hr (if_pos hfull)),
        fun hempty => congrArg _ (State.issue_hold hi ho hr (if_neg (ne_true_of_eq_false hempty)))⟩
    case tclr =>
      intro ho hr t
      exact ⟨fun htile => congrArg _ (State.issue_done hi ho hr (if_pos htile)),
        fun htile => congrArg _ (State.issue_fault hi ho hr (if_neg (ne_true_of_eq_false htile)))⟩
  case vector =>
    intro s c st x hi he hp k w
    refine ⟨?mvec, ?sfu, ?epi⟩
    case mvec =>
      intro ho hr p m kk b ats bs hrows hclean
      exact congrArg _ (State.issue_done hi ho hr (State.mvecStep_done rfl rfl rfl rfl hrows he hclean))
    case sfu =>
      intro ho hr n t orow g hg cv need u v r fr ats bs hattn hfeeds hrows hfact hbare hosp hnone htile
      have hread : s.poisonedRow c ats = none := by
        by_cases h : need.osp = 0
        · obtain ⟨rfl, rfl⟩ := hnone h; rfl
        · exact (hosp h).2
      exact ⟨congrArg _ (State.issue_done hi ho hr (State.sfuStep_done hg rfl rfl rfl rfl hattn
        (ite_eq_iff'.mpr ⟨fun h => by rw [hfeeds h], fun h => hrows (eq_false_of_ne_true h)⟩)
        (ite_eq_iff'.mpr ⟨hfact, fun h => by rw [hbare (eq_false_of_ne_true h)]⟩)
        (access_of_unneeded hnone (fun h => (hosp h).1)) hread htile he hp)), fun hop => State.sfuOut_map hop⟩
    case epi =>
      intro ho hr xb hxb e t drow b vecs u rows free done hok hs htile hvecs
      refine ⟨fun r hdest hrel => ?osp, fun r hdest hss => ?ss, fun hdest hb hgroup hbad => ?bolts, fun hdest hb hplane hbad => ?memory⟩
      case osp =>
        exact congrArg _ (State.issue_done hi ho hr (State.epiStep_osp hxb rfl rfl rfl hok hs htile hvecs he hp hdest rfl hrel rfl))
      case ss =>
        exact congrArg _ (State.issue_done hi ho hr (State.epiStep_ss hxb rfl rfl rfl hok hs htile hvecs he hp hdest rfl hss rfl rfl))
      case bolts =>
        exact congrArg _ (State.issue_done hi ho hr
          (State.epiStep_bolts hxb rfl rfl rfl hok hs htile hvecs he hp hdest hb hgroup hbad))
      case memory =>
        exact congrArg _ (State.issue_done hi ho hr
          (State.epiStep_memory hxb rfl rfl rfl hok hs htile hvecs he hp hdest hb rfl hplane hbad rfl rfl))

end Sys2Proof.Machine
end

section
/-!
SUPPORT. Start-up: its phases in their order (R504 to R516) and its self-tests (R24, R147, R148, R506). O7 is their short consequence.
-/

namespace Sys2Proof.Machine

set_option Elab.async false

variable {s t : State} {f : SfdpFound} {i offset gen addr n : Nat} {p : Phase}

/-! ### What the log leaves alone -/

/-- An event below FATAL leaves the management part alone (R499). -/
theorem State.logEvent_mgmt {event cls unit index place ctx : Nat} {tag : Word} (h : cls ≠ 3) :
    (s.logEvent event cls unit index place ctx tag).mgmt = s.mgmt := by
  simp [State.logEvent, h]

/-- The log leaves the cores alone. -/
theorem State.logEvent_cores {event cls unit index place ctx : Nat} {tag : Word} :
    (s.logEvent event cls unit index place ctx tag).cores = s.cores := by
  unfold State.logEvent
  dsimp only
  split <;> rfl

/-- A rejected record is logged alone (R501). -/
theorem State.logRecord_mgmt : (s.logRecord offset gen).mgmt = s.mgmt := State.logEvent_mgmt (by decide)

/-- A powered block is in the phase that its management part shows. -/
theorem State.inPhase_of (hp : s.mgmt.power = .on) (h : s.mgmt.phase = p) : s.inPhase p = true := by
  simp [State.inPhase, hp, h]

/-! ### RESET to FACTORY -/

/-- The PLLs of start-up lock, or start-up stops with cause 1 (R504, R506). -/
theorem exec_startupPllLock {locked : Bool} (h : s.inPhase .reset = true) :
    exec (.startupPllLock locked) s = .next (if locked then s.toPhase .sfdp else s.startFail 1) := congrArg _ (if_pos h)

/-- A serial memory that the block can use gives its size and its clock; any other stops start-up with cause 2 (R506, R507). -/
theorem exec_sfdpDiscoveryDone (h : s.inPhase .sfdp = true) :
    exec (.sfdpDiscoveryDone f) s = .next (if f.readable ∧ 28 ≤ f.logBits ∧ f.fast144 ∧ 25 ≤ f.maxMhz then
      { s with mgmt := { s.mgmt with phase := .factory, spiLogBits := f.logBits, spiMhz := spiClock f.maxMhz } }
      else s.startFail 2) := by
  simp [exec, execSfdpDiscoveryDone, h, and_assoc]

/-- An intact factory record gives the part's limits; its calibration and its repair map are read with them (R510, R512). -/
theorem exec_factoryRecordRead {hd : List Byte} {es : List (Nat × List Byte)} (h : s.inPhase .factory = true)
    (hr : s.recordAt 0 1 (2 ^ 20 - 32) 8 = some (hd, es)) (hz : fieldOf hd 4 4 = 0) :
    ∃ cal map, exec .factoryRecordRead s = .next { s with mgmt := { s.mgmt with
      phase := .records, minver := fieldOf hd 12 4, calFactory := cal, repairMap := map } } := by
  simp only [exec, execFactoryRecordRead, h, hr, hz, bne_self_eq_false, Bool.false_eq_true, if_true, if_false]
  exact ⟨_, _, rfl⟩

/-- Without one start-up stops with cause 3 (R506). -/
theorem exec_factoryRecordRead_none (h : s.inPhase .factory = true) (hr : s.recordAt 0 1 (2 ^ 20 - 32) 8 = none) :
    exec .factoryRecordRead s = .next (s.startFail 3) := by
  simp only [exec, execFactoryRecordRead, h, hr, if_true]

/-! ### The user records -/

/-- The choice of a user record is logged at most (R498, R501). -/
theorem State.chooseRecord_mgmt : s.chooseRecord.1.mgmt = s.mgmt := by
  unfold State.chooseRecord
  dsimp only
  split
  case h_1 => split_ifs <;> rfl
  case h_2 => exact State.logRecord_mgmt
  case h_3 => exact State.logRecord_mgmt
  case h_4 => exact State.logRecord_mgmt.trans State.logRecord_mgmt

/-- A user entry leaves the serial memory alone (R513). -/
theorem State.userEntry_flash {e : Nat × List Byte} : (State.userEntry addr gen s e).mgmt.flash = s.mgmt.flash := by
  unfold State.userEntry
  dsimp only
  split_ifs
  · rfl
  · rfl
  · rw [State.logRecord_mgmt]

/-- So do all the entries of a record. -/
theorem State.userEntries_flash {es : List (Nat × List Byte)} :
    (es.foldl (State.userEntry addr gen) s).mgmt.flash = s.mgmt.flash := by
  induction es generalizing s with
  | nil => rfl
  | cons e es ih => exact ih.trans State.userEntry_flash

/-- The state once the chosen user record's entries are applied (R498, R511, R513). -/
def State.userApplied (s : State) : State :=
  match s.chooseRecord.2 with
  | some (addr, gen, es) => es.foldl (State.userEntry addr gen) s.chooseRecord.1
  | none => s.chooseRecord.1

/-- The user records leave the serial memory alone. -/
theorem State.userApplied_flash : s.userApplied.mgmt.flash = s.mgmt.flash := by
  have hchoice := congrArg Mgmt.flash (State.chooseRecord_mgmt (s := s))
  unfold State.userApplied
  split
  · exact State.userEntries_flash.trans hchoice
  · exact hchoice

/-- The firmware image to try first: that of the higher version, of equal ones image A (R516). -/
def State.firstImage (s : State) : Nat := if s.imageVersion 0 < s.imageVersion 1 then 1 else 0

/-- The image to try first depends on the serial memory alone. -/
theorem State.firstImage_congr (h : t.mgmt.flash = s.mgmt.flash) : t.firstImage = s.firstImage := by
  have hver : ∀ k, t.imageVersion k = s.imageVersion k := fun k => by simp only [State.imageVersion, State.flashAt, h]
  unfold State.firstImage
  rw [hver, hver]

/-- The user records are applied and the image to try first is chosen (R498, R511, R516). -/
theorem exec_userRecordsRead (h : s.inPhase .records = true) :
    exec .userRecordsRead s = .next { s.userApplied with mgmt := { s.userApplied.mgmt with
      phase := .calib, choice := some s.userApplied.firstImage, tried := [] } } := by
  simp only [exec, execUserRecordsRead, State.userApplied, h, if_true]
  generalize s.chooseRecord = c
  obtain ⟨u, r⟩ := c
  cases r <;> rfl

/-! ### Calibration -/

/-- The effective ceiling of one cluster applied, and its PLLs relocked where it is on the part (R3, R504, R513). -/
def State.ceilingApplied (s : State) (n : Nat) : State :=
  match s.mgmt.effective 0x0006 n with
  | some f =>
    let c := { s.cluster n with ceilMhz := f.toNat }
    s.setCluster n (if s.mgmt.part.fused.getLsbD n then c.relocked else c)
  | none => s

/-- Of the management part, only the clusters changed. -/
def Mgmt.ClustersOnly (m m' : Mgmt) : Prop := m' = { m with clusters := m'.clusters }

/-- A ceiling changes clusters only. -/
theorem State.clustersOnly_ceilingApplied : s.mgmt.ClustersOnly (s.ceilingApplied n).mgmt := by
  unfold State.ceilingApplied
  split <;> rfl

/-- So do the ceilings of several clusters. -/
theorem State.clustersOnly_ceilingsApplied {ns : List Nat} : s.mgmt.ClustersOnly (ns.foldl State.ceilingApplied s).mgmt := by
  induction ns generalizing s with
  | nil => rfl
  | cons n ns ih =>
    have hone := State.clustersOnly_ceilingApplied (s := s) (n := n)
    have hrest := ih (s := s.ceilingApplied n)
    unfold Mgmt.ClustersOnly at *
    rw [List.foldl_cons, hrest, hone]

/-- The throttle point of the factory record, or 800 where it gives none (R513; the model's choice, log 26). -/
def Mgmt.throttlePoint (m : Mgmt) : Int := (m.effective 0x0005 0).getD 800

/-- The state with its throttle point in force, before the ceilings are applied. -/
def State.pointApplied (s : State) : State :=
  { s with mgmt := { s.mgmt with phase := .selftest, calPoint := s.mgmt.throttlePoint, point := s.mgmt.throttlePoint } }

/-- Calibration puts the throttle point and the ceilings in force (R504, R513). -/
theorem exec_calibrationApplied (h : s.inPhase .calib = true) :
    exec .calibrationApplied s = .next ((upTo 8).foldl State.ceilingApplied s.pointApplied) := congrArg _ (if_pos h)

/-! ### The firmware image -/

/-- A signed image with a good header is read (R515). -/
theorem exec_fwsigCheckDone (h : s.inPhase .fwsig = true) (hc : s.mgmt.choice = some i) (hok : s.imageHeaderOk i = true) :
    exec (.fwsigCheckDone true) s = .next (s.toPhase .fwread) := by
  simp [exec, execFwsigCheckDone, h, hc, hok]

/-- An image of the right hash is loaded (R515). -/
theorem exec_fwreadDone (h : s.inPhase .fwread = true) (hc : s.mgmt.choice = some i) :
    exec (.fwreadDone true) s = .next (s.toPhase .fwload) := by
  simp [exec, execFwreadDone, h, hc]

/-- Its firmware starts and the engine is READY (R504). -/
theorem exec_fwloadReady (h : s.inPhase .fwload = true) :
    exec .fwloadReady s = .next { s with mgmt := { s.mgmt with phase := .ready, image := s.mgmt.choice.getD 0 } } :=
  congrArg _ (if_pos h)

/-! ### The self-tests -/

/-- The unrepaired faults of clusters logged (R506). -/
def State.faultsLogged (s : State) (cs : List (Nat × Nat × Nat)) : State :=
  cs.foldl (fun s x => s.logEvent 0x02 2 0 (4 * x.1 + x.2.1) x.2.2) s

/-- They leave the management part and the control cores alone. -/
theorem State.faultsLogged_frame {cs : List (Nat × Nat × Nat)} :
    (s.faultsLogged cs).mgmt = s.mgmt ∧ (s.faultsLogged cs).ccore n = s.ccore n := by
  induction cs generalizing s with
  | nil => exact ⟨rfl, rfl⟩
  | cons x cs ih =>
    obtain ⟨hmgmt, hccore⟩ := ih (s := s.logEvent 0x02 2 0 (4 * x.1 + x.2.1) x.2.2)
    exact ⟨hmgmt.trans (State.logEvent_mgmt (by decide)), hccore.trans State.logEvent_ccore⟩

/-- The enabled mask without the clusters that have an unrepaired fault (R24, R506). -/
def State.faultyDropped (s : State) (cs : List (Nat × Nat × Nat)) : State :=
  let u := s.faultsLogged cs
  { u with mgmt := { u.mgmt with clmask := dropClusters u.mgmt.part.fused (cs.map Prod.fst) } }

/-- It is that of the clusters on the part, less the faulty ones. -/
theorem State.faultyDropped_clmask {cs : List (Nat × Nat × Nat)} :
    (s.faultyDropped cs).mgmt.clmask = dropClusters s.mgmt.part.fused (cs.map Prod.fst) :=
  congrArg (fun m : Mgmt => dropClusters m.part.fused (cs.map Prod.fst)) (State.faultsLogged_frame (n := 0)).1

/-- The faults of clusters take no control core out of service. -/
theorem State.faultyDropped_ccore {cs : List (Nat × Nat × Nat)} : (s.faultyDropped cs).ccore n = s.ccore n := State.faultsLogged_frame.2

/-- An SRAM self-test that leaves control core 0 in service goes on unless shared memory is faulty or no cluster is left (R506). -/
theorem exec_sramSelftestDone {cs : List (Nat × Nat × Nat)} {shared : Bool} (h : s.inPhase .selftest = true)
    (hc : (s.ccore 0).inService = true) :
    exec (.sramSelftestDone { clusters := cs, ccores := [], shared := shared }) s =
      .next (if shared || (s.faultyDropped cs).mgmt.clmask == 0 then (s.faultyDropped cs).startFail 5
        else (s.faultyDropped cs).toPhase .sfucheck) := by
  have hsome : ¬ ((upTo 4).all (fun c => !((s.faultyDropped cs).ccore c).inService) = true) := by
    simp [upTo, List.range_succ, State.faultyDropped_ccore, hc]
  exact congrArg _ ((if_pos h).trans (if_neg hsome))

/-- Shared memory that is faulty stops start-up with cause 5. -/
theorem exec_sramSelftestDone_shared {cs : List (Nat × Nat × Nat)} (h : s.inPhase .selftest = true)
    (hc : (s.ccore 0).inService = true) :
    exec (.sramSelftestDone { clusters := cs, ccores := [], shared := true }) s = .next ((s.faultyDropped cs).startFail 5) :=
  exec_sramSelftestDone h hc

/-- While a cluster is left, the faults of clusters do not stop start-up. -/
theorem exec_sramSelftestDone_clusters {cs : List (Nat × Nat × Nat)} (h : s.inPhase .selftest = true)
    (hc : (s.ccore 0).inService = true) (hm : dropClusters s.mgmt.part.fused (cs.map Prod.fst) ≠ 0) :
    exec (.sramSelftestDone { clusters := cs, ccores := [], shared := false }) s = .next ((s.faultyDropped cs).toPhase .sfucheck) := by
  have hleft : ¬ ((false || (s.faultyDropped cs).mgmt.clmask == 0) = true) := by simpa [State.faultyDropped_clmask] using hm
  exact (exec_sramSelftestDone h hc).trans (congrArg _ (if_neg hleft))

/-- An SFU seed check without faulty segment tables goes on unless no cluster is left (R506). -/
theorem exec_sfuSeedCheckDone {fails : List (Nat × Nat)} {u : State} (h : s.inPhase .sfucheck = true)
    (hu : (fails.filter (fun x => s.clusterOn (x.1 / 4))).foldl State.seedFallback s = u) (hm : u.mgmt.clmask ≠ 0) :
    exec (.sfuSeedCheckDone fails []) s = .next (u.toPhase .fwsig) := by
  subst hu
  exact congrArg _ ((if_pos h).trans (if_neg (by simpa [dropClusters] using hm)))

/-- A seed table's recovery leaves the management part alone. -/
theorem State.seedFallback_mgmt {x : Nat × Nat} : (s.seedFallback x).mgmt = s.mgmt := State.logEvent_mgmt (by decide)

/-- Settles O7: each phase's end (R504 to R516), then the two self-tests (R147, R506). -/
theorem startUpPhasesAndSelfTests : Obligations.StartUpPhasesAndSelfTests := by
  unfold Obligations.StartUpPhasesAndSelfTests
  refine ⟨fun s hp => ?phases, fun s hp => ?tests⟩
  case phases =>
    intro fail enter
    refine ⟨fun h => ⟨?locks, ?unlocked⟩, fun h f => ?sfdp, fun h hd es => ?factory, fun h => ?unread, fun h => ?records, fun h => ?calib,
      fun h i => ?fwsig, fun h i => ?fwread, fun h => ?fwload⟩
    case locks => exact exec_startupPllLock (State.inPhase_of hp h)
    case unlocked => exact exec_startupPllLock (State.inPhase_of hp h)
    case sfdp => exact exec_sfdpDiscoveryDone (State.inPhase_of hp h)
    case factory => exact exec_factoryRecordRead (State.inPhase_of hp h)
    case unread => exact exec_factoryRecordRead_none (State.inPhase_of hp h)
    case records =>
      exact ⟨_, exec_userRecordsRead (State.inPhase_of hp h), rfl, rfl,
        congrArg some (State.firstImage_congr State.userApplied_flash)⟩
    case calib =>
      refine ⟨_, exec_calibrationApplied (State.inPhase_of hp h), ?_⟩
      rw [State.clustersOnly_ceilingsApplied]
      exact ⟨rfl, rfl, rfl⟩
    case fwsig => exact exec_fwsigCheckDone (State.inPhase_of hp h)
    case fwread => exact exec_fwreadDone (State.inPhase_of hp h)
    case fwload => exact exec_fwloadReady (State.inPhase_of hp h)
  case tests =>
    refine ⟨fun h hc hm => ?clean, fun h hc n core row hm => ?cluster, fun h hc => ?shared, fun h hm => ?seedsOk,
      fun h hm core fn hon => ?seedFails⟩
    case clean => exact exec_sramSelftestDone_clusters (State.inPhase_of hp h) hc hm
    case cluster =>
      exact ⟨_, exec_sramSelftestDone_clusters (State.inPhase_of hp h) hc hm, rfl, State.faultyDropped_clmask⟩
    case shared => exact ⟨_, exec_sramSelftestDone_shared (State.inPhase_of hp h) hc, rfl, rfl⟩
    case seedsOk => exact exec_sfuSeedCheckDone (State.inPhase_of hp h) rfl hm
    case seedFails =>
      have hone : ([(core, fn)].filter (fun x => s.clusterOn (x.1 / 4))).foldl State.seedFallback s = s.seedFallback (core, fn) := by
        simp [hon]
      exact ⟨_, exec_sfuSeedCheckDone (State.inPhase_of hp h) hone (State.seedFallback_mgmt.symm ▸ hm), rfl, State.logEvent_cores⟩

end Sys2Proof.Machine
end

section
/-!
SUPPORT. Kernels as whole descriptors (R375, R461, R462, R470; log 8): a kernel that may run passes a boundary, is evaluated and concluded,
and its clusters pass the next one. O25 is their short consequence.
-/

namespace Sys2Proof.Machine

set_option Elab.async false

variable {s t v : State} {d : Did} {x : Desc} {q : ReadCheck} {op : Nat} {work : State → Desc → Work}
  {fin : State → Desc → Work → State}

/-! ### The checks of a descriptor's reads -/

/-- Work whose reads are clean is concluded as it is evaluated. -/
theorem State.readThen_clean : s.readThen x .clean work fin = fin s x (work s x) := rfl

section
variable {st : Nat} {af sf : FlagSet} {m : Store} (hq : q ≠ .clean) (hw : work s x = .done st af sf m)
include hq hw

/-- Work that would be done is evaluated anew in the state that its reads leave (R321, R480). -/
theorem State.readThen_read (h : (s.readsMet x q).1 = true) (ht : (s.readsMet x q).2 = t) :
    s.readThen x q work fin = fin t ((t.desc? x.did).getD x) (work t ((t.desc? x.did).getD x)) := by
  have hmet : s.readsMet x q = (true, t) := Prod.ext h ht
  cases q with
  | clean => exact absurd rfl hq
  | _ => simp only [State.readThen, hw, hmet]

/-- A read that its repeat meets again ends it (R481). -/
theorem State.readThen_lost (h : (s.readsMet x q).1 = false) : s.readThen x q work fin = (s.readsMet x q).2 := by
  obtain ⟨t, hmet⟩ : ∃ t, s.readsMet x q = (false, t) := ⟨_, Prod.ext h rfl⟩
  cases q with
  | clean => exact absurd rfl hq
  | _ => simp only [State.readThen, hw, hmet]

end

/-! ### A kernel descriptor from boundary to boundary -/

/-- A kernel descriptor may be performed as one command: it has its turn, its context may start a kernel, its clusters have power, and no
kernel of its context was opened by KERNEL_START (R458, R470, R520; log 8). -/
structure WholeKernelMayRun (s : State) (x : Desc) : Prop where
  turn : s.kernelTurn x = true
  free : s.turnFree x.ctx = true
  power : s.clustersUp x.ctx = true
  unopened : (s.kernel x.ctx).live = false
  unpaused : (s.kernel x.ctx).paused = false

/-- The state in which a kernel's work is evaluated: the turn is its context's, and its clusters have passed a boundary. -/
def State.kernelBegun (s : State) (x : Desc) : State := (s.takeTurn x.ctx).kernelBoundary x.ctx true

/-- A kernel's cores with their bubbles counted (log 6). -/
def State.bubblesCounted (v : State) (x : Desc) : State := (v.ctxCores x.ctx).foldl State.countBubbles v

/-- The end of a kernel: its bubbles are counted and its clusters pass the next boundary. -/
def State.kernelEnded (v : State) (x : Desc) : State :=
  (v.bubblesCounted x).kernelBoundary x.ctx ((v.bubblesCounted x).kernelReady x.ctx)

/-- A kernel descriptor that may run is evaluated between its two boundaries. -/
theorem State.kernelDo_runs (hx : s.running? d [op] = some x) (h : WholeKernelMayRun s x) :
    s.kernelDo ⟨d, q⟩ op work = ((s.kernelBegun x).readThen x q work State.conclude).kernelEnded x := by
  obtain ⟨hturn, hfree, hpower, hlive, hpaused⟩ := h
  simp only [State.kernelDo, hx, hturn, hfree, hpower, hlive, hpaused, Bool.not_false, Bool.and_self, if_true]
  rfl

/-- Each kernel opcode but MERGE is its work done as one command (R461). -/
theorem exec_kernel {i : RunCmd → Instr}
    (hi : (op, work, i) ∈ [(0x01, State.attnWork, Instr.attnFwd), (0x02, State.attnBwdWork, .attnBwd), (0x03, State.matWork, .gemm),
      (0x04, State.matWork, .conv), (0x05, State.normWork, .norm), (0x06, State.mapWork, .sfuMap)])
    (hx : s.running? d [op] = some x) (h : WholeKernelMayRun s x) :
    exec (i ⟨d, q⟩) s = .next (((s.kernelBegun x).readThen x q work State.conclude).kernelEnded x) := by
  rw [← State.kernelDo_runs hx h]
  simp only [List.mem_cons, Prod.mk.injEq, List.not_mem_nil, or_false] at hi
  rcases hi with ⟨rfl, rfl, rfl⟩ | ⟨rfl, rfl, rfl⟩ | ⟨rfl, rfl, rfl⟩ | ⟨rfl, rfl, rfl⟩ | ⟨rfl, rfl, rfl⟩ | ⟨rfl, rfl, rfl⟩ <;> rfl

/-- A descriptor that runs is the one of its id. -/
theorem State.desc?_of_running {ops : List Nat} (hx : s.running? d ops = some x) : s.desc? d = some x := by
  unfold State.running? at hx
  cases hd : s.desc? d with
  | none => simp [hd] at hx
  | some y =>
    rw [hd] at hx
    exact (Option.ite_none_right_eq_some.mp hx).2

/-- Each mode of MERGE is the one work of MERGE on a descriptor of that mode (R213). -/
theorem exec_merge {mode : Nat} {i : RunCmd → Instr}
    (hi : (mode, i) ∈ [(0, Instr.mergeFold), (1, .mergeMaxslot), (2, .mergeRescale), (3, .mergeFinish)])
    (hx : s.running? d [0x07] = some x) (hm : (mergeOf x.bytes).mode = mode) (h : WholeKernelMayRun s x) :
    exec (i ⟨d, q⟩) s = .next (((s.kernelBegun x).readThen x q State.mergeWork State.conclude).kernelEnded x) := by
  have hmode : s.mergeMode ⟨d, q⟩ mode = s.kernelDo ⟨d, q⟩ 0x07 State.mergeWork := by
    simp only [State.mergeMode, State.desc?_of_running hx, hm, if_true]
  rw [← State.kernelDo_runs hx h, ← hmode]
  simp only [List.mem_cons, Prod.mk.injEq, List.not_mem_nil, or_false] at hi
  rcases hi with ⟨rfl, rfl⟩ | ⟨rfl, rfl⟩ | ⟨rfl, rfl⟩ | ⟨rfl, rfl⟩ <;> rfl

/-! ### How it is concluded -/

/-- Work that is done leaves its memories and its flags and retires the descriptor (R68, R69, R375). -/
theorem State.conclude_done {w : Work} {st : Nat} {af sf : FlagSet} {m : Store} (hw : w = .done st af sf m) :
    s.conclude x w =
      ((s.withStore m).raiseOn x.ctx af sf).retire { x with flags := x.flags ||| af ||| sf } st (s.detailOf x st) := by
  subst hw
  rfl

/-- Work that a check refuses retires it with the check's status alone (R392, R462). -/
theorem State.conclude_bad {w : Work} {st det : Nat} (hw : w = .bad st det) : s.conclude x w = s.retire x st det := by
  subst hw
  rfl

/-- Settles O25: each kernel opcode, and each mode of MERGE, is evaluated between two boundaries and concluded by what its work and the
checks of its reads come to (R375, R461, R462; logs 6 and 8). -/
theorem kernelDescriptorsComplete : Obligations.KernelDescriptorsComplete := by
  unfold Obligations.KernelDescriptorsComplete
  refine ⟨?kernel, ?merge⟩
  case kernel =>
    intro s d x op work i hi hx hturn hfree hpower hlive hpaused u ended v
    have hexec : ∀ q, exec (i ⟨d, q⟩) s = .next (ended (u.readThen x q work State.conclude)) :=
      fun q => exec_kernel hi hx ⟨hturn, hfree, hpower, hlive, hpaused⟩
    simp only [hexec]
    refine ⟨rfl, fun st af sf m hw => State.conclude_done hw, fun st det hw => ⟨State.conclude_bad hw, fun q => ?bad⟩,
      fun q st af sf m hq hw => ⟨fun h => ?read, fun h => ?lost⟩⟩
    case bad => rw [State.readThen_bad hw, ← hw]
    case read => rw [State.readThen_read hq hw h rfl]
    case lost => rw [State.readThen_lost hq hw h]
  case merge =>
    intro s d x mode i hi hx hm hturn hfree hpower hlive hpaused u v w
    exact ⟨exec_merge hi hx hm ⟨hturn, hfree, hpower, hlive, hpaused⟩, fun st af sf m hw => State.conclude_done hw⟩

end Sys2Proof.Machine
end

section
/-!
SUPPORT. Function tables (R149, R175 to R179): TABLE_LOAD, TABLE_SWAP and its flip, and a reloaded seed table. O42 is their short
consequence.
-/

namespace Sys2Proof.Machine

set_option Elab.async false

variable {s : State} {d : Did} {x : Desc}

/-! ### TABLE_LOAD -/

/-- The bytes of a TABLE_LOAD's image in memory (R175). -/
def Desc.imageRun (x : Desc) : Run := rdRun (x.field 8 8) 0 256

/-- The slot that a TABLE_LOAD names. -/
def Desc.loadSlot (x : Desc) : Nat := bitsOf (byteOf x.bytes 20) 0 6

/-- The cores that a TABLE_LOAD or a TABLE_SWAP names. -/
def Desc.namedCores (x : Desc) : List Nat := maskOnes (x.field 16 4) 32

/-- The slots that a TABLE_SWAP names (R176). -/
def Desc.namedSlots (x : Desc) : List Nat := maskOnes (x.field 8 8) 64

/-- A TABLE_LOAD that runs is performed. -/
theorem exec_tableLoad (hx : s.running? d [0x58] = some x) : exec (.tableLoad d) s = .next (s.tableLoad x) := by
  simp [exec, execTableLoad, hx]

/-- It waits for an earlier swap of its slot (R178). -/
theorem State.tableLoad_waits (h : s.swapPending x x.loadSlot = true) : s.tableLoad x = s := if_pos h

section
variable (hfree : s.swapPending x x.loadSlot = false) (hreach : s.firstBad x [x.imageRun] = none)
include hfree hreach

/-- A slot that is not the context's on every named core ends it (R161). -/
theorem State.tableLoad_foreign (h : x.namedCores.all (fun c => s.slotMine x.ctx c x.loadSlot) = false) :
    s.tableLoad x = s.retire x 0x03 20 := by
  unfold Desc.namedCores Desc.loadSlot Desc.imageRun at *
  simp only [State.tableLoad, hfree, hreach, h, Bool.not_false, Bool.false_eq_true, if_false, if_true]

variable (hmine : x.namedCores.all (fun c => s.slotMine x.ctx c x.loadSlot) = true)
include hmine

/-- An image that fails its CRC or its form ends it, and no bank is written (R162 to R164, R175). -/
theorem State.tableLoad_refused
    (h : crc32c (s.fetchRun s.store x x.imageRun) ≠ x.field 24 4 ∨ microImageOk (s.fetchRun s.store x x.imageRun) = false) :
    s.tableLoad x = s.retire x 0x03 0xFFFF := by
  unfold Desc.namedCores Desc.loadSlot Desc.imageRun at *
  have hbad : (crc32c (s.fetchRun s.store x (rdRun (x.field 8 8) 0 256)) != x.field 24 4
      || !microImageOk (s.fetchRun s.store x (rdRun (x.field 8 8) 0 256))) = true := by simpa using h
  simp only [State.tableLoad, hfree, hreach, hmine, hbad, Bool.not_true, Bool.false_eq_true, if_false, if_true]

/-- An image that passes both is written to the inactive bank of its slot on every named core (R175). -/
theorem State.tableLoad_written (hcrc : crc32c (s.fetchRun s.store x x.imageRun) = x.field 24 4)
    (hform : microImageOk (s.fetchRun s.store x x.imageRun) = true) :
    s.tableLoad x = (x.namedCores.foldl (fun t c => t.loadSlot x.loadSlot (s.fetchRun s.store x x.imageRun) c) s).retire x 0 0 := by
  unfold Desc.namedCores Desc.loadSlot Desc.imageRun at *
  simp only [State.tableLoad, hfree, hreach, hmine, hcrc, hform, bne_self_eq_false, Bool.or_self, Bool.not_true, Bool.false_eq_true,
    if_false]

end

/-! ### TABLE_SWAP and its flip -/

section
variable (hx : s.running? d [0x59] = some x)
include hx

/-- A TABLE_SWAP waits for the loads of its slots that were dequeued before it (R178). -/
theorem exec_tableSwap_waits (h : s.loadPending x = true) : exec (.tableSwap d) s = .next s := by
  simp [exec, execTableSwap, hx, h]

variable (hload : s.loadPending x = false)
include hload

/-- One whose every slot is ready on every named core is prepared (R176). -/
theorem exec_tableSwap_prepared (h : ∀ k ∈ x.namedSlots, x.namedCores.all (s.slotReady x k) = true) :
    exec (.tableSwap d) s = .next (s.setDesc { x with st := .prepared }) := by
  have hnone : x.namedSlots.find? (fun k => !x.namedCores.all (s.slotReady x k)) = none :=
    List.find?_eq_none.mpr fun k hk => by simp [h k hk]
  unfold Desc.namedCores Desc.namedSlots at hnone
  simp only [exec, execTableSwap, hx, hload, hnone, Bool.false_eq_true, if_false]

/-- One that names a slot that is not ready ends with the byte of the first such slot, and nothing is swapped (R176). -/
theorem exec_tableSwap_refused {k : Nat} (h : x.namedSlots.find? (fun k => !x.namedCores.all (s.slotReady x k)) = some k) :
    exec (.tableSwap d) s = .next (s.retire x 0x03 (8 + k / 8)) := by
  unfold Desc.namedCores Desc.namedSlots at h
  simp only [exec, execTableSwap, hx, hload, h, Bool.false_eq_true, if_false]

end

/-- A prepared TABLE_SWAP flips where it is due (R177). -/
theorem exec_tableSwapFlip (hx : s.desc? d = some x) (hp : x.st = .prepared) (ho : x.opcode = 0x59) (hv : s.serving = true) :
    exec (.tableSwapFlip d) s = .next (s.swapFlip x) := by
  simp [exec, execTableSwapFlip, hx, hp, ho, hv]

/-- The named slots exchanged on the cores that stand at their boundary (R177). -/
def State.flipped (s : State) (x : Desc) : State :=
  (s.flipsDue x).foldl (fun t c => x.namedSlots.foldl (fun t k => t.flipSlot c k) t) s

/-- The swap's own account of the cores that have flipped, those at their boundary now among them. -/
def State.flipCounted (s : State) (x : Desc) : Desc := { x with prog := x.prog + ((s.flipsDue x).map (2 ^ ·)).sum }

/-- The flip of the last named core retires the swap (R177). -/
theorem State.swapFlip_last (h : x.namedCores.all (fun c => (s.flipCounted x).prog.testBit c) = true) :
    s.swapFlip x = ((s.flipped x).setDesc (s.flipCounted x)).retire (s.flipCounted x) 0 0 := if_pos h

/-- Before it, the swap keeps its account and goes on. -/
theorem State.swapFlip_goesOn (h : x.namedCores.all (fun c => (s.flipCounted x).prog.testBit c) = false) :
    s.swapFlip x = (s.flipped x).setDesc (s.flipCounted x) := if_neg (ne_true_of_eq_false h)

/-! ### Seed tables -/

/-- A core whose seed table of a function was reloaded into its inactive bank (R149, R179). -/
def Core.seedReloaded (k : Core) (fn : Nat) : Core :=
  { k with seeds := putAt SeedTab.reset k.seeds fn { k.seedTab fn with loaded := true } }

/-- A reloaded seed table takes over at once on a core between kernels, and else at the core's kernel boundary (R149, R179). -/
theorem exec_seedTableReload {core fn : Nat} (hc : core < 32) (hv : s.serving = true) (hr : ((s.core core).seedTab fn).recovery = true) :
    exec (.seedTableReload core fn) s = .next (s.setCore core
      (if (s.core core).ctx = none then ((s.core core).seedReloaded fn).flipSeeds else (s.core core).seedReloaded fn)) := by
  have hreload : (decide (core < 32) && s.serving && ((s.core core).seedTab fn).recovery) = true := by simp [hc, hv, hr]
  exact congrArg _ (if_pos hreload)

/-- Settles O42: TABLE_LOAD (R175, R178), TABLE_SWAP (R176), its flip (R177) and a seed table that was reloaded (R149, R179). -/
theorem tablesLoadSwapAndFlip : Obligations.TablesLoadSwapAndFlip := by
  unfold Obligations.TablesLoadSwapAndFlip
  intro s d x cs ks
  refine ⟨fun hx => ?load, fun hx => ?swap, fun hx hp ho hv => ?flip, fun core fn hc hv hr => exec_seedTableReload hc hv hr⟩
  case load =>
    intro slot r img
    rw [exec_tableLoad hx]
    exact ⟨fun h => congrArg _ (State.tableLoad_waits h), fun hfree hreach => ⟨fun h => congrArg _ (State.tableLoad_foreign hfree hreach h),
      fun hmine => ⟨fun hcrc hform => congrArg _ (State.tableLoad_written hfree hreach hmine hcrc hform),
        fun h => congrArg _ (State.tableLoad_refused hfree hreach hmine h)⟩⟩⟩
  case swap =>
    exact ⟨exec_tableSwap_waits hx, exec_tableSwap_prepared hx, fun hload k h => exec_tableSwap_refused hx hload h⟩
  case flip =>
    intro due u y
    rw [exec_tableSwapFlip hx hp ho hv]
    exact ⟨fun h => congrArg _ (State.swapFlip_last h), fun h => congrArg _ (State.swapFlip_goesOn h)⟩

end Sys2Proof.Machine
end

section
/-!
SUPPORT. The ports of the fabric (R353 to R360, R364, R365, R469): when a small request goes and what its going leaves alone; link-up, credits,
refills and FENCEs. O49 is their short consequence.
-/

namespace Sys2Proof.Machine

set_option Elab.async false

variable {s t u : State} {r : SmallReq} {p : FPort} {o q : Out} {port tag n : Nat}

/-! ### What small requests may change -/

/-- `s` with the ports and the waiting small requests of `t`. -/
def State.withSmallsOf (s t : State) : State := { s with ports := t.ports, smalls := t.smalls }

/-- Only the ports and the waiting small requests differ. -/
def State.SmallsOnly (s t : State) : Prop := t = s.withSmallsOf t

/-- One change by small requests after another. -/
theorem State.SmallsOnly.trans (h : s.SmallsOnly t) (h' : t.SmallsOnly u) : s.SmallsOnly u :=
  Eq.trans h' (congrArg (fun v => State.withSmallsOf v u) (h : t = _) :)

/-- A port set. -/
theorem State.smallsOnly_setFport : s.SmallsOnly (s.setFport port p) := rfl

/-- A small request sent sets its own port. -/
theorem State.sendSmall_eq_setFport (h : s.sendSmall r = some t) : ∃ p, t = s.setFport r.port p := by
  unfold State.sendSmall at h
  dsimp only at h
  generalize (if r.op = .watch then s.watchTag else s.bobTag) = slot at h
  cases slot with
  | none => cases h
  | some k =>
    dsimp only at h
    split at h
    · split at h
      · exact ⟨_, (Option.some.inj h).symm⟩
      · cases h
    · split at h
      · cases h
      · split at h
        · exact ⟨_, (Option.some.inj h).symm⟩
        · cases h

/-- Small requests sent in their order. -/
theorem State.smallsOnly_sendSmalls {l held : List SmallReq} : s.SmallsOnly (s.sendSmalls l held).1 := by
  induction l generalizing s held with
  | nil => rfl
  | cons r l ih =>
    unfold State.sendSmalls
    dsimp only
    split
    · exact ih
    · split
      · next u hu =>
        obtain ⟨p, rfl⟩ := State.sendSmall_eq_setFport hu
        exact State.smallsOnly_setFport.trans ih
      · exact ih

/-- The small requests that can go do. -/
theorem State.smallsOnly_pumpSmalls : s.SmallsOnly s.pumpSmalls := by
  unfold State.pumpSmalls
  split
  · rfl
  · exact State.smallsOnly_sendSmalls.trans rfl

/-- A small request made. -/
theorem State.smallsOnly_ask : s.SmallsOnly (s.ask r) :=
  State.SmallsOnly.trans (t := { s with smalls := s.smalls ++ [r] }) rfl State.smallsOnly_pumpSmalls

/-- A write of the Bobbin path made. -/
theorem State.smallsOnly_bobWrite {a : Nat} {bs : List Byte} {fenced : Bool} {d : Option Did} :
    s.SmallsOnly (s.bobWrite port a bs fenced d) := State.smallsOnly_ask

/-! ### When a small request goes at once -/

/-- A port has the credits of a request where it is up and holds both (R358). -/
theorem FPort.pays_iff : p.pays o = true ↔ p.up = true ∧ 1 ≤ p.req ∧ o.beats ≤ p.wdat := by
  simp [FPort.pays, and_assoc]

/-- Whether a small request goes does not depend on what waits. -/
theorem State.sendSmall_withSmalls {l : List SmallReq} :
    ({ s with smalls := l } : State).sendSmall r = (s.sendSmall r).map (fun t => { t with smalls := l }) := by
  have htag : (if r.op = .watch then ({ s with smalls := l } : State).watchTag else ({ s with smalls := l } : State).bobTag)
      = if r.op = .watch then s.watchTag else s.bobTag := rfl
  unfold State.sendSmall
  rw [htag]
  dsimp only [State.fport]
  generalize (if r.op = .watch then s.watchTag else s.bobTag) = slot
  cases slot with
  | none => rfl
  | some k =>
    dsimp only
    split
    · split <;> rfl
    · split
      · rfl
      · split <;> rfl

/-- One small request alone goes where it can and its slot is granted (R364). -/
theorem State.sendSmalls_one (hslot : r.op = .watch ∨ s.bobsUsed < 64) (h : s.sendSmall r = some t) : s.sendSmalls [r] [] = (t, []) := by
  rcases hslot with hop | hused
  · simp [State.sendSmalls, h, hop]
  · simp [State.sendSmalls, h, hused]

/-- The small requests sent outside the declared fatal state; the others wait on. -/
theorem State.pumpSmalls_eq {l held : List SmallReq} (hw : s.smalls = l) (hf : s.mgmt.fatal = false) (h : s.sendSmalls l [] = (t, held)) :
    s.pumpSmalls = { t with smalls := held } := by
  simp only [State.pumpSmalls, hf, Bool.false_eq_true, if_false, hw, h]

/-- A small request that can go goes where nothing waits ahead of it and its slot is granted (R364). -/
theorem State.ask_of_sendSmall (hw : s.smalls = []) (hf : s.mgmt.fatal = false) (hslot : r.op = .watch ∨ s.bobsUsed < 64)
    (h : s.sendSmall r = some (s.setFport r.port p)) : s.ask r = s.setFport r.port p := by
  have hwait : s.smalls ++ [r] = [r] := by rw [hw, List.nil_append]
  have hsend : ({ s with smalls := s.smalls ++ [r] } : State).sendSmall r = some { s.setFport r.port p with smalls := s.smalls ++ [r] } := by
    rw [State.sendSmall_withSmalls, h, Option.map_some]
  refine (State.pumpSmalls_eq (s := { s with smalls := s.smalls ++ [r] }) hwait hf (State.sendSmalls_one hslot hsend)).trans ?_
  rw [← hw]
  rfl

section
variable {k : Nat} (htag : (if r.op = .watch then s.watchTag else s.bobTag) = some k)
include htag

/-- A small request without a FENCE goes under its tag for its credits. -/
theorem State.sendSmall_unfenced (hr : r.fenced = false) (hp : (s.fport r.port).pays (smallOut r) = true) :
    s.sendSmall r = some (s.setFport r.port ((s.fport r.port).send k (smallOut r))) := by
  simp [State.sendSmall, htag, hr, hp]

/-- One with a FENCE goes behind it, for the credits of both (R365). -/
theorem State.sendSmall_fenced {f : Nat} (hr : r.fenced = true) (hf : (s.fport r.port).fenceTag = some f)
    (hp : (s.fport r.port).pays fenceOut = true) (hq : ((s.fport r.port).send f fenceOut).pays (smallOut r) = true) :
    s.sendSmall r = some (s.setFport r.port (((s.fport r.port).send f fenceOut).send k (smallOut r))) := by
  simp [State.sendSmall, htag, hr, hf, hp, hq]

end

/-! ### Links, credits and refills -/

/-- A link comes up with the credits that its port advertises (R358). -/
theorem exec_fabricLinkUp {req wdat rsp : Nat} (hp : s.mgmt.power = .on) (hport : port < 12) (hup : (s.fport port).up = false) :
    exec (.fabricLinkUp port req wdat rsp) s = .next ((s.setFport port { s.fport port with
      up := true, req := req, wdat := wdat, rsp := rsp, reqGrant := req, wdatGrant := wdat, rspGrant := rsp }).pumpPort port) := by
  simp [exec, execFabricLinkUp, hp, hport, hup]

section
variable (hp : s.mgmt.power = .on) (hport : port < 12) (hup : (s.fport port).up = true)
include hp hport hup

/-- Returned credits of the request channel (R358). -/
theorem exec_creditReturn_req :
    exec (.creditReturn port 0 n) s = .next ((s.setFport port { s.fport port with req := (s.fport port).req + n }).pumpPort port) := by
  simp [exec, execCreditReturn, hp, hport, hup]

/-- Returned credits of the write data channel (R358). -/
theorem exec_creditReturn_wdat :
    exec (.creditReturn port 1 n) s = .next ((s.setFport port { s.fport port with wdat := (s.fport port).wdat + n }).pumpPort port) := by
  simp [exec, execCreditReturn, hp, hport, hup]

end

/-- A regulator's bucket is refilled up to its burst (R469). -/
theorem exec_regulatorRefill {part : Nat} (hp : s.mgmt.power = .on) (hpart : part < 8) (he : (s.part part).enable = true)
    (hr : (s.part part).rate ≠ 0) : exec (.regulatorRefill part) s = .next ((s.setPart part { s.part part with
      tokens := min (s.part part).burst ((s.part part).tokens + (s.part part).rate) }).pumpDma) := by
  simp [exec, execRegulatorRefill, hp, hpart, he, hr]

/-! ### FENCEs -/

/-- An entry that is read from a table and is not the default is listed. -/
theorem mem_of_getAt {α : Type} {d v : α} {l : Table α} {k : Nat} (h : getAt d l k = v) (hv : v ≠ d) : (k, v) ∈ l := by
  induction l with
  | nil => exact absurd h.symm hv
  | cons e l ih =>
    obtain ⟨k', w⟩ := e
    rw [getAt] at h
    split at h
    · next hk => subst hk h; exact List.mem_cons_self
    · exact List.mem_cons_of_mem _ (ih h)

/-- A request under a tag is listed in its port. -/
theorem FPort.mem_outs (h : p.out tag = some o) : (tag, some o) ∈ p.outs := mem_of_getAt h (by simp)

/-- A FENCE has drained where no earlier request but the WATCHes is outstanding (R359). -/
theorem FPort.drained_iff : p.drained o = true ↔ ∀ e ∈ p.outs, ∀ r, e.2 = some r → r.op = .watch ∨ o.seq ≤ r.seq := by
  unfold FPort.drained
  rw [List.all_eq_true]
  refine forall₂_congr fun e _ => ?_
  cases e.2 <;> simp

/-- A request behind an outstanding FENCE is not answered (R359). -/
theorem FPort.answers_eq_none_of_fence {k : Nat} (ho : p.out tag = some o) (hop : o.op = .fence) (hq : p.out k = some q)
    (hlt : o.seq < q.seq) : p.answers k = none := by
  have hheld : p.holds q = true := List.any_eq_true.mpr ⟨_, FPort.mem_outs ho, by simp [hop, hlt]⟩
  simp [FPort.answers, hq, hheld]

/-- A FENCE that has drained is answered, and later requests go on (R359). -/
theorem exec_fenceOk_drained (ho : (s.fport port).out tag = some o) (hop : o.op = .fence) (hs : o.unsent = false) (ht : o.timedOut = false)
    (hd : (s.fport port).drained o = true) :
    exec (.fenceOk port tag) s = .next ((s.setFport port ((s.fport port).setOut tag none)).pumpPort port) := by
  simp [exec, execFenceOk, ho, hop, hs, hd, State.answered, ht]

/-- One that has not is not answered (R359). -/
theorem exec_fenceOk_undrained (ho : (s.fport port).out tag = some o) (hd : (s.fport port).drained o = false) :
    exec (.fenceOk port tag) s = .next s := by
  simp [exec, execFenceOk, ho, hd]

/-- The write and its FENCE are paid by two request credits and the write's own data credits. -/
theorem FPort.pays_behind_fence {f : Nat} (hup : p.up = true) (hreq : 2 ≤ p.req) (hwdat : o.beats ≤ p.wdat) :
    p.pays fenceOut = true ∧ (p.send f fenceOut).pays o = true := by
  have hbeats : fenceOut.beats = 0 := rfl
  rw [FPort.pays_iff, FPort.pays_iff, hbeats]
  exact ⟨⟨hup, by omega, Nat.zero_le _⟩, hup, Nat.le_sub_of_add_le hreq, hwdat⟩

/-- Settles O49: links, credits and refills (R358, R469), the small write behind its FENCE (R365), and what a FENCE holds (R359). -/
theorem creditsTokensAndFences : Obligations.CreditsTokensAndFences := by
  unfold Obligations.CreditsTokensAndFences
  refine ⟨⟨fun s port req wdat rsp n part hp => ?credits, ?fenced, fun s => State.smallsOnly_pumpSmalls⟩, fun s port tag o ho hop => ?fence⟩
  case credits =>
    exact ⟨exec_fabricLinkUp hp, fun hport hup => ⟨exec_creditReturn_req hp hport hup, exec_creditReturn_wdat hp hport hup⟩,
      exec_regulatorRefill hp⟩
  case fenced =>
    intro s r t f hw hfatal hop hr hused htag hf hup hreq hwdat
    obtain ⟨hpf, hpw⟩ := FPort.pays_behind_fence (f := f) hup hreq hwdat
    exact State.ask_of_sendSmall hw hfatal (.inr hused) (State.sendSmall_fenced (by simpa [hop] using htag) hr hf hpf hpw)
  case fence =>
    exact ⟨exec_fenceOk_drained ho hop, exec_fenceOk_undrained ho, FPort.drained_iff, fun t q => FPort.answers_eq_none_of_fence ho hop⟩

end Sys2Proof.Machine
end

section
/-!
SUPPORT. Error responses and timeouts of the ports (R357, R379, R480 to R485): a request repeats once for each and then ends its descriptor.
O52 is their short consequence.
-/

namespace Sys2Proof.Machine

set_option Elab.async false

variable {s t u : State} {x : Desc} {o : Out} {port tag kind : Nat}

/-! ### What a cut write may change -/

/-- `s` with the memory and the free values of `t`. -/
def State.withMemOf (s t : State) : State := { s with mem := t.mem, free := t.free }

/-- Only the memory and the count of free values differ. -/
def State.MemOnly (s t : State) : Prop := t = s.withMemOf t

/-- One change of the memory after another. -/
theorem State.MemOnly.trans (h : s.MemOnly t) (h' : t.MemOnly u) : s.MemOnly u :=
  Eq.trans h' (congrArg (fun v => State.withMemOf v u) (h : t = _) :)

/-- One run of bytes cut before its OK. -/
theorem State.memOnly_landCut {a : Nat} {bs : List Byte} : s.MemOnly (s.landCut a bs) := by
  refine List.foldlRecOn (motive := s.MemOnly) _ _ rfl (fun t ht e _ => ht.trans ?_)
  dsimp only
  split <;> rfl

/-- A write cut before its OK. -/
theorem State.memOnly_cutOut : s.MemOnly (s.cutOut o) :=
  List.foldlRecOn (motive := s.MemOnly) _ _ rfl (fun _ ht _ _ => ht.trans State.memOnly_landCut)

/-- It leaves the descriptors and the ports alone. -/
theorem State.MemOnly.descs_ports (h : s.MemOnly t) : t.descs = s.descs ∧ t.ports = s.ports := by
  rw [h]
  exact ⟨rfl, rfl⟩

/-! ### A request taken out of its port -/

/-- A request that goes takes no descriptor with it. -/
theorem State.outDesc_congr (h : t.descs = s.descs) : t.outDesc o = s.outDesc o := by
  unfold State.outDesc State.desc?
  rw [h]

/-- Taking a request out leaves the descriptors and the rings alone. -/
theorem State.dropOut_descs_subs : (s.dropOut port tag o).descs = s.descs ∧ (s.dropOut port tag o).subs = s.subs := by
  unfold State.dropOut
  dsimp only
  split <;> exact ⟨rfl, rfl⟩

/-- A tag quarantined with its context, before the write under it is cut. -/
def State.tagQuarantined (s : State) (port tag : Nat) (o : Out) : State :=
  let t := s.dropOut port tag o
  t.setFport port { t.fport port with quarTags := (t.fport port).quarTags ++ [(tag, t.outCtx o)] }

/-- The write under a quarantined tag is cut; it changes memory alone. -/
theorem State.memOnly_quarantineTag : (s.tagQuarantined port tag o).MemOnly (s.quarantineTag port tag o) := by
  unfold State.quarantineTag State.tagQuarantined
  dsimp only
  split
  · exact State.memOnly_cutOut
  · rfl

/-- A quarantined tag takes no descriptor with it. -/
theorem State.quarantineTag_descs : (s.quarantineTag port tag o).descs = s.descs :=
  State.memOnly_quarantineTag.descs_ports.1.trans (State.dropOut_descs_subs (s := s) (port := port) (tag := tag) (o := o)).1

/-- A port with a quarantined tag is not as it was at reset. -/
theorem FPort.ne_reset_of_quarTags {p : FPort} (h : p.quarTags ≠ []) : p ≠ FPort.reset := fun hreset => h (congrArg FPort.quarTags hreset)

/-- A quarantined tag is listed with the context that it was used for (R379). -/
theorem State.mem_quarantineTag : (tag, s.outCtx o) ∈ ((s.quarantineTag port tag o).fport port).quarTags := by
  have hctx : (s.dropOut port tag o).outCtx o = s.outCtx o := by
    unfold State.outCtx State.sub
    rw [State.dropOut_descs_subs.2]
  have hport : (s.quarantineTag port tag o).fport port = (s.tagQuarantined port tag o).fport port := by
    unfold State.fport
    rw [State.memOnly_quarantineTag.descs_ports.2]
  have hset : (s.tagQuarantined port tag o).fport port = { (s.dropOut port tag o).fport port with
      quarTags := ((s.dropOut port tag o).fport port).quarTags ++ [(tag, (s.dropOut port tag o).outCtx o)] } :=
    getAt_putAt_listed (FPort.ne_reset_of_quarTags (by simp))
  rw [hport, hset, hctx]
  exact List.mem_append_right _ List.mem_cons_self

/-! ### Error responses -/

/-- A request with a live descriptor is no orphan. -/
theorem State.orphan_of_outDesc (hx : s.outDesc o = some x) : s.orphan o = false := by simp [State.orphan, hx]

/-- A lasting error of a request with a live descriptor is logged and ends it (R357, R379, R481). -/
theorem State.requestFails_of_outDesc (hx : s.outDesc o = some x) :
    s.requestFails port o kind = (s.logEvent (retryEvent kind) 2 3 port o.addr x.ctx x.tag).descFault x (lastingStatus kind) := by
  simp only [State.requestFails, hx]

section
variable (hx : s.outDesc o = some x) (ha : (s.fport port).answers tag = some o) (hop : o.op ≠ .fence) (hrd : kind = 1 → o.op = .rd)
include hx ha hop hrd

/-- The first error in answer to a request repeats it (R482). -/
theorem State.errorResponse_repeats (he : o.error = 0) :
    s.errorResponse port tag kind = s.setFport port ((s.fport port).again tag { o with error := kind }) := by
  have hskip : ¬ ((kind = 1 ∧ o.op ≠ .rd) ∨ o.op = .fence) := by tauto
  simp [State.errorResponse, ha, hskip, he, State.orphan_of_outDesc hx]

/-- An error in answer to the repeat ends its descriptor (R485). -/
theorem State.errorResponse_ends (he : o.error ≠ 0) (ht : o.timedOut = false) :
    s.errorResponse port tag kind = (((s.dropOut port tag o).logEvent (retryEvent o.error) 2 3 port o.addr x.ctx x.tag).descFault x
      (lastingStatus o.error)).pumpPort port := by
  have hskip : ¬ ((kind = 1 ∧ o.op ≠ .rd) ∨ o.op = .fence) := by tauto
  have hdrop : (s.dropOut port tag o).outDesc o = some x := (State.outDesc_congr State.dropOut_descs_subs.1).trans hx
  simp [State.errorResponse, ha, hskip, he, State.answered, ht, State.requestFails_of_outDesc hdrop]

end

/-- POISON, DECODE and ABORT are error responses (R357). -/
theorem exec_eq_errorResponse {i : Instr}
    (hi : (kind, i) ∈ [(1, Instr.fabricPoison port tag), (2, .fabricDecode port tag), (2, .fabricAbort port tag)]) :
    exec i s = .next (s.errorResponse port tag kind) := by
  simp only [List.mem_cons, Prod.mk.injEq, List.not_mem_nil, or_false] at hi
  rcases hi with ⟨rfl, rfl⟩ | ⟨rfl, rfl⟩ | ⟨rfl, rfl⟩ <;> rfl

/-! ### Timeouts -/

section
variable (hx : s.outDesc o = some x) (ho : (s.fport port).out tag = some o) (hs : o.unsent = false)
include hx ho hs

/-- A request that has been sent and is not answered repeats, or fails where it is a repeat (R379). -/
theorem State.requestTimeout_of_sent : s.requestTimeout port tag =
    if o.timedOut then ((s.quarantineTag port tag o).requestFails port o 3).pumpPort port else s.retryTimeout port tag o := by
  have hsent : ((s.fport port).out tag).filter (fun o => !o.unsent) = some o := by simp [ho, hs, Option.filter]
  unfold State.requestTimeout
  cases h : o.timedOut <;> simp [hsent, State.orphan_of_outDesc hx, h]

/-- A request without an answer is repeated under a free tag of its kind, its old tag quarantined (R379). -/
theorem State.requestTimeout_repeats {k : Nat} (ht : o.timedOut = false) (hk : s.retryTag port tag o = some k) :
    s.requestTimeout port tag = s.setFport port (({ s.fport port with
      quarTags := (s.fport port).quarTags ++ [(tag, s.outCtx o)] }.setOut tag none).again k { o with timedOut := true }) := by
  rw [State.requestTimeout_of_sent hx ho hs, if_neg (ne_true_of_eq_false ht)]
  simp only [State.retryTimeout, hk]

/-- A repeat without an answer ends its descriptor (R379). -/
theorem State.requestTimeout_ends (ht : o.timedOut = true) :
    s.requestTimeout port tag =
      (((s.quarantineTag port tag o).logEvent 0x05 2 3 port o.addr x.ctx x.tag).descFault x 0x70).pumpPort port := by
  have hquar : (s.quarantineTag port tag o).outDesc o = some x := (State.outDesc_congr State.quarantineTag_descs).trans hx
  rw [State.requestTimeout_of_sent hx ho hs, if_pos ht, State.requestFails_of_outDesc hquar]
  rfl

end

/-- Settles O52: error responses (R357, R482, R485) and timeouts (R379) repeat a request once and then end its descriptor. -/
theorem errorResponsesRepeatOnce : Obligations.ErrorResponsesRepeatOnce := by
  unfold Obligations.ErrorResponsesRepeatOnce
  intro s port tag o x hx
  refine ⟨fun kind i hi ha hop hrd => ?error, fun ho hs => ?timeout⟩
  case error =>
    rw [exec_eq_errorResponse hi]
    refine ⟨fun he => congrArg _ (State.errorResponse_repeats hx ha hop hrd he), fun he ht => congrArg _ ?_, fun he ht => congrArg _ ?_⟩
    · rw [State.errorResponse_ends hx ha hop hrd (by omega) ht, he]
      rfl
    · rw [State.errorResponse_ends hx ha hop hrd (by omega) ht, he]
      rfl
  case timeout =>
    exact ⟨fun ht k hk => congrArg _ (State.requestTimeout_repeats hx ho hs ht hk),
      fun ht => congrArg _ (State.requestTimeout_ends hx ho hs ht), State.mem_quarantineTag⟩

end Sys2Proof.Machine
end

section
/-!
SUPPORT. Watches and the fetch of descriptors (R360, R364, R365, R384, R390, R448, R449, R456, R464): what arms a watch again, what its read
brings, and what becomes of a descriptor that is copied from its slot. O21 is their short consequence.
-/

namespace Sys2Proof.Machine

set_option Elab.async false

variable {s t u : State} {x : Desc} {n m : Nat} {p : Nat × Nat}

/-! ### Watches -/

/-- A WATCH that has been sent is answered (R360). -/
theorem exec_watchArmed (h : s.watchOut n .watch = some p) : exec (.watchArmed n) s = .next (s.armWatch n p) := by
  simp only [exec, execWatchArmed, h]

/-- Without one nothing is answered. -/
theorem exec_watchArmed_none (h : s.watchOut n .watch = none) : exec (.watchArmed n) s = .next s := by
  simp only [exec, execWatchArmed, h]

/-- An armed watch that is gone is sent again for its owner (R360). -/
theorem State.rearm_armed (ho : (s.watch n).owner.isSome = true) (ha : (s.watch n).armed = true) :
    s.rearm n = (s.setWatch n { s.watch n with armed := false }).sendWatch n := by
  simp [State.rearm, ho, ha]

/-- A WATCH goes at once under a free tag where its port has a request credit and nothing waits ahead of it (R360, R364). -/
theorem State.ask_watch {r : SmallReq} {k : Nat} (hop : r.op = .watch) (hr : r.fenced = false) (hw : s.smalls = []) (hf : s.mgmt.fatal = false)
    (hk : s.watchTag = some k) (hup : (s.fport r.port).up = true) (hreq : 1 ≤ (s.fport r.port).req) :
    s.ask r = s.setFport r.port ((s.fport r.port).send k (smallOut r)) := by
  have hbeats : (smallOut r).beats = 0 := by simp [Out.beats, Out.isWrite, smallOut, hop]
  have hpays : (s.fport r.port).pays (smallOut r) = true := FPort.pays_iff.mpr ⟨hup, hreq, by omega⟩
  exact State.ask_of_sendSmall hw hf (.inl hop) (State.sendSmall_unfenced (by simpa [hop] using hk) hr hpays)

/-! ### The read of PROD -/

/-- Without a read of the ring's line nothing returns. -/
theorem exec_prodReadReturn_none (h : s.watchOut n .rd = none) : exec (.prodReadReturn n) s = .next s := by
  simp only [exec, execProdReadReturn, h]

/-- The state once the read that followed a watch's arming has been answered. -/
def State.readAnswered (s : State) (n : Nat) (p : Nat × Nat) : State := (s.watchDone p).readSeen n

/-- The read returns PROD to a ring that fetches (R448). -/
theorem exec_prodReadReturn (h : s.watchOut n .rd = some p) (hf : s.fetching n = true) (he : s.subPastEnd n = false) :
    exec (.prodReadReturn n) s = .next ((s.readAnswered n p).takeProd n (s.hostProd n)) := by
  simp only [exec, execProdReadReturn, h, hf, he, Bool.not_true, Bool.false_eq_true, if_false, State.readAnswered]

/-- A request of a watch answered changes its port and what waits alone. -/
theorem State.smallsOnly_watchDone : s.SmallsOnly (s.watchDone p) := State.smallsOnly_setFport.trans State.smallsOnly_pumpSmalls

/-- The rings stand as they did. -/
theorem State.readAnswered_rings : (s.readAnswered n p).subs = s.subs ∧ (s.readAnswered n p).comps = s.comps := by
  unfold State.readAnswered
  rw [State.smallsOnly_watchDone (s := s) (p := p)]
  exact ⟨rfl, rfl⟩

/-- The ring reads as it did. -/
theorem State.readAnswered_sub : (s.readAnswered n p).sub m = s.sub m := congrArg (getAt SubRing.reset · m) State.readAnswered_rings.1

/-- Its completion ring reads as it did. -/
theorem State.readAnswered_comp : (s.readAnswered n p).comp m = s.comp m := congrArg (getAt CompRing.reset · m) State.readAnswered_rings.2

/-- A distance within the ring's depth lets fetching go on (R449). -/
theorem State.takeProd_within {prod : Word} (h : (prod - (s.sub n).cons).toNat ≤ 2 ^ (s.sub n).l) :
    s.takeProd n prod = s.setSub n { s.sub n with prod := prod, halted := false } := if_neg (Nat.not_lt.mpr h)

/-- A distance beyond it halts the ring (R449). -/
theorem State.takeProd_beyond {prod : Word} (h : 2 ^ (s.sub n).l < (prod - (s.sub n).cons).toNat) : s.takeProd n prod = s.haltRing n prod :=
  if_pos h

/-- An event of a class below Fatal changes the log alone (R499). -/
theorem State.logEvent_eq {event cls unit index place ctx : Nat} {tag : Word} (h : cls ≠ 3) :
    s.logEvent event cls unit index place ctx tag = { s with log := s.log.add s.clkCtl event cls unit index place ctx tag } := if_neg h

/-- The record of a ring's halt (R449). -/
def SubRing.haltRecord (r : SubRing) (n : Nat) : Rec :=
  { bytes := recordBytes 0 0x03 0 0 n r.cons r.ctx 0 0 0, irq := true, stamp := true, d := none }

/-- A ring halted is marked, logged, and told of in one record (R449). -/
theorem State.haltRing_eq {prod : Word} (h : (s.sub n).halted = false) :
    s.haltRing n prod = { s.setSub n { s.sub n with halted := true } with
      log := s.log.add s.clkCtl 0x0D 0 0xFF 0 (prod.toNat + n * 2 ^ 32) (s.sub n).ctx 0
      comps := putAt CompRing.reset s.comps (s.sub n).cring ((s.comp (s.sub n).cring).take ((s.sub n).haltRecord n)) } := by
  simp only [State.haltRing, h, Bool.false_eq_true, if_false, State.logEvent_eq (show (0 : Nat) ≠ 3 by decide)]
  rfl

/-- A completion ring that has taken a record is not as it was at reset. -/
theorem CompRing.take_ne_reset {c : CompRing} {r : Rec} : c.take r ≠ CompRing.reset := by
  unfold CompRing.take
  split
  · exact fun h => List.append_ne_nil_of_right_ne_nil _ (by simp) (congrArg CompRing.waiting h)
  · exact fun h => List.append_ne_nil_of_right_ne_nil _ (by simp) (congrArg CompRing.held h)

/-! ### Fetch -/

/-- A ring that may fetch copies the descriptor at CONS (R448). -/
theorem exec_descFetch {q : ReadCheck} (hm : s.mayFetch n = true) (hb : s.bobReady (s.slotAt n) = true) (he : s.subPastEnd n = false) :
    exec (.descFetch ⟨n, q⟩) s = .next (s.fetchNext n q) := by
  simp only [exec, execDescFetch, hm, hb, he, Bool.and_self, if_true, Bool.false_eq_true, if_false]

/-- A descriptor whose read failed twice at a byte of its slot is lost (R357, R481). -/
theorem State.fetchMet_lasting {a : Nat} {r : BadRead} (h : slotRead a r = true) : s.fetchMet x a (.lasting r) = s.fetchLost x r := if_pos h

/-- A byte of the slot may meet a lasting POISON. -/
theorem slotRead_poison {a b : Nat} (h : a ≤ b) (h' : b < a + 64) : slotRead a (.poison b) = true := by simp [slotRead, h, h']

/-- The first field that a descriptor's checks refuse (R456). -/
def State.refusedField (s : State) (x : Desc) : Option Nat :=
  firstFail (headerChecks x.bytes x.ctx s.verSel ++ s.opChecks x.ctx x.bytes)

/-- A descriptor that its checks refuse retires BAD_DESC with the offset of that field (R456, R464). -/
theorem State.accept_refused {pos : Nat} (h : s.refusedField x = some pos) : s.accept x = s.retire x 0x03 pos := by
  unfold State.refusedField at h
  simp only [State.accept, h]

/-- One that passes keeps the translations of its references (R390); an ABORT acts at once instead. -/
theorem State.accept_resolved (h : s.refusedField x = none) (ho : x.opcode ≠ 0x7E)
    (hr : (s.resolveAll (s.partOf x) [] x.bytes).status = none) :
    s.accept x = s.setDesc { x with trans := (s.resolveAll (s.partOf x) [] x.bytes).trans } := by
  unfold State.refusedField at h
  simp only [State.accept, h, hr]
  exact if_neg ho

/-- Settles O21: watches and the read of PROD (R360, R448, R449), and the fetch of a descriptor (R364, R365, R390, R448, R456). -/
theorem watchesAndFetch : Obligations.WatchesAndFetch := by
  unfold Obligations.WatchesAndFetch
  refine ⟨⟨fun s n => ?watch, fun s r k hop hr hw hf hk hup hreq => State.ask_watch hop hr hw hf hk hup hreq⟩, ?fetch⟩
  case watch =>
    refine ⟨fun p hp => exec_watchArmed hp, exec_watchArmed_none, fun ho ha => ?_, exec_prodReadReturn_none, fun p hp hf he => ?_⟩
    · exact ⟨congrArg _ (State.rearm_armed ho ha), congrArg _ (State.rearm_armed ho ha)⟩
    · intro r prod u
      have hsub : u.sub n = r := State.readAnswered_sub
      rw [exec_prodReadReturn hp hf he]
      refine ⟨fun hwithin => congrArg _ ?_, fun hbeyond hhalted => ⟨_, rfl, ?_⟩⟩
      · rw [State.takeProd_within (by rwa [State.readAnswered_sub]), State.readAnswered_sub]
        rfl
      · rw [State.takeProd_beyond (by rwa [State.readAnswered_sub]), State.haltRing_eq (by rwa [State.readAnswered_sub]),
          State.readAnswered_sub, State.readAnswered_comp]
        exact ⟨getAt_putAt_listed CompRing.take_ne_reset, rfl⟩
  case fetch =>
    intro s n r a hm hb he bs x u v checks
    refine ⟨exec_descFetch hm hb he, fun pos h => State.accept_refused h, fun h ho hr => State.accept_resolved h ho hr, fun b hab hba => ?_⟩
    intro y
    rw [exec_descFetch hm hb he]
    exact congrArg _ (State.fetchMet_lasting (slotRead_poison hab hba))

end Sys2Proof.Machine
end

section
/-!
SUPPORT. Range faults (R376 to R378, R400 to R402) and the mirror sweep (R406, R407, R481, R498): what a REPLY does to the streams that it names,
how a fault's record is sent, and what one compare of an entry comes to. O38 is their short consequence.
-/

namespace Sys2Proof.Machine

set_option Elab.async false

variable {s t u : State} {x y : Desc} {d e : Did} {f : PFault} {h n part id : Nat} {fail : Bool} {act : State → PFault → State} {i : Instr}

/-! ### ADVISE REPLY -/

/-- The two instructions of a REPLY, each with its action on a fault (R402). -/
theorem exec_eq_reply
    (hi : (fail, i, act) ∈ [(false, Instr.adviseReplyResume d, State.resumeStream), (true, .adviseReplyFail d, State.failStream)]) :
    exec i s = .next (s.reply d fail act) := by
  simp only [List.mem_cons, Prod.mk.injEq, List.not_mem_nil, or_false] at hi
  rcases hi with ⟨rfl, rfl, rfl⟩ | ⟨rfl, rfl, rfl⟩ <;> rfl

/-- Each instruction has its action. -/
theorem reply_action (hi : (fail, i) ∈ [(false, Instr.adviseReplyResume d), (true, .adviseReplyFail d)]) :
    ∃ act, (fail, i, act) ∈ [(false, Instr.adviseReplyResume d, State.resumeStream), (true, .adviseReplyFail d, State.failStream)] := by
  simp only [List.mem_cons, Prod.mk.injEq, List.not_mem_nil, or_false] at hi
  rcases hi with ⟨rfl, rfl⟩ | ⟨rfl, rfl⟩
  · exact ⟨State.resumeStream, by simp⟩
  · exact ⟨State.failStream, by simp⟩

section
variable (hx : s.running? d [0x42] = some x) (hop : adviseOp x.bytes = 3) (hfail : bitOf (byteOf x.bytes 9) 0 = fail)
include hx hop hfail

/-- A generation that differs ends a REPLY (R402). -/
theorem State.reply_stale (hg : (s.range x.handle).gen ≠ x.gen) : s.reply d fail act = s.retire x 0x11 0 := by
  simp [State.reply, hx, hop, hfail, hg]

variable (hown : s.ownsHandle (s.partOf x) x.handle = true) (hg : (s.range x.handle).gen = x.gen)
include hown hg

/-- A REPLY that names another handle's fault (R402). -/
theorem State.reply_foreign (hf : ∃ f ∈ s.replyFaults x, f.handle ≠ x.handle) : s.reply d fail act = s.retire x 0x03 10 := by
  have hany : (s.replyFaults x).any (fun f => f.handle != x.handle) = true := by simpa using hf
  simp only [State.reply, hx, hop, hfail, hg, hown, hany, bne_self_eq_false, Bool.or_self, Bool.not_true, Bool.false_eq_true, if_false, if_true]

/-- A REPLY that names no pending fault (R402). -/
theorem State.reply_none (hf : s.replyFaults x = []) : s.reply d fail act = s.retire x 0x02 0 := by
  simp [State.reply, hx, hop, hfail, hg, hown, hf]

/-- The state once a REPLY has acted on each fault that it names; a FAIL notes every one of them first (R402, R466). -/
def State.replied (s : State) (x : Desc) (fail : Bool) (act : State → PFault → State) : State :=
  (s.replyFaults x).foldl act (if fail then (s.replyFaults x).foldl State.noteFailed s else s)

/-- A REPLY acts on each fault that it names, in turn, and retires OK where it still stands (R402). -/
theorem State.reply_acts (hf : ∀ f ∈ s.replyFaults x, f.handle = x.handle) (hne : s.replyFaults x ≠ []) :
    s.reply d fail act = match (s.replied x fail act).desc? d with
      | some y => (s.replied x fail act).retire y 0 0
      | none => s.replied x fail act := by
  have hany : (s.replyFaults x).any (fun f => f.handle != x.handle) = false := by simpa using hf
  have hempty : (s.replyFaults x).isEmpty = false := by simpa using hne
  simp only [State.reply, hx, hop, hfail, hg, hown, hany, hempty, bne_self_eq_false, Bool.or_self, Bool.not_true, Bool.false_eq_true,
    if_false]
  rfl

end

/-! ### Halted streams -/

/-- `s` without a pending fault. -/
def State.withoutFault (s : State) (f : PFault) : State := { s with faults := s.faults.filter (fun g => g != f) }

/-- A resumed stream whose range is not resident waits again, without an id (R402). -/
theorem State.resumeStream_waits (hr : (s.range f.handle).res = false) :
    s.resumeStream f = { s.withoutFault f with faults := (s.withoutFault f).faults ++ [{ f with id := none }] } := by
  have hres : ((s.withoutFault f).range f.handle).res = false := hr
  unfold State.withoutFault at hres ⊢
  simp only [State.resumeStream, hres, Bool.not_false, if_true]

section
variable {r : Resolved} (hres : (s.range f.handle).res = true) (he : f.d = some e) (hy : s.desc? e = some y)
  (hr : (s.withoutFault f).resolveMissing f.part (keepTrans y.trans (transOf f.handle (s.range f.handle))) y.bytes = r)
include hres he hy hr

/-- One whose range is resident resolves its descriptor's references anew (R402). -/
theorem State.resumeStream_resolves : s.resumeStream f = match r.status with
    | some (st, det) => ((s.withoutFault f).stopKernel y).retire y st det
    | none => (s.withoutFault f).openDesc
        { y with st := if (s.withoutFault f).faults.any (fun g => g.d == some y.did) then .halted else .running, trans := r.trans } := by
  have hrange : ((s.withoutFault f).range f.handle).res = true := hres
  have hdesc : f.d.bind (s.withoutFault f).desc? = some y := by rw [he]; exact hy
  subst hr
  unfold State.withoutFault at hrange hdesc ⊢
  simp only [State.resumeStream, hrange, hdesc, Bool.not_true, Bool.false_eq_true, if_false]
  rfl

/-- Where they resolve it goes on; its descriptor runs once none of its streams is halted (R402). -/
theorem State.resumeStream_runs (hst : r.status = none) : s.resumeStream f = (s.withoutFault f).openDesc
    { y with st := if (s.withoutFault f).faults.any (fun g => g.d == some y.did) then .halted else .running, trans := r.trans } := by
  rw [State.resumeStream_resolves hres he hy hr, hst]

/-- Where they do not it ends its descriptor (R390). -/
theorem State.resumeStream_ends {q : Nat × Nat} (hst : r.status = some q) :
    s.resumeStream f = ((s.withoutFault f).stopKernel y).retire y q.1 q.2 := by
  rw [State.resumeStream_resolves hres he hy hr, hst]

end

/-- A stream that has gone is not failed again. -/
theorem State.failStream_gone (hf : f ∉ s.faults) : s.failStream f = s := if_neg (by simpa using hf)

/-- A failed stream ends its context with RANGE_FAULT, noted for its descriptor or loop first (R402). -/
theorem State.failStream_tears (hf : f ∈ s.faults) :
    s.failStream f = ((s.withoutFault f).noteFailed f).tearDown f.ctx 0x10 0xFF 0 f.d := if_pos (by simpa using hf)

/-- RANGE_FAULT noted for a descriptor. -/
theorem State.noteFailed_desc (he : f.d = some e) (hl : f.d.bind s.loopOf = none) : s.noteFailed f = s.noteStatus e 0x10 0 := by
  have hloop : s.loopOf e = none := by simpa [he] using hl
  simp only [State.noteFailed, he, hloop]

/-- RANGE_FAULT noted for a loop. -/
theorem State.noteFailed_loop (hl : f.d.bind s.loopOf = some n) : s.noteFailed f = s.noteLoop n 0x10 := by
  obtain ⟨e, he, hloop⟩ := Option.bind_eq_some_iff.mp hl
  simp only [State.noteFailed, he, hloop]

/-! ### The record of a fault -/

/-- A record sent to a partition's fault ring takes the ring's next entry; PROD and the message follow, each behind a FENCE (R365, R400). -/
def State.faultRingWrites (s : State) (part : Nat) (bs : List Byte) : State :=
  let p := s.part part
  (((s.setPart part { p with faultProd := p.faultProd + 1 }).bobWrite (portOf p.fbase) (p.fbase + 128 + 32 * (p.faultProd.toNat % 2 ^ p.fl)) bs
    false none).bobWrite (portOf p.fbase) p.fbase (natLe 4 (p.faultProd + 1).toNat) true none).bobWrite (portOf p.fbase) p.fmsg
    (natLe 4 p.fdata.toNat) true none

/-- Those writes are what a record's push sends. -/
theorem State.pushFault_eq {bs : List Byte} : s.pushFault part bs = s.faultRingWrites part bs := rfl

/-- They change the ports, what waits, and the partition's PROD alone. -/
theorem State.smallsOnly_faultRingWrites {bs : List Byte} :
    (s.setPart part { s.part part with faultProd := (s.part part).faultProd + 1 }).SmallsOnly (s.faultRingWrites part bs) :=
  (State.smallsOnly_bobWrite.trans State.smallsOnly_bobWrite).trans State.smallsOnly_bobWrite

/-- The oldest fault of a partition without an id is told of in a record, once its ring has room (R400, R401). -/
theorem exec_rangeFaultRecord (hf : s.faults.find? (fun f => f.part == part && f.id.isNone) = some f)
    (hid : freeId (s.faults.filterMap PFault.id) Config.maxFaults s.nextFault = some id) (hp : part < 8) (hv : s.serving = true)
    (hroom : ringRoom (s.part part).fl (s.part part).faultProd (s.faultCons part) = true)
    (hb : pastEnd (s.part part).fbase (ringSpan (s.part part).fl 32) = false) (hm : pastEnd (s.part part).fmsg 4 = false) :
    exec (.rangeFaultRecord part) s = .next (s.sendFault f id) := by
  simp [exec, execRangeFaultRecord, hf, hid, hp, hv, hroom, hb, hm]

/-- What the sending of a fault's record leaves: the fault keeps its id where a stream waits on it, and is gone otherwise. -/
theorem State.sendFault_eq (hpart : f.part = part) : s.sendFault f id = { s with
    parts := (s.setPart part { s.part part with faultProd := (s.part part).faultProd + 1 }).parts
    ports := (s.faultRingWrites part (faultBytes f id)).ports
    smalls := (s.faultRingWrites part (faultBytes f id)).smalls
    faults := if f.reason = 0 then s.faults.erase f ++ [{ f with id := some id }] else s.faults.erase f
    nextFault := (id + 1) % 4096 } := by
  subst hpart
  unfold State.sendFault
  rw [State.pushFault_eq, State.smallsOnly_faultRingWrites]
  rfl

/-! ### The mirror sweep -/

/-- A read of a range where an entry that is not INVALID was put. -/
theorem State.range_setRange_of_st {v : RangeEnt} (hv : v.st ≠ .invalid) : (s.setRange h v).range h = v :=
  getAt_putAt_listed (fun hreset => hv (congrArg RangeEnt.st hreset))

/-- A sound entry is compared (R406). -/
theorem exec_mirrorSweep_sound (hh : h < 16384) (hv : s.serving = true) : exec (.mirrorSweep ⟨h, false⟩) s = .next (s.sweepOne h) := by
  simp [exec, execMirrorSweep, Config.rangeEntries, hh, hv]

/-- A damaged one is reloaded (R498). -/
theorem exec_mirrorSweep_damaged (hh : h < 16384) (hv : s.serving = true) : exec (.mirrorSweep ⟨h, true⟩) s = .next (s.reloadEntry h) := by
  simp [exec, execMirrorSweep, Config.rangeEntries, hh, hv]

/-- What a compare found is kept for the next one (R406). -/
def State.swept (s : State) (h : Nat) : State := { s with sweep := putAt 0 s.sweep h (s.sweepFinds h) }

/-- A compare that finds nothing, or not what the last one found, changes nothing else. -/
theorem State.sweepOne_keeps (hn : s.sweepFinds h = 0 ∨ s.sweepFinds h ≠ getAt 0 s.sweep h) : s.sweepOne h = s.swept h :=
  if_neg (by simpa [imp_iff_not_or] using hn)

/-- One that finds the same difference again quarantines the entry (R407). -/
theorem State.sweepOne_quarantines (hn : s.sweepFinds h ≠ 0) (hw : s.sweepFinds h = getAt 0 s.sweep h) :
    s.sweepOne h = (s.swept h).quarantineRange h (if s.sweepFinds h = 1 then 2 else 1) := if_pos (by simpa [hn] using hw)

/-- A quarantined entry is QUARANTINED, and only ranges, faults and the log differ (R407). -/
theorem State.quarantineRange_quarantines {reason : Nat} :
    (s.quarantineRange h reason).range h = { s.range h with st := .quarantined } ∧ s.quarantineRange h reason =
      { s with ranges := (s.quarantineRange h reason).ranges, faults := (s.quarantineRange h reason).faults,
               log := (s.quarantineRange h reason).log } := by
  unfold State.quarantineRange
  simp only [State.logEvent_eq (show (2 : Nat) ≠ 3 by decide)]
  exact ⟨State.range_setRange_of_st (by simp), rfl⟩

/-- Only the log differs. -/
def State.LogOnly (s t : State) : Prop := t = { s with log := t.log }

/-- A repeat that succeeded changes the log alone (R484). -/
theorem State.logOnly_noteRepeat {event unit index place : Nat} : s.LogOnly (s.noteRepeat event unit index place) := by
  unfold State.noteRepeat State.LogOnly
  simp only [State.logEvent_eq (show (0 : Nat) ≠ 3 by decide)]
  split
  · rfl
  · split <;> rfl

/-- A damaged entry that is INVALID stands as it was. -/
theorem State.reloadEntry_invalid (hs : (s.range h).st = .invalid) : s.reloadEntry h = s := if_pos hs

/-- One whose mirror is intact and of its generation is brought back from it, with its state in the engine (R498). -/
theorem State.reloadEntry_intact (hs : (s.range h).st ≠ .invalid) (hm : mirrorIntact (s.mirrorAt h) = true)
    (hg : fieldOf (s.mirrorAt h) 16 2 = (s.range h).gen.toNat) :
    (s.reloadEntry h).range h = { mirrorEnt (s.mirrorAt h) with st := (s.range h).st, was := (s.range h).was, held := (s.range h).held }
      ∧ s.reloadEntry h = { s with ranges := (s.reloadEntry h).ranges, log := (s.reloadEntry h).log } := by
  have hreload : s.reloadEntry h = ((s.setRange h { mirrorEnt (s.mirrorAt h) with
      st := (s.range h).st, was := (s.range h).was, held := (s.range h).held }).logEvent 0x01 1 8 0 h).noteRepeat 0x01 8 0 h := by
    simp [State.reloadEntry, hs, hm, hg]
  rw [hreload, State.logOnly_noteRepeat, State.logEvent_eq (by decide)]
  exact ⟨State.range_setRange_of_st hs, rfl⟩

/-- Any other damaged entry is quarantined (R498). -/
theorem State.reloadEntry_quarantines (hs : (s.range h).st ≠ .invalid)
    (hm : mirrorIntact (s.mirrorAt h) = false ∨ fieldOf (s.mirrorAt h) 16 2 ≠ (s.range h).gen.toNat) :
    s.reloadEntry h = s.quarantineRange h 2 := by
  have hbad : ¬ (mirrorIntact (s.mirrorAt h) && fieldOf (s.mirrorAt h) 16 2 == (s.range h).gen.toNat) = true := by
    rcases hm with hm | hm <;> simp [hm]
  exact (if_neg hs).trans (if_neg hbad)

/-- Settles O38: REPLYs (R377, R402), the record of a range fault (R376, R400, R401), the mirror sweep (R406, R407) and the reload of a damaged
entry (R498). -/
theorem rangeFaultsAreRecordedSweptAndAnswered : Obligations.RangeFaultsAreRecordedSweptAndAnswered := by
  unfold Obligations.RangeFaultsAreRecordedSweptAndAnswered
  refine ⟨fun s d x => ⟨?stale, ?reply, fun f => ?stream⟩, ?record, fun s h hh hv => ?sweep⟩
  case stale =>
    intro fail i hi hx hop hfail hg
    obtain ⟨act, hact⟩ := reply_action hi
    rw [exec_eq_reply hact, State.reply_stale hx hop hfail hg]
  case reply =>
    intro hx hop hown hg fail i act hi hfail
    rw [exec_eq_reply hi]
    refine ⟨fun hf => congrArg _ (State.reply_none hx hop hfail hown hg hf),
      fun hf => congrArg _ (State.reply_foreign hx hop hfail hown hg hf), fun hf hne => ?_⟩
    rw [State.reply_acts hx hop hfail hown hg hf hne]
    exact ⟨fun y (hy : (s.replied x fail act).desc? d = some y) => by rw [hy]; rfl,
      fun (hgone : (s.replied x fail act).desc? d = none) => by rw [hgone]; rfl⟩
  case stream =>
    refine ⟨State.resumeStream_waits, fun hres e y he hy => ⟨State.resumeStream_runs hres he hy rfl,
      fun q hst => State.resumeStream_ends hres he hy rfl hst⟩, State.failStream_gone, fun hf hl e he => ?_, fun hf n hl => ?_⟩
    · exact (State.failStream_tears hf).trans (congrArg (State.tearDown · f.ctx 0x10 0xFF 0 f.d) (State.noteFailed_desc he hl))
    · exact (State.failStream_tears hf).trans (congrArg (State.tearDown · f.ctx 0x10 0xFF 0 f.d) (State.noteFailed_loop hl))
  case record =>
    intro s part f id p i hf hid hp hv hroom hb hm
    have hfound : (f.part == part && f.id.isNone) = true := List.find?_some (p := fun f : PFault => f.part == part && f.id.isNone) hf
    have hpart : f.part = part := by simpa using (Bool.and_eq_true_iff.mp hfound).1
    refine ⟨_, (exec_rangeFaultRecord hf hid hp hv hroom hb hm).trans (congrArg _ (State.sendFault_eq hpart)), ?_⟩
    exact ⟨rfl, rfl, rfl, ⟨rfl, rfl⟩, rfl⟩
  case sweep =>
    intro e bs now u
    rw [exec_mirrorSweep_sound hh hv, exec_mirrorSweep_damaged hh hv]
    refine ⟨fun hn => congrArg _ (State.sweepOne_keeps hn), fun hn hw => ?_, fun hs => congrArg _ (State.reloadEntry_invalid hs),
      fun hs hm hg => ⟨_, rfl, State.reloadEntry_intact hs hm hg⟩, fun hs hm => ?_⟩
    · exact ⟨_, congrArg _ (State.sweepOne_quarantines hn hw), State.quarantineRange_quarantines⟩
    · exact ⟨_, congrArg _ (State.reloadEntry_quarantines hs hm), State.quarantineRange_quarantines⟩

end Sys2Proof.Machine
end
